-- ==== Sys2Proof/Word.lean ====
section
/-! DEFINITION. The word types of the module (R6, R8, R9): bytes, 64-bit registers and stamps. -/

namespace Sys2Proof

/-- One byte of memory (R6). -/
abbrev Byte := BitVec 8

/-- A 64-bit register, global address or plumb stamp (R8, R9). -/
abbrev Word := BitVec 64

/-- A string of bytes, lowest address first (R6). -/
abbrev Bytes := List (BitVec 8)

end Sys2Proof
end

