-- ==== Sys2Proof/Syntax.lean ====
section
/-! DEFINITION. The commands of the module: one constructor of `Instr` for each row of spec/opcode_table.json, with the
operands each step needs. The table gives no operand fields; the operands are the model's (log entry 1). -/

namespace Sys2Proof

/-- Who issues a register access (R10, R364, R369, R412, R463). -/
inductive Master where
  | host
  | mgmt
  | core (hub k : Nat)     -- control core k of hub die 8 or 9
  | image                  -- a record of the configuration image (R412)
  deriving DecidableEq, Repr

/-- The operand formats of a product beat (R98, R143): FP16, FP32, or SFP16 elements placed in a window (R62). -/
inductive BeatFormat where
  | fp16 | fp32 | sfpWindow
  deriving DecidableEq, Repr

/-- The second pair of operand vectors of a quad beat (R99): the row operand of block rows 32 to 63 and the column operand of block columns
32 to 63, with their scale exponents. -/
structure QuadBeat where
  rowVec : Option (List (BitVec 32))
  colVec : Option (List (BitVec 32))
  rowExp : List Int
  colExp : List Int
  deriving DecidableEq, Repr

/-- What one engine beat is given (R98): the two operand vectors, absent when not yet supplied, the scale exponents of the
second case of R62, a program-supplied anchor, and whether this is the tile's last contraction index; and, where the four engines of the core
beat as a quad, the second pair of vectors (R99). -/
structure Beat where
  format : BeatFormat
  rowVec : Option (List (BitVec 32))
  colVec : Option (List (BitVec 32))
  rowExp : List Int
  colExp : List Int
  anchor : Option Int
  last   : Bool
  quad   : Option QuadBeat
  deriving DecidableEq, Repr

/-- How the shadow set comes to be free for the next tile (R102): its last drain has completed, it is cleared, or it is reloaded with a
spilled set's words (R104). -/
inductive SetFill where
  | drained
  | cleared
  | reloaded (words : List (BitVec 128))
  deriving DecidableEq, Repr

/-- A switch of an engine's sets: the engine, and how its shadow set is made free for the next tile (R102). -/
structure SetSwitch where
  engine : Nat
  fill   : SetFill
  deriving DecidableEq, Repr

/-- Which instance of a counted unit (R54): class, die and index. -/
structure UnitId where
  cls : Nat
  die : Nat
  idx : Nat
  deriving DecidableEq, Repr

/-- A plumb sync message (R34 to R36): the follower's request with t1, or the upstream's reply with t1, t2 and t3. -/
inductive SyncMsg where
  | request (t1 : BitVec 64)
  | reply (t1 t2 t3 : BitVec 64)
  deriving DecidableEq, Repr

/-- The four replies to a remote accumulate packet (R254). -/
inductive AccReply where
  | added | duplicate | retry | denied
  deriving DecidableEq, Repr

/-- The remote accumulate packet: the 32-byte header of R252 and its payload. -/
structure AccPacket where
  job      : BitVec 16
  red      : BitVec 16
  window   : BitVec 32
  source   : BitVec 16
  format   : BitVec 8
  cls      : BitVec 8
  seq      : BitVec 32
  chunks   : BitVec 32
  elements : BitVec 16
  origin   : BitVec 16
  stamp    : BitVec 40
  payload  : Bytes
  deriving DecidableEq, Repr

/-- The kinds of lease request (R238). -/
inductive LeaseOp where
  | takeRead | takeCompare | takeWrite | release | check
  deriving DecidableEq, Repr

/-- A lease request as it reaches the home hub (R238, R239): who asks, for which region, step and ticket. -/
structure LeaseReq where
  op      : LeaseOp
  pkg     : Nat
  ctx     : Nat
  job     : BitVec 16
  home    : BitVec 64
  bytes   : Nat
  step    : Nat
  version : BitVec 64     -- of the ticket, for the comparing forms
  tstep   : Nat           -- step of the ticket
  tag     : Nat
  deriving DecidableEq, Repr

/-- The outcome of a lease request (R239, R241, R243). -/
inductive LeaseOutcome where
  | granted (version : BitVec 64) (written : Nat) (stamp : BitVec 64)
  | stale
  | denied
  | timeout
  | done
  deriving DecidableEq, Repr

/-- What a Lintel packet carries after the route header, by TYPE (R345). -/
inductive Body where
  | accumulate (p : AccPacket)
  | accumulateReply (red : BitVec 16) (window : BitVec 32) (source : BitVec 16) (seq : BitVec 32) (r : AccReply)
  | leaseRequest (r : LeaseReq)
  | leaseReply (tag : Nat) (o : LeaseOutcome)
  | readRequest (addr : BitVec 64) (tag : Nat) (bytes : Nat)
  | readCompletion (tag : Nat) (status : Nat) (data : Bytes) (poisoned : List Nat)
  | write (addr : BitVec 64) (tag : Nat) (data : Bytes)
  | writeReply (tag : Nat) (status : Nat)
  | plumbSync (m : SyncMsg)
  | heartbeat (pkg : Nat) (state : Nat)
  | wake
  | faultReport (data : Bytes)
  | mirrorMark (range tag : Nat) (stamp : BitVec 64)
  | session (data : Bytes)
  | reserved (type : BitVec 8)
  deriving DecidableEq, Repr

/-- A Lintel packet: the route header of R345 and its body. LENGTH is the header's own field. -/
structure Packet where
  dest   : Nat
  cls    : Nat
  src    : Nat
  ttl    : Nat
  length : Nat
  job    : BitVec 16
  stamp  : BitVec 40
  body   : Body
  deriving DecidableEq, Repr

/-- The 32-bit header of a flit (R342): FSEQ, KIND and START, with the lane that carries the flit. -/
structure FlitHead where
  lane  : Nat
  fseq  : BitVec 16
  kind  : BitVec 4
  start : BitVec 12
  deriving DecidableEq, Repr

/-- A flit as a receiver takes it off its lane (R341, R342): its header, whether its codeword was correctable, and the packets whose last
byte its body holds; a packet that spans flits is listed with the last of them. -/
structure Flit where
  head    : FlitHead
  ok      : Bool
  packets : List Packet
  deriving DecidableEq, Repr

/-- A received Lintel frame (R341 to R343): the number, acknowledgement and re-request of its seal flit, whether the tag verifies, and the
flits that arrived since the seal of the frame before it, in the order of their arrival on the lanes. -/
structure Frame where
  number : BitVec 64
  tagOk  : Bool
  ack    : BitVec 64
  again  : Option (BitVec 64)
  flits  : List Flit
  deriving DecidableEq, Repr

/-- Why a lane leaves service (R353): lost signal, an uncorrectable codeword in 3 consecutive frames, or the given number of
corrected symbols in a window of 2^20 codewords. -/
inductive LaneCause where
  | signal
  | codewords
  | corrected (symbols : Nat)
  deriving DecidableEq, Repr

/-- A recovery chunk (R421). -/
structure Chunk where
  kind   : Nat
  offset : Nat
  total  : Nat
  data   : Bytes
  deriving DecidableEq, Repr

/-- The results of the start-up tests that the outside decides (R313, R315, R336, R417 to R419). -/
structure BootTests where
  nearOk       : Bool
  hubsAgree    : Bool
  farChannels  : List Nat          -- package channels whose module trained
  farGiB       : Nat               -- module capacity, 64, 128 or 256
  cxlGiB       : List Nat          -- capacity of the device on each of the four ports, 0 for none
  deriving DecidableEq, Repr

/-- The result of the compute-die self-test (R419): the failed physical cores, the clusters whose keystone, walker or
cluster memory failed, and whether every die-to-die port passed. -/
structure DieTests where
  failedCores    : List Nat
  failedClusters : List Nat
  portsOk        : Bool
  deriving DecidableEq, Repr

/-- What a patrol read finds (R316 to R319): a clean line, a corrected one (1 in-die, 2 controller code) or an
uncorrectable one. -/
inductive ScrubResult where
  | clean
  | corrected (how : Nat)
  | uncorrectable
  deriving DecidableEq, Repr

/-- What failed in a fault that is not a single fault (R28). -/
inductive WholeFault where
  | hubDie (hub : Nat)
  | computeDie (die : Nat)
  | rowRoutes
  deriving DecidableEq, Repr

/-- The chroma of a coded picture, or the sampling of its components (R279). -/
inductive Chroma where
  | mono | c420 | c422 | c444 | other
  deriving DecidableEq, Repr, Inhabited

/-- What a picture's headers tell (R279, R284): whether every tool it uses beside depth and chroma is accepted, its size, the bits of a
sample, its chroma, the identifiers of a JPEG's components, a PNG's colour type and whether a tRNS chunk is present, and the
display-order frame number. -/
structure PictureHead where
  plain  : Bool
  width  : Nat
  height : Nat
  depth  : Nat
  chroma : Chroma
  ids    : List Nat
  colour : Nat
  trns   : Bool
  frame  : Nat
  deriving DecidableEq, Repr, Inhabited

/-- What a picture's data gives: the samples of its planes, with the palette and its alphas for the indices of a palette image, or the
reason for which it cannot be decoded (R290). -/
inductive PictureBody where
  | planes (planes : List (List Nat)) (palette : List (Nat × Nat × Nat)) (alphas : List Nat)
  | damaged (reason : Nat)
  deriving DecidableEq, Repr, Inhabited

/-- A coded picture: its header and its data, or damage before the header is complete; or no picture is left. -/
inductive CodedPicture where
  | coded (head : PictureHead) (body : PictureBody)
  | damaged (reason : Nat)
  | finished
  deriving DecidableEq, Repr, Inhabited

/-- An access unit as a decoder reads it: whether it is a random access point, the sizes that its headers claim, in order, and its
picture. The codecs of R279 are defined by outside standards: the standard's answer is an opaque function of Config (log entry 9). -/
structure CodedUnit where
  key     : Bool
  claims  : List (Nat × Nat)
  picture : CodedPicture
  deriving DecidableEq, Repr, Inhabited

/-- A recording as the audio decoder of the control core reads it (R279, R292, R300): whether every option it uses beside rate, channels
and depth is accepted, these three, the interleaved samples of each packet decoded, and the reason of a damage that ends them; or damage
before its header is complete. -/
inductive AudioResult where
  | coded (plain : Bool) (rate channels depth : Nat) (packets : List (List Int)) (stop : Option Nat)
  | damaged (reason : Nat)
  deriving DecidableEq, Repr, Inhabited

/-- What the encoder emits for one picture: the access unit's bytes, the reference bookkeeping and the reference picture area it leaves,
and the coding blocks it encoded. -/
structure EncodedPicture where
  bits  : Bytes
  refs  : Bytes
  work  : Bytes
  units : Nat
  deriving DecidableEq, Repr, Inhabited

/-- The commands of the block, in the order of spec/opcode_table.json. A Quento instruction is named by the lead physical
cluster `c` of the command that holds it and its index `i` in the program (R139, R141, R382). -/
inductive Instr where
  | move (c i : Nat)
  | moveMulticast (c i : Nat)
  | moveFill (c i : Nat)
  | matmul (c i : Nat)
  | convDirect (c i : Nat)
  | convMin2 (c i : Nat)
  | convMin4 (c i : Nat)
  | convS2c (c i : Nat)
  | convC2s (c i : Nat)
  | poolMax (c i : Nat)
  | poolAvg (c i : Nat)
  | poolMaxBwd (c i : Nat)
  | poolAvgBwd (c i : Nat)
  | attendFwd (c i : Nat)
  | attendBwd (c i : Nat)
  | attendMixed (c i : Nat)
  | scatterKv (c i : Nat)
  | vecBinary (c i : Nat)
  | vecFma (c i : Nat)
  | vecUnary (c i : Nat)
  | vecReduce (c i : Nat)
  | vecConvert (c i : Nat)
  | vecImac (c i : Nat)
  | vecNarrow (c i : Nat)
  | vecCompare (c i : Nat)
  | drain (c i : Nat)
  | reduceSend (c i : Nat)
  | reduceRead (c i : Nat)
  | reduceStats (c i : Nat)
  | mediaDecode (c i : Nat)
  | mediaEncode (c i : Nat)
  | mediaPyramid (c i : Nat)
  | mediaCrop (c i : Nat)
  | mediaPack (c i : Nat)
  | legacyCrop (c i : Nat)
  | legacyResize (c i : Nat)
  | legacyFlip (c i : Nat)
  | legacyRotate (c i : Nat)
  | rand (c i : Nat)
  | sync (c i : Nat)
  | chainBegin (c i : Nat)
  | chainStage (c i : Nat)
  | chainEnd (c i : Nat)
  | leaseTakeRead (c i : Nat)
  | leaseTakeCompare (c i : Nat)
  | leaseTakeWrite (c i : Nat)
  | leaseRelease (c i : Nat)
  | leaseCheck (c i : Nat)
  | statTime (c i : Nat)
  | statStep (c i : Nat)
  | statCores (c i : Nat)
  | engineBeat (e : Nat) (b : Beat)
  | shadowSwitch (x : SetSwitch)
  | drainBegin (e : Nat) (beats : Nat)          -- beats passed since the tile's last beat
  | instructionIssue (c : Nat)
  | haloCopy (c i l : Nat)                      -- participating core l of pinned CONV i
  | queueTailWrite (addr : BitVec 64)           -- a write reached this watched line
  | commandStart (k : Nat)                      -- keystone of physical cluster k
  | mark (ctx q : Nat)
  | fillCommandStart (k : Nat)
  | commandCommit (c : Nat)
  | noticeTimeout (tag : Nat)
  | pieceEnd (c : Nat)
  | commandKill (c : Nat)
  | loadRequest (ctx : Nat)
  | retranslation (k : Nat)
  | keyApply (k : Nat)
  | imemLoadStart (k : Nat)
  | imemLoadDone (k : Nat)
  | keyInject (k : Nat) (v : BitVec 64)
  | keySchedApply (k : Nat)
  | keySchedPreempt (k : Nat)
  | wlkApply (k : Nat)
  | clmApply (k : Nat)
  | contextRun (ctx : Nat)
  | contextSuspend (ctx : Nat)
  | suspendComplete (ctx : Nat)
  | contextTeardown (ctx : Nat)
  | contextAbsent (ctx : Nat)
  | plbApply (hub : Nat)
  | syncExchange
  | plumbSync (port : Nat) (m : SyncMsg)
  | exchangeMissed
  | holdoverTimeout
  | beatRateWindow (die : Nat)
  | governorSupply
  | ducApply (hub : Nat) (v : BitVec 64)
  | ductusHeldFlush (die : Nat)
  | cntCaptureAt (t : BitVec 64)
  | captureArmReceived (u : UnitId)
  | captureLatch (u : UnitId)
  | captureDump (hub : Nat)
  | cntCaptureCancel (v : BitVec 64)
  | cntApply (hub : Nat) (v : BitVec 64)
  | registerWrite (m : Master) (addr : BitVec 64) (size : Nat) (v : BitVec 64)
  | accumulate (hub : Nat) (port : Option Nat) (peer : Nat) (p : AccPacket)   -- port none: a die-to-die link
  | windowClose (hub r : Nat)
  | slotClearDone (hub r : Nat)
  | accumulateReply (tag : Nat) (r : AccReply)
  | accumulateRetransmit (tag : Nat)
  | accumulateRetry (tag : Nat)
  | mortarTimeout (c : Nat)
  | morApply (hub : Nat)
  | morShardApply (hub : Nat)
  | morLeaseDrop (hub : Nat) (v : BitVec 64)
  | morRcptSel (hub : Nat) (v : BitVec 64)
  | leaseRequest (hub : Nat) (origin : Nat) (r : LeaseReq)
  | leaseGrant (hub : Nat) (tag : Nat)
  | leaseReply (tag : Nat) (o : LeaseOutcome)
  | leaseTimeout (hub : Nat) (tag : Nat)
  | linkFrame (port : Nat) (f : Frame)
  | laneDrop (port lane : Nat) (why : LaneCause)
  | laneRetrainDone (port : Nat) (lanes : BitVec 8)
  | portTrainingDone (port : Nat) (lanes : BitVec 8) (reversed : Bool) (inverted : BitVec 8) (asym : BitVec 16)
  | sessionHello (port pkg : Nat) (pk : Bytes)
  | sessionKemKey (port : Nat) (key : Bytes)
  | sessionKemCiphertext (port : Nat) (ct : Bytes)
  | sessionSignature (port : Nat) (msg sig : Bytes)
  | sessionRenewal (port : Nat)
  | heartbeatSend (port : Nat)
  | heartbeat (port pkg state : Nat)
  | heartbeatMissed (port : Nat)
  | portFailedRetry (port : Nat)
  | portOff (port : Nat)
  | fullModeRestored (port : Nat) (lanes : BitVec 8)
  | lnkApply (hub : Nat)
  | lnkFlowsReset (hub : Nat)
  | packetForward (port : Nat) (p : Packet)
  | routeTimeout (hub : Nat) (n : Nat)          -- the n-th waiting packet of the hub
  | readRequest (port : Nat) (p : Packet)
  | readCompletion (port : Nat) (p : Packet)
  | write (port : Nat) (p : Packet)
  | writeReply (port : Nat) (p : Packet)
  | remoteAccessTimeout (tag : Nat)
  | wake (port : Nat)
  | faultReport (port : Nat) (data : Bytes)
  | d2dLaneRepair (a b : Nat) (repaired : Bool)
  | hostWindowRead (window : Nat) (off len : Nat)
  | hostWindowWrite (window : Nat) (off : Nat) (data : Bytes)
  | endpointReset
  | doeColophon (nonce : Bytes)
  | doeRecoveryImage (ch : Chunk)
  | entdaa (addr : BitVec 7)
  | identify (tag : BitVec 8)
  | regRead (tag : BitVec 8) (addr : BitVec 64)
  | regWrite (tag : BitVec 8) (addr v : BitVec 64)
  | telemetry (tag : BitVec 8) (n : Nat)
  | health (tag : BitVec 8)
  | mgmtFaultReport (tag : BitVec 8)
  | colophon (tag : BitVec 8) (nonce : Bytes) (off : Nat)
  | recoveryChunk (tag : BitVec 8) (ch : Chunk)
  | norWriteDone
  | bypass
  | idcode
  | samplePreload
  | extest
  | extestPulse
  | extestTrain
  | clamp
  | highz
  | privateScanInstruction (code : Nat)
  | prtGrantGo (hub : Nat) (v : BitVec 64)
  | memApply (hub : Nat)
  | llmCacheMode (hub : Nat)
  | llmScratchpadMode (hub : Nat)
  | llmSwitchDone (hub : Nat)
  | llmFlush (hub part : Nat)
  | llmReleaseKept (hub part : Nat)
  | patrolScrub (hub ctrl : Nat) (space : Nat) (off : Nat) (r : ScrubResult)
  | regulatorRefill (hub : Nat)
  | accessAdmit (hub part res : Nat)
  | enrol (token : Bytes)
  | ownerRelease (token : Bytes)
  | debugUnlock (token : Bytes)
  | keyLoadFresh
  | keyLoadSealed
  | secKeyErase (v : BitVec 64)
  | powerGood (t : BootTests)
  | selfTestDone (t : DieTests)
  | inputRise (mv : Nat)
  | inputUndervoltage (mv : Nat)
  | inputOvervoltage (mv : Nat)
  | enableLow
  | enableHigh
  | pwrApply
  | requestS0
  | requestS1
  | requestS2
  | wakePin
  | wakeTimer
  | s2ExitDone
  | clusterGate (k : Nat)
  | governorGrant (die : Nat)
  | nullBeatRelease (e : Nat)
  | thermalWarn (die : Nat) (c : Nat)
  | thermalTrip (die : Nat) (c : Nat)
  | tripRailsOff
  | coolantLow (inlet outlet flow : Nat) (ms : Nat)
  | mirApply (hub : Nat)
  | mirResync (hub : Nat) (v : BitVec 64)
  | resyncDone (hub m : Nat)
  | mirrorMark (hub m tag : Nat) (stamp : BitVec 64)
  | mirrorBreak (hub m : Nat) (denied : Bool)
  | streamOpen (c i n : Nat)                    -- sample n of MEDIA.DECODE i
  | streamSwitch (hub e : Nat)
  | pictureDecode (c i n : Nat)
  | audioDecode (c i n : Nat)
  | medApply (hub : Nat)
  | evtClaim (hub k : Nat)
  | evtComplete (hub k n : Nat)
  | evtRaise (hub n : Nat)
  | wholeDieFault (f : WholeFault)
  | s2EntryDone
  | inputOvervoltageClear (mv : Nat)
  deriving DecidableEq, Repr

end Sys2Proof
end

