-- ==== Sys2Proof/Config.lean ====
section
/-! DEFINITION. What the manual leaves open: opaque constants without a body, so that no proof can see a value of theirs
(log entries 3, 8, 9, 10). -/

namespace Sys2Proof

/-- A fresh free value for each use: applied to the counter `fresh` of the state (log entry 3). -/
opaque Config.freeNat : Nat → Nat

/-- A free truth value for each use (log entry 3). -/
opaque Config.freeBool : Nat → Bool

/-- The exponent, above −126, of the scale that a copied SFP16 group takes when its elements carry no one valid scale, of which R61 says
only that it is valid: the elements and the scales they carry (R19, log entry 16). -/
opaque Config.mixedScale : List (Nat × Nat) → Fin 254

/-- The accumulator word that a DRAIN after an ATTEND finds at a place, of which no rule states the content: program image, index of the
ATTEND, arguments, step number, what it read, and the place (R19, log entry 21). -/
opaque Config.attendWord : Bytes → Nat → List Nat → Nat → List Nat → Nat → BitVec 128

/-- The FP16 code of P in R187 where the difference of score and log-sum is an infinity, by its sign: no rule states a value (log entry
21). -/
opaque Config.infiniteProb : Bool → BitVec 16

/-- A byte of a core's scratchpad in a range where a distributed instruction keeps its share of a tensor, which the translator lays out as
it chooses: program image, REGION descriptor, the tensor's elements, core, offset (R142, log entry 69). -/
opaque Config.shareByte : Bytes → Nat → List Nat → Nat → Nat → BitVec 8

/-- An element that a distributed instruction reads from a REGION whose bytes something else than one distributed instruction with the same
byte range has written: program image, descriptor, what stands in the range, and the element's place (R142, log entry 69). -/
opaque Config.regionElem : Bytes → Nat → List Nat → Nat → Nat

/-- The granules of cluster memory that a command cannot read correctly, by use (R216, log entry 98). -/
opaque Config.cluStruck : Nat → List Nat

/-- The lines that a command finds uncorrectable in last-level memory, by use (R318, log entry 105). -/
opaque Config.llmStruck : Nat → List Nat

/-- The accumulator words that fail their parity when a DRAIN reads them, by use: the index of the DRAIN, the word's place among those
drained, and the physical core that holds it (R398, log entry 105). -/
opaque Config.accStruck : Nat → List (Nat × Nat × Nat)

/-- The instructions of a command whose code in instruction memory cannot be corrected, by use (R398, log entry 105). -/
opaque Config.codeStruck : Nat → List Nat

/-- The 16-bit enable mask of the native instruction that stands for a Quento instruction in an image that firmware has loaded, of which no
rule gives the format: image, instruction (R118, R119, log entry 10). -/
opaque Config.nativeMask : Bytes → Nat → BitVec 16

/-- An FP32 result of a minimal-filtering convolution that reloads a spilled word, of which no rule says how it enters: the word, and the
result without it (R194, R205, log entry 100). -/
opaque Config.minReload : BitVec 128 → BitVec 32 → BitVec 32

/-- What an outside reader sees of a byte that R384 leaves indeterminate: a function of the use and the address
(log entry 3). -/
opaque Config.freeByte : Nat → Nat → BitVec 8

/-- Whether an event record carries FLAGS bit 0 LATE, of which R44 gives no condition: die, kind and sequence number (log entry 88). -/
opaque Config.lateEvent : Nat → Nat → Nat → Bool

/-- How many hops lie between the plumb root and the deepest package of the plumb tree that a configuration image belongs to (R35): the
image; no field of it tells the depth (log entry 59). -/
opaque Config.plumbDepth : Bytes → Nat

/-- By how many ticks, of the 9 values −4 to +4, a die's plumb time differs from hub die 8's (R33, log entry 5). -/
opaque Config.dieSkew : Nat → Fin 9

/-- SLH-DSA-SHAKE-256s verification (FIPS 205): public key, message, signature (R356, R411, R414; log entry 8). -/
opaque Config.slhVerify : Bytes → Bytes → Bytes → Bool

/-- The signature that the holder of a public key's private part makes (log entry 8). -/
opaque Config.slhSign : Bytes → Bytes → Bytes

/-- ML-KEM-1024: the encapsulation key of a key pair named by a number (R356, R425; log entry 8). -/
opaque Config.kemKey : Nat → Bytes

/-- ML-KEM-1024: the ciphertext made for an encapsulation key from the randomness of one use (log entry 8). -/
opaque Config.kemCipher : Bytes → Nat → Bytes

/-- ML-KEM-1024: the shared secret that goes with the ciphertext of `kemCipher` (log entry 8). -/
opaque Config.kemSecret : Bytes → Nat → Bytes

/-- ML-KEM-1024: the shared secret a key pair decapsulates from a ciphertext (log entry 8). -/
opaque Config.kemDecaps : Nat → Bytes → Bytes

/-- AES-256-GCM decryption: key, IV, additional data, ciphertext, tag; none when the tag fails (R426, R427; log entry 8). -/
opaque Config.gcmOpen : Bytes → Bytes → Bytes → Bytes → Bytes → Option Bytes

/-- AES-256-GCM encryption: key, IV, additional data, plaintext; the ciphertext and the tag (log entry 8). -/
opaque Config.gcmSeal : Bytes → Bytes → Bytes → Bytes → Bytes × Bytes

/-- The check value that guards an encoder state record (R303); the manual does not give the code. -/
opaque Config.stateCheck : Bytes → BitVec 32

/-- An access unit as a codec's standard decodes it: codec, the access units decoded so far with it, or the whole sample where it has no
index, and its place in decode order (R279, R287; log entry 9). -/
opaque Config.decodeUnit : Nat → List Bytes → Nat → CodedUnit

/-- A recording as its standard decodes it (R279, R300; log entry 9). -/
opaque Config.decodeAudio : Nat → Bytes → AudioResult

/-- The byte offset of the access unit of a picture in a sample without an index: codec, data, place in decode order (R291; log
entry 9). -/
opaque Config.unitOffset : Nat → Bytes → Nat → Nat

/-- How many reference pictures decoding a picture needs: as `decodeUnit` (R285; log entry 9). -/
opaque Config.references : Nat → List Bytes → Nat → Nat

/-- An access unit as the module's encoder writes it: the descriptor, the reference bookkeeping and picture area, whether it is a key
picture, and the picture's planes (R302, R303; log entry 9). -/
opaque Config.encodePicture : Bytes → Bytes → Bytes → Bool → List (List Nat) → EncodedPicture

/-- The beats that the translator counts for an instruction on a unit of which no rule gives the rate (R156): program image, command,
instruction (log entry 10). -/
opaque Config.unitBeats : Bytes → Nat → Nat → Nat

/-- The value that the translator reckons with for an argument, which has none at load: program image, command, argument (R156, log entry
10). -/
opaque Config.assumedArg : Bytes → Nat → Nat → BitVec 32

/-- How many accumulator words a split command carries from one piece to the next: where the translator cuts is its choice (R157, log entry
10). -/
opaque Config.carriedWords : Bytes → Nat → Nat

/-- Native instructions produced for a command's piece by a translation (R152, R158): native code is not documented. Image, command,
piece, map version (log entry 10). -/
opaque Config.nativeCount : Bytes → Nat → Nat → Nat → Nat

/-- The Quento instruction that a native instruction was made from (R158): image, command, piece, map version, native index (log
entry 10). -/
opaque Config.nativeQuento : Bytes → Nat → Nat → Nat → Nat → Nat

/-- The latency table's measured entry towards a package, in units of 4 ns (R274). -/
opaque Config.linkLatency : Nat → Nat

/-- How many Lintel hops lie on the best path to a package that is not a direct peer (R274): this package and that one. -/
opaque Config.linkHops : Nat → Nat → Nat

/-- The row of a memory device that holds a line: hub, controller, space, offset (R319); the manual does not give the rows. -/
opaque Config.rowOf : Nat → Nat → Nat → Nat → Nat

/-- The fixed increment of one grant in milliamperes of module input, for a die, an operating point and a junction temperature (R446): at
most the 1 A that R443 leaves a single change (log entry 31). -/
opaque Config.grantIncrement : Nat → Nat → Nat → Fin 1001

/-- The same increment in milliamperes of the die's core rail (R445, R446): at most the least RAIL_STEP, 5 A, or the die could never grant
under it (log entry 31). -/
opaque Config.railIncrement : Nat → Nat → Nat → Fin 5001

end Sys2Proof
end

