-- ==== Sys2Proof/Machine/Bits.lean ====
section
/-! DEFINITION. Bit fields, little-endian byte strings (R6), keyed lists, and memory as a canonical list of cells. -/

namespace Sys2Proof.Machine

/-- `w` bits of a 64-bit value from bit `lo` up (R6). -/
def fld (v : BitVec 64) (lo w : Nat) : Nat := v.toNat / 2 ^ lo % 2 ^ w

/-- `w` bits of a number from bit `lo` up. -/
def bitsOf (n lo w : Nat) : Nat := n / 2 ^ lo % 2 ^ w

/-- A value with `w` bits from `lo` up replaced. -/
def setFld (v : BitVec 64) (lo w x : Nat) : BitVec 64 :=
  BitVec.ofNat 64 (v.toNat - (fld v lo w) * 2 ^ lo + (x % 2 ^ w) * 2 ^ lo)

/-- A truth value as one bit. -/
def b2n (b : Bool) : Nat := if b then 1 else 0

/-- A number of `w` bits read as two's complement. -/
def sext (w n : Nat) : Int := if n % 2 ^ w < 2 ^ (w - 1) then Int.ofNat (n % 2 ^ w) else Int.ofNat (n % 2 ^ w) - Int.ofNat (2 ^ w)

/-- The two's complement code of an integer in `w` bits. -/
def unsext (w : Nat) (i : Int) : Nat := (i % (Int.ofNat (2 ^ w))).toNat

/-- The number a byte string stands for, lowest byte first (R6). -/
def leNat : Bytes → Nat
  | [] => 0
  | b :: t => b.toNat + 256 * leNat t

/-- The `n` bytes of a number, lowest first (R6). -/
def leBytes : Nat → Nat → Bytes
  | 0, _ => []
  | n + 1, v => BitVec.ofNat 8 v :: leBytes n (v / 256)

/-- `n` bytes of a string from offset `o`, bytes beyond its end read as 0. -/
def sub (bs : Bytes) (o n : Nat) : Bytes :=
  let t := (bs.drop o).take n
  t ++ List.replicate (n - t.length) 0#8

/-- The little-endian number in `n` bytes of a string from offset `o`. -/
def num (bs : Bytes) (o n : Nat) : Nat := leNat (sub bs o n)

/-- Whether every byte of a string is 0. -/
def allZero (bs : Bytes) : Bool := bs.all (· == 0#8)

/-- The string with the bytes from offset `o` replaced by `r`. -/
def patch (bs : Bytes) (o : Nat) (r : Bytes) : Bytes := bs.take o ++ r ++ bs.drop (o + r.length)

/-- The value a keyed list gives a key. -/
def kvGet {α : Type} : List (Nat × α) → Nat → Option α
  | [], _ => none
  | (k, v) :: t, a => if k = a then some v else kvGet t a

/-- A keyed list without a key. -/
def kvDel {α : Type} (l : List (Nat × α)) (a : Nat) : List (Nat × α) := l.filter (fun e => e.1 != a)

/-- A keyed list, sorted by key, with a key set. -/
def kvSet {α : Type} : List (Nat × α) → Nat → α → List (Nat × α)
  | [], a, v => [(a, v)]
  | (k, w) :: t, a, v => if a < k then (a, v) :: (k, w) :: t else if a = k then (a, v) :: t else (k, w) :: kvSet t a v

/-- A list with element `i` changed. -/
def modNth {α : Type} : List α → Nat → (α → α) → List α
  | [], _, _ => []
  | x :: t, 0, f => f x :: t
  | x :: t, i + 1, f => x :: modNth t i f

/-- The list without its first element that passes. -/
def dropFirst {α : Type} (p : α → Bool) : List α → List α
  | [] => []
  | x :: t => if p x then t else x :: dropFirst p t

/-- The first `n` numbers from `lo`. -/
def range' (lo n : Nat) : List Nat := (List.range n).map (lo + ·)

/-- `a` divided by `b`, rounded up. -/
def ceilDiv (a b : Nat) : Nat := (a + b - 1) / b

/-! ## Memory cells -/

/-- The byte at an address; an unlisted address reads 0 (log entry 2). -/
def memGet : List Host.Cell → Nat → Byte
  | [], _ => 0#8
  | (x, y) :: t, a => if x = a then y else memGet t a

/-- The cells with one byte stored; the list stays sorted and lists no 0. -/
def memSet : List Host.Cell → Nat → Byte → List Host.Cell
  | [], a, b => if b = 0#8 then [] else [(a, b)]
  | (x, y) :: t, a, b =>
    if a < x then (if b = 0#8 then (x, y) :: t else (a, b) :: (x, y) :: t)
    else if a = x then (if b = 0#8 then t else (a, b) :: t)
    else (x, y) :: memSet t a b

/-- `n` bytes from an address. -/
def memRead (m : List Host.Cell) (a n : Nat) : Bytes := (List.range n).map (fun i => memGet m (a + i))

/-- The cells with a byte string stored from an address up. -/
def memWrite (m : List Host.Cell) (a : Nat) : Bytes → List Host.Cell
  | [] => m
  | b :: t => memWrite (memSet m a b) (a + 1) t

/-- The cells with `n` bytes from an address cleared to 0. -/
def memClear (m : List Host.Cell) (a n : Nat) : List Host.Cell := m.filter (fun c => decide (c.1 < a) || decide (a + n ≤ c.1))

/-- The canonical form: addresses strictly rising, no listed 0. -/
def Memory.wf : List Host.Cell → Bool
  | [] => true
  | [(_, b)] => b != 0#8
  | (a, b) :: (c, d) :: t => b != 0#8 && decide (a < c) && Memory.wf ((c, d) :: t)

/-- The canonical list with the same first listed bytes. -/
def memCanon : List Host.Cell → List Host.Cell
  | [] => []
  | (a, b) :: t => memSet (memCanon t) a b

end Sys2Proof.Machine
end

