-- ==== Sys2Proof/Machine/State.lean ====
section
/-! DEFINITION. The state of one package of the module as plain data, the closed lists of faults and refusals, and the state
right after power-good, before the start-up sequence of R417 has run. Every register of the spec's register tables lives in
`regs` (with `pend` and `live` for the grouped ones, R400) under its address; its reset value stands in the register map
(Machine/RegMap.lean), and an address that `regs` does not list holds that reset value. -/

namespace Sys2Proof.Machine

/-- Why a command stops the machine. -/
inductive Fault where
  /-- Raised by a meaning whose command names a unit that the spec does not give the package: an engine at or above 4096, a
  cluster at or above 64, a port at or above 30, a die at or above 10, a context at or above 64, a hub other than 8 and 9
  (R17, R18, R22, R373). Safe: the hardware has no such unit and nothing happens on it. -/
  | noSuchUnit (what : String)
  deriving DecidableEq, Repr

/-- Why a command has no meaning in the model. -/
inductive Refusal where
  /-- Raised only by an arm of `exec` whose command has no meaning yet. Safe. -/
  | notModelled (mnemonic : String)
  /-- Raised by a private boundary-scan instruction while debug is unlocked with SCOPE bit 0 (R430): the spec names such
  instructions and does not say what they do. Safe. -/
  | privateScan (code : Nat)
  deriving DecidableEq, Repr

/-! ## Values -/

/-- A floating value as a meaning computes with it (R57, R58): NaN, a signed infinity, or (−1)^neg × m × 2^e. -/
inductive Fp where
  | nan
  | inf (neg : Bool)
  | fin (neg : Bool) (m : Nat) (e : Int)
  deriving DecidableEq, Repr, Inhabited

/-- An EXA128 word (R63); `anchor` −128 means "anchor not yet chosen". -/
structure Exa where
  value      : Int
  inexactLow : Bool
  overflow   : Bool
  nan        : Bool
  posInf     : Bool
  negInf     : Bool
  blot       : Bool
  empty      : Bool
  anchor     : Int
  deriving DecidableEq, Repr, Inhabited

/-- A word of an active accumulator set (R68): the stored word, its guarded sum in units of the least significant bit, and
the products that wait for the anchor choice of R67 with the number of indices already taken in their block of 32. -/
structure Acc where
  word  : Exa
  guard : Int
  pend  : List Fp
  seen  : Nat
  deriving DecidableEq, Repr, Inhabited

/-! ## Compute dies -/

/-- One tensor engine (R98 to R106): two accumulator sets (an empty list is a cleared set), which one is active, whether each
is free, the beats of the present tile, whether its last beat has been issued, the words that its last drain read, and whether the
engine runs null beats (R447). -/
structure Engine where
  no         : Nat
  setA       : List Acc
  setB       : List Acc
  activeB    : Bool
  freeA      : Bool
  freeB      : Bool
  beats      : Nat
  lastIssued : Bool
  drained    : List Exa
  nullBeat   : Bool
  deriving DecidableEq, Repr

/-- One page of a keystone's instruction memory (R120 to R122); `prog` is the program whose native code the translator put there. -/
structure ImemPage where
  owner   : Nat
  loaded  : Bool
  waiting : Bool
  tag     : BitVec 32
  words   : Nat
  image   : Bytes
  prog    : Option Nat
  deriving DecidableEq, Repr

/-- The state of an image load (R130). -/
inductive LoadSt where
  | idle | waiting | loading | done
  deriving DecidableEq, Repr

/-- One keystone and what stands beside it on its cluster: instruction memory, load and whether an apply of it waits, retired and struck cores, armed parity
injections (core, bank), reservation (context, queue) of R382, the hold for re-translation, power gating with the time of its
last command, the cluster's turns among equal queues, by priority for its primary context and then for its fill context (R220), the generation
its walker read, and the tails of the queues as the present load began to wait: context, queue, tail (R121). -/
structure Keystone where
  pages      : List ImemPage
  load       : LoadSt
  loadPage   : Nat
  loadWords  : Nat
  loadOwner  : Nat
  loadTag    : BitVec 32
  loadSrc    : Nat
  loadAsk    : Bool
  retired    : List Nat
  struck     : List Nat
  inject     : List (Nat × Nat)
  reserved   : Option (Nat × Nat)
  hold       : Bool
  gated      : Bool
  lastCmd    : BitVec 64
  turns      : List Nat
  walkGen    : BitVec 16
  loadSeen   : List (Nat × Nat × BitVec 32)
  deriving DecidableEq, Repr

/-! ## Running commands -/

/-- A scratchpad region of an issued instruction (R109, R110) with the cores it is declared on: bit 16 j + l for logical core l of logical
cluster j of the command. -/
structure Region where
  base    : Nat
  len     : Nat
  written : Bool
  cores   : Nat
  deriving DecidableEq, Repr

/-- An instruction that has issued and not completed (R110): its index and its live regions. -/
structure Issued where
  index   : Nat
  regions : List Region
  deriving DecidableEq, Repr

/-- A whole tensor that a distributed instruction has put into scratchpads: its REGION descriptor and byte range (R109, R142, R149), and
whether nothing has been written over any of it since. -/
structure Virt where
  desc   : Nat
  base   : Nat
  len    : Nat
  live   : Bool
  format : Nat
  shape  : List Nat
  elems  : List Nat
  scales : List Nat
  axis   : Nat
  group  : Nat
  tags   : List Nat
  deriving DecidableEq, Repr

/-- What the accumulators of a product instruction hold (R144, R145, R194, R203, R205): the core (`none` when distributed) and
chain stage they belong to, the extents innermost first, the words, the exponent the drain applies to each (R62), the FP32
results of minimal filtering, the output layout with its true channel count and channel-to-space factor, the blot tags that
reached each word (R123), whether the product was skipped (R159), and, of an ATTEND, its index and what it has read (R145, log entry 21). -/
structure Product where
  core    : Option (Nat × Nat)
  stage   : Nat
  shape   : List Nat
  words   : List Exa
  sc      : List Int
  fp32    : Option (List (BitVec 32))
  layout  : Option Nat
  chans   : Nat
  c2s     : Nat
  tags    : List Nat
  skipped : Bool
  attend  : Option (Nat × List Nat)
  deriving DecidableEq, Repr

/-- The counts kept for one output tensor (R94, R95). -/
structure Counts where
  desc       : Nat
  overflow   : Nat
  underflow  : Nat
  nan        : Nat
  saturated  : Nat
  emptyRows  : Nat
  inexactLow : Nat
  elements   : Nat
  deriving DecidableEq, Repr

/-- A skipped instruction as its log entry will tell it (R159, R160). -/
structure SkipEntry where
  index   : Nat
  cause   : Nat
  lcore   : Nat
  cluster : Nat
  repeats : Nat
  detail  : Nat
  deriving DecidableEq, Repr

/-- A hand-over region of a chain (R113): descriptor, slot count, full flags, and the next slot to produce and consume. -/
structure HandOver where
  desc : Nat
  full : List Bool
  prod : Nat
  cons : Nat
  deriving DecidableEq, Repr

/-- The chain a command has open (R113, R149). -/
structure Chain where
  begin   : Nat
  stages  : Nat
  stage   : Nat
  regions : List HandOver
  deriving DecidableEq, Repr

/-- How far a lease instruction has come at its sender (R238 to R242): skipped, so that its region is barred (R240); asked at the
home; held; compared or being compared at the commit (R241); released or being released. -/
inductive LeasePhase where
  | bar | asked | held | checking | checked | closing | closed
  deriving DecidableEq, Repr

/-- A lease instruction of a running command at its sender (R238 to R241): instruction, descriptor, kind, tag of its last request,
home region, lease step, ticket, phase, the version it compares with, and what was read at the grant. -/
structure LeaseUse where
  index   : Nat
  desc    : Nat
  op      : LeaseOp
  tag     : Nat
  home    : BitVec 64
  bytes   : Nat
  step    : Nat
  ticket  : BitVec 64
  phase   : LeasePhase
  version : BitVec 64
  written : Nat
  stamp   : BitVec 64
  since   : BitVec 64
  deriving DecidableEq, Repr

/-- A read lease that a context may hold at a home in another package (R242). -/
structure Leased where
  ctx   : Nat
  home  : BitVec 64
  bytes : Nat
  step  : Nat
  deriving DecidableEq, Repr

/-- A halo row flag of a pinned convolution (R217, R218): instruction, participating core, and whether its rows are full. -/
structure HaloFlag where
  index : Nat
  core  : Nat
  full  : Bool
  deriving DecidableEq, Repr

/-- A MEDIA.DECODE of a running command (R283, R291): its index, how many samples of its table have opened, and the reports of those
that have ended. -/
structure MedUse where
  index   : Nat
  next    : Nat
  reports : List (Nat × Bytes)
  deriving DecidableEq, Repr

/-- The faults that a command meets as it runs, which the environment chooses: granules of cluster memory and lines of last-level memory that
cannot be corrected (R216, R318), accumulator words that fail their parity when a DRAIN reads them (its index, the word's place, the core),
and instructions whose code cannot be corrected (R398; log entries 98 and 105). -/
structure Struck where
  clu  : List Nat
  llm  : List Nat
  acc  : List (Nat × Nat × Nat)
  code : List Nat
  deriving DecidableEq, Repr

/-- No fault. -/
def Struck.none : Struck := { clu := [], llm := [], acc := [], code := [] }

/-- A command on its clusters (R381 to R397). Cells of `overlay` are its held outputs by memory key, `outTags` the tags of their
granules, `hints` the hints their lines will be written with (R321), `scatter` its held key-value rows and `scatterTags` the tags of their
granules, `fetched` the bytes of other packages that its present instruction has read, `fetchBad` their poisoned lines; `next` is its first
instruction that has not issued and `ahead` those after it that have (R110); `virts`, `products` and `chain` are its
distributed intermediates, accumulators and open chain; `reads` the windows it advances at commit; `stamp` its commit stamp once its
outputs are published (R41), `remSent` tells that its remote writes have left (R347), `mirrored` the mirror ranges it wrote (R459), and
`struck` the faults that it meets (R216, R318, R398). -/
structure Run where
  lead      : Nat
  clusters  : List Nat
  ctx       : Nat
  queue     : Nat
  entry     : BitVec 32
  fill      : Bool
  prog      : Nat
  cmd       : Nat
  step      : Nat
  args      : List (BitVec 32)
  flags     : BitVec 8
  notify    : BitVec 64
  started   : BitVec 64
  piece     : Nat
  pieces    : Nat
  rerun     : Bool
  takes     : List Nat
  next      : Nat
  ahead     : List Nat
  issued    : List Issued
  overlay   : List Host.Cell
  outTags   : List (Nat × BitVec 2)
  hints     : List (Nat × Nat)
  scatter   : List Host.Cell
  scatterTags : List (Nat × BitVec 2)
  fetched   : List Host.Cell
  fetchBad  : List Nat
  virts     : List Virt
  products  : List Product
  chain     : Option Chain
  badChain  : Option Nat
  lastStage : Nat
  counts    : List Counts
  skips     : List SkipEntry
  moreSkips : Nat
  skipped   : List Nat
  gen       : Option (BitVec 16)
  roots     : List (BitVec 64 × BitVec 64)
  stalls    : List Nat
  leases    : List LeaseUse
  halos     : List HaloFlag
  reads     : List (Nat × Nat × BitVec 32)
  media     : List MedUse
  loose     : List (Nat × Nat)
  dimLimit  : Bool
  damaged   : Bool
  budget    : Bool
  wrote     : Bool
  stamp     : Option (BitVec 64)
  struck    : Struck
  blotCores : List Nat
  failed    : Option (BitVec 8)
  sending   : Bool
  remSent   : Bool
  mirrored  : List (Nat × Nat)
  mortarSince : Option (Nat × BitVec 64)
  sendBufs  : List (Nat × Nat)
  deriving DecidableEq, Repr

/-! ## Contexts -/

/-- The context states of R376. -/
inductive CtxSt where
  | absent | running | suspending | suspended | tearing | tornDown
  deriving DecidableEq, Repr

/-- What the pieces of a split command that are done have left for the next one (R157): the command as it stood, and its scratchpads by
offset from those of its lead cluster. -/
structure Staged where
  run     : Run
  scratch : List Host.Cell
  grans   : List (Nat × BitVec 2)
  deriving DecidableEq, Repr

/-- The module's copy of one queue descriptor (R375, R377, R380), what a split command has staged (R157), the program that its present command has started with (R153), and the
bytes of that command's outputs, which only it may see (R384). -/
structure Queue where
  valid     : Bool
  prio      : Nat
  log2      : Nat
  ilogLog2  : Nat
  records   : BitVec 32
  ring      : BitVec 64
  tail      : BitVec 64
  recRing   : BitVec 64
  ilog      : BitVec 64
  status    : BitVec 64
  ilogCount : BitVec 32
  tailSeen  : BitVec 32
  lastStamp : BitVec 64
  lost      : Bool
  stopped   : Bool
  killed    : Bool
  staged    : Option Staged
  rerun     : Bool
  prog      : Option Nat
  hide      : List (Nat × Nat)
  fillKill  : Nat
  takes     : List Nat
  deriving DecidableEq, Repr

/-- One context (R373 to R377). -/
structure Ctx where
  st        : CtxSt
  cause     : BitVec 8
  changed   : BitVec 64
  job       : BitVec 16
  translator : Nat
  loadRing  : BitVec 64
  loadLog2  : Nat
  loadTail  : BitVec 64
  loadHead  : BitVec 32
  queues    : List Queue
  deriving DecidableEq, Repr

/-- A program the translator has loaded (R151 to R158): a number of its own, its context and handle, its image, its map, whether
a later load has replaced it, the physical clusters of each command's logical clusters, and the first and number of each command's
instruction pages (R120). -/
structure Program where
  uid      : Nat
  ctx      : Nat
  handle   : BitVec 32
  image    : Bytes
  mapBase  : BitVec 64
  mapBytes : Nat
  mapVer   : Nat
  replaced : Bool
  place    : List (List Nat)
  pages    : List (Nat × Nat)
  deriving DecidableEq, Repr

/-! ## Plumb time, ductus log, captures -/

/-- The plumb states of R36. -/
inductive PlumbSt where
  | free | acquire | locked | holdover | unsync
  deriving DecidableEq, Repr

/-- Plumb time (R33 to R39): hub die 8's count, the state, the last offset estimate, ticks still to be absorbed at half rate and
the half-rate phase, exchanges in a row within ±4 ns, exchanges missed in a row, the stamps of entering HOLDOVER and of the last
exchange, and the t1 of an exchange that has no answer yet. -/
structure Plumb where
  now     : BitVec 64
  st      : PlumbSt
  offset  : Int
  ahead   : Nat
  phase   : Bool
  good    : Nat
  missed  : Nat
  entered : BitVec 64
  lastX   : BitVec 64
  sent    : Option (BitVec 64)
  deriving DecidableEq, Repr

/-- A ductus event record (R44). -/
structure Event where
  stamp   : BitVec 64
  seq     : BitVec 32
  die     : Nat
  ctx     : Nat
  kind    : Nat
  unit    : Nat
  status  : BitVec 8
  flags   : BitVec 8
  payload : Bytes
  deriving DecidableEq, Repr

/-- The ring of one die (R47, R48): next sequence number, events lost, whether the next record carries LOST_BEFORE, the events
held since power-good, and whether they have been written. -/
structure Ring where
  seq     : BitVec 32
  lost    : Nat
  gap     : Bool
  held    : List Event
  flushed : Bool
  deriving DecidableEq, Repr

/-- A unit's latch in the present capture (R51): whether the arm has reached it, its latch stamp, LATE, and what it latched. -/
structure Latch where
  unit   : UnitId
  armed  : Bool
  stamp  : Option (BitVec 64)
  late   : Bool
  values : List Nat
  deriving DecidableEq, Repr

/-- The capture states of R53. -/
inductive CapSt where
  | idle | armed | latched | dumping | done
  deriving DecidableEq, Repr

/-- A flow entry with its meters (R348, R351). -/
structure Flow where
  hub      : Nat
  port     : Nat
  remote   : Nat
  job      : BitVec 16
  cls      : Nat
  number   : Nat
  sent     : Nat
  received : Nat
  deriving DecidableEq, Repr

/-- The package-wide capture (R51 to R53) with the meters latched beside its ports, by hub and place in the pool (R351). -/
structure Capture where
  st      : CapSt
  id      : BitVec 32
  t       : BitVec 64
  lateAny : Bool
  lateNo  : Nat
  latches : List Latch
  meters  : List (Nat × Flow)
  dumped  : List Nat
  deriving DecidableEq, Repr

/-- A counter (R50, R54): its unit, its place in the unit's list, and its value. -/
structure Counter where
  unit : UnitId
  idx  : Nat
  val  : Nat
  deriving DecidableEq, Repr

/-! ## Mortar units and leases -/

/-- The reduction states of R247. -/
inductive RedSt where
  | idle | clearing | opened | closed | fenced
  deriving DecidableEq, Repr

/-- A reduction of a hub (R246, R247, R264, R269, R270): its state and window, the settings in force (the four register values),
the complete sources of the window, the two statistics sums with their count, and the last statistics record. -/
structure Red where
  hub      : Nat
  r        : Nat
  st       : RedSt
  window   : BitVec 32
  base     : BitVec 64
  size     : BitVec 64
  cfg      : BitVec 64
  win      : BitVec 64
  complete : List (BitVec 16)
  sumSrc   : Exa
  nanCount : Nat
  elements : Nat
  record   : Option (BitVec 32 × Bytes)
  deriving DecidableEq, Repr

/-- A receipt entry (R257), with the CHUNKS its source announced. -/
structure Receipt where
  hub    : Nat
  job    : BitVec 16
  red    : Nat
  window : BitVec 32
  source : BitVec 16
  origin : BitVec 16
  group  : Nat
  bitmap : BitVec 64
  first  : BitVec 64
  chunks : BitVec 32
  deriving DecidableEq, Repr

/-- A remote accumulate packet at its sender (R253, R254). -/
structure Send where
  tag     : Nat
  lead    : Nat
  target  : Nat
  hub     : Nat
  packet  : AccPacket
  since   : BitVec 64
  sentAt  : BitVec 64
  retryAt : Option (BitVec 64)
  left    : Bool
  answer  : Option AccReply
  deriving DecidableEq, Repr

/-- A shard-table entry's present stamps and intent (R235, R239, R244): settings in force with the starting step last applied, VERSION, WRITTEN_STEP, and the package,
context and step of a pending write intent. -/
structure Shard where
  hub     : Nat
  s       : Nat
  base    : BitVec 64
  size    : BitVec 64
  cfg     : BitVec 64
  stepSet : BitVec 64
  version : BitVec 64
  written : Nat
  intent  : Option (Nat × Nat × Nat)
  deriving DecidableEq, Repr

/-- A read entry of a hub's lease table (R239, R243). -/
structure Reader where
  hub  : Nat
  s    : Nat
  pkg  : Nat
  ctx  : Nat
  step : Nat
  deriving DecidableEq, Repr

/-- A take that waits at its home (R239, R243). -/
structure LeaseWait where
  hub   : Nat
  req   : LeaseReq
  since : BitVec 64
  deriving DecidableEq, Repr

/-! ## Memory system -/

/-- A line present in a hub's last-level memory (R320 to R323): the line number of its first byte, the partition it belongs to,
whether it is kept and dirty, and the bytes memory held behind it when it became dirty. -/
structure LlmLine where
  line   : Nat
  part   : Nat
  kept   : Bool
  dirty  : Bool
  behind : Bytes
  deriving DecidableEq, Repr

/-- The last-level memory of one hub (R324). -/
structure Llm where
  cache     : Bool
  switching : Option Bool
  off       : Bool
  lines     : List LlmLine
  deriving DecidableEq, Repr

/-- An access that waits for a token (R330): partition, resource and the hub-local controller whose held ticks it adds to. -/
structure WaitAcc where
  hub  : Nat
  part : Nat
  res  : Nat
  id   : Nat
  deriving DecidableEq, Repr

/-! ## Lintel links -/

/-- The port states of R352. -/
inductive PortSt where
  | off | training | session | up | degraded | retraining | hairline | failed
  deriving DecidableEq, Repr

/-- How far a port's session has come (R356), what it has exchanged, and its key renewals (R357). -/
structure Session where
  phase    : Nat
  peerPkg  : Nat
  peerPk   : Bytes
  kem      : Nat
  kemKey   : Bytes
  cipher   : Bytes
  secret   : Bytes
  keys     : Bytes
  renewals : Nat
  deriving DecidableEq, Repr

/-- A frame that a port has sent and keeps until it is acknowledged (R343): its number, the acknowledgement and the request of its seal flit,
and the headers of its flits (R342). -/
structure SentFrame where
  number : BitVec 64
  ack    : BitVec 64
  again  : Option (BitVec 64)
  flits  : List FlitHead
  deriving DecidableEq, Repr

/-- A flow in a port's round-robin (R350): remote package, job, class, and the bytes it may still send in its turn. -/
structure FlowTurn where
  remote  : Nat
  job     : BitVec 16
  cls     : Nat
  deficit : Nat
  deriving DecidableEq, Repr

/-- One Lintel port (R341 to R358): state, lanes, session, the next frame numbers, the bytes in the frame being filled, the START of each of
its data flits, the next FSEQ and place in the lanes' rotation (R342), the frames sent and not acknowledged, the frame asked for again, the
flows' turns (R350), the extended send stamp of the packet received last (R42), tag failures in a row, heartbeats missed in a row, the
stamps that its timers run from, and whether it is on its way to OFF, to HAIRLINE or back to full mode. -/
structure Port where
  st       : PortSt
  active   : BitVec 8
  dropped  : BitVec 8
  hair     : Nat
  reversed : Bool
  inverted : BitVec 8
  peer     : Option Nat
  session  : Session
  txBytes  : Nat
  txStarts : List (BitVec 12)
  txSeq    : BitVec 16
  txLane   : Nat
  txFrame  : BitVec 64
  rxFrame  : BitVec 64
  rxStamp  : BitVec 64
  turns    : List FlowTurn
  held     : List SentFrame
  again    : Option (BitVec 64)
  sealBad  : Nat
  missed   : Nat
  lastTx   : BitVec 64
  lastRx   : BitVec 64
  since    : BitVec 64
  closing  : Bool
  lowering : Bool
  rising   : Bool
  deriving DecidableEq, Repr

/-- A packet that waits for a usable port (R346). -/
structure RouteWait where
  hub    : Nat
  packet : Packet
  since  : BitVec 64
  deriving DecidableEq, Repr

/-- What a remote access was sent for (R347, R387). -/
inductive RemoteUse where
  | command (lead : Nat)
  | notice (hub ctx q : Nat)
  deriving DecidableEq, Repr

/-- A remote access without an answer (R347). -/
structure Remote where
  tag   : Nat
  use   : RemoteUse
  addr  : BitVec 64
  bytes : Nat
  since : BitVec 64
  deriving DecidableEq, Repr

/-! ## Host, management, security, power, mirror, media -/

/-- A management response (R369). -/
structure MgmtReply where
  type    : Nat
  tag     : BitVec 8
  status  : Nat
  payload : Bytes
  deriving DecidableEq, Repr

/-- The boundary-scan instruction in force (R371). -/
inductive Scan where
  | bypass | idcode | samplePreload | extest | extestPulse | extestTrain | clamp | highz
  deriving DecidableEq, Repr

/-- The modes of SEC_STATE.MODE (R431). -/
inductive SecMode where
  | starting | running | recovery | enrolling
  deriving DecidableEq, Repr

/-- An owner slot of the fuses (R408). -/
structure OwnerSlot where
  hash    : Bytes
  used    : Bool
  revoked : Bool
  deriving DecidableEq, Repr

/-- The security fuses and the NOR device's images and records (R408, R413): what survives a restart. `secret` is DEVICE_SECRET. -/
structure Fuses where
  grade       : BitVec 8
  carrier     : BitVec 2
  stepping    : BitVec 16
  clusters    : List (BitVec 8)
  identityPk  : Bytes
  identitySk  : Bytes
  secret      : Bytes
  endorsement : Bytes
  vendor      : List Bytes
  slots       : List OwnerSlot
  fwMin       : Nat
  cfgMin      : Nat
  norFw       : Bytes
  norCfg      : Bytes
  records     : List Bytes
  norLock     : Bool
  deriving DecidableEq, Repr

/-- An object that recovery chunks assemble (R421). -/
structure Recover where
  kind   : Nat
  total  : Nat
  chunks : List (Nat × Bytes)
  deriving DecidableEq, Repr

/-- The security block (R414 to R431). `kem` names the package's key pair, `keys` the tenants' key slots of both hubs, `signing` holds the
stamps at which the colophons in the queue will be signed, `ownerPk` is the enrolled owner's public key, `config` the records of the configuration image by section; `booted` tells
that POWER_GOOD has run since power-good. -/
structure Sec where
  mode      : SecMode
  reason    : Nat
  debug     : Bool
  scope     : BitVec 3
  slot      : Nat
  ownerPk   : Bytes
  fwSvn     : Nat
  cfgSvn    : Nat
  fwHash    : Bytes
  cfgHash   : Bytes
  challenge : List (BitVec 64)
  kem       : Option Nat
  keys      : List (Nat × Bytes)
  result    : Nat
  refused   : Bool
  hostOwner : Bool
  role      : Nat
  pkg       : Nat
  point     : Nat
  objects   : List Recover
  writing   : Option (Nat × Bytes)
  booted    : Bool
  colophon  : Option (Bytes × Bytes)
  signing   : List (BitVec 64)
  watching  : Bool
  config    : List (Nat × Nat × BitVec 64 × BitVec 64 × Bytes)
  deriving DecidableEq, Repr

/-- Power states S0, S1 and S2 (R449). -/
inductive PwrSt where
  | s0 | s1 | s2
  deriving DecidableEq, Repr

/-- Supply, power state, temperature, coolant (inlet, outlet, flow) and governor (R30, R437 to R456). `waiting` and `granted` hold wake-up units: 2 × core for a core's
engines, one more for its vector unit (R446); `lastGrant` is each die's last governed change; `halted` tells a package that R28 has
stopped, `latched` one that a trip keeps off. -/
structure Power where
  rails    : Bool
  enable   : Bool
  switchOn : Bool
  overV    : Bool
  inputMv  : Nat
  st       : PwrSt
  moving   : Option PwrSt
  supply   : Nat
  lastStep : BitVec 64
  junction : List Nat
  coolant  : Nat × Nat × Nat
  tripped  : Option (BitVec 64)
  waiting  : List Nat
  granted  : List Nat
  lastGrant : List (BitVec 64)
  halted   : Bool
  latched  : Bool
  deriving DecidableEq, Repr

/-- An open media stream (R286): hub and open-stream number, the command, instruction and sample it serves, the sample index of its
table entry, its first slot and the slots it owns, the entry it decodes (its own or a reserve's), replacements tried, where decoding
began, the next picture in decode order, work units spent, samples saturated by its pyramids, and the slots delivered. The list of streams is in the order of opening. -/
structure Stream where
  hub       : Nat
  number    : Nat
  lead      : Nat
  index     : Nat
  sample    : Nat
  ctx       : Nat
  orig      : Nat
  slot      : Nat
  own       : Nat
  entry     : Bytes
  attempts  : Nat
  start     : Nat
  place     : Nat
  units     : Nat
  sat       : Nat
  slots     : List Nat
  deriving DecidableEq, Repr

/-- A media engine's turn (R286, R306): hub, engine, the context whose turn it is, the open-stream number of its present work (none while
it is idle) and the pictures of this turn. -/
structure MedBusy where
  hub    : Nat
  engine : Nat
  ctx    : Nat
  stream : Option Nat
  turns  : Nat
  deriving DecidableEq, Repr

/-- A line on its way to the partner with the command whose commit waits for it, or a mark, acknowledged or not (R459, R460). -/
structure MirrorLine where
  hub   : Nat
  m     : Nat
  tag   : Nat
  bytes : Nat
  lead  : Option Nat
  mark  : Option (BitVec 64)
  acked : Bool
  deriving DecidableEq, Repr

/-- A source a control core has claimed and not completed (R403). -/
structure Claim where
  hub    : Nat
  source : Nat
  core   : Nat
  deriving DecidableEq, Repr

/-- The package. -/
structure State where
  /-- registers that differ from their reset value: address within the register space, value (R9, R11) -/
  regs      : List (Nat × BitVec 64)
  /-- pending copies of applied groups (R400) -/
  pend      : List (Nat × BitVec 64)
  /-- values of grouped registers in force, where they differ from reset (R400) -/
  live      : List (Nat × BitVec 64)
  /-- memory of spaces 0 to 3 in canonical form, by key space × 2^48 + offset; an unlisted byte reads 0 (R308, R314) -/
  mem       : List Host.Cell
  /-- 64-byte lines that carry a poison mark (R318), as key / 64 -/
  poison    : List Nat
  /-- tags of 32-byte granules of cluster memory (R123, R216), as key / 32 -/
  memTags   : List (Nat × BitVec 2)
  /-- ranges of bytes that no rule gives a value: outputs after a failure (R384), decoder work areas (R286); first key and length -/
  indet     : List (Nat × Nat)
  /-- far and CXL pages whose zero-map bit is clear (R314), as key / 2^21 -/
  zeroClear : List Nat
  /-- far-memory capacity of one channel in GiB, and the package channels in use (R313) -/
  farGiB    : Nat
  farChans  : List Nat
  /-- capacity of the device on each CXL port in GiB (R315) -/
  cxlGiB    : List Nat
  /-- scratchpads (R108), one for each logical core that a running command places on a core (log entry 14): byte cells by
  slot × 2^22 + offset and the tags of valid granules by slot × 2^17 + granule; slot = 128 × lead cluster + 16 × logical cluster +
  logical core -/
  scratch   : List Host.Cell
  scratchG  : List (Nat × BitVec 2)
  engines   : List Engine
  keystones : List Keystone
  runs      : List Run
  ctxs      : List Ctx
  programs  : List Program
  nextUid   : Nat
  plumb     : Plumb
  rings     : List Ring
  capture   : Capture
  counters  : List Counter
  reds      : List Red
  receipts  : List Receipt
  rcptSel   : List (BitVec 64)
  trailSeq  : List (BitVec 32)
  sends     : List Send
  shards    : List Shard
  readers   : List Reader
  waits     : List LeaseWait
  leased    : List Leased
  llms      : List Llm
  /-- token buckets in sixteenths of a token (R330): index (hub − 8) × 80 + partition × 5 + resource; partition 0's are full at reset
  (log entry 32) -/
  tokens    : List Nat
  queueAcc  : List WaitAcc
  /-- corrected lines of a row in one patrol pass (R319): row key, pass, count -/
  rowHits   : List (Nat × Nat × Nat)
  /-- the stamp of each controller's last MEM_CORRECTED event (R317), by 16 × hub + controller -/
  corrAt    : List (Nat × BitVec 64)
  ports     : List Port
  flows     : List Flow
  /-- die-to-die modules out of service, by 16 × lower die + higher die (R360) -/
  d2dLost   : List (Nat × Nat)
  routeWait : List RouteWait
  /-- packets that have left the package, newest last, with their port; port 30 stands for the die-to-die links, on which a packet to
  this package waits until it is taken -/
  sentOut   : List (Nat × Packet)
  remotes   : List Remote
  nextTag   : Nat
  /-- MSI-X vectors raised, newest last (R388) -/
  vectors   : List Nat
  /-- what the last host read returned; `none` for a poisoned completion (R318, R362) -/
  hostData  : Option Bytes
  /-- what the last register or claim read returned -/
  readData  : BitVec 64
  /-- the last answers on the Data Object Exchange and management interfaces (R366, R369) -/
  doeReply  : Bytes
  mgmt      : List MgmtReply
  /-- in-band interrupts raised, newest last, and fault reports that wait (R369) -/
  ibi       : List (BitVec 8)
  faults    : List Bytes
  i3cAddr   : Option (BitVec 7)
  telem     : List Bytes
  scan      : Scan
  /-- the part fields that the scan chain's dies last answered (R371) -/
  scanPart  : List Nat
  /-- the endpoint's MSI-X table by offset (R364, R365) -/
  msix      : List (Nat × BitVec 64)
  fuses     : Fuses
  sec       : Sec
  power     : Power
  streams   : List Stream
  medBusy   : List MedBusy
  mirror    : List MirrorLine
  claims    : List Claim
  /-- accesses held until the exit from S2 (R451) -/
  held      : List Instr
  /-- the model's own counter of free values (log entry 3) -/
  fresh     : Nat
  /-- commands that wait, first in first out -/
  pending   : List Instr
  deriving DecidableEq, Repr

/-! ## Reset -/

/-- A cleared EXA128 word (R64) with the given anchor. -/
def Exa.cleared (anchor : Int) : Exa :=
  { value := 0, inexactLow := false, overflow := false, nan := false, posInf := false, negInf := false,
    blot := false, empty := true, anchor := anchor }

/-- An engine with both sets cleared and free (R64, R106). -/
def Engine.cleared (no : Nat) : Engine :=
  { no := no, setA := [], setB := [], activeB := false, freeA := true, freeB := true, beats := 0, lastIssued := false, drained := [],
    nullBeat := false }

/-- An instruction page that holds no image (R130's reset values). -/
def ImemPage.clear : ImemPage :=
  { owner := 0, loaded := false, waiting := false, tag := 0#32, words := 0, image := [], prog := none }

/-- A keystone after power-good (R130's reset values). -/
def Keystone.reset : Keystone :=
  { pages := List.replicate 8 ImemPage.clear, load := .idle, loadPage := 0, loadWords := 0, loadOwner := 0,
    loadTag := 0#32, loadSrc := 0, loadAsk := false, retired := [], struck := [], inject := [], reserved := none,
    hold := false, gated := false, lastCmd := 0#64, turns := List.replicate 8 0, walkGen := 0#16, loadSeen := [] }

/-- A context whose entry has not been read (R376). -/
def Ctx.reset : Ctx :=
  { st := .absent, cause := 0#8, changed := 0#64, job := 0#16, translator := 8, loadRing := 0#64, loadLog2 := 4,
    loadTail := 0#64, loadHead := 0#32, queues := [] }

/-- A session that has exchanged nothing. -/
def Session.reset : Session :=
  { phase := 0, peerPkg := 0, peerPk := [], kem := 0, kemKey := [], cipher := [], secret := [], keys := [], renewals := 0 }

/-- The STARTs of a frame's data flits in which no packet begins (R342). -/
def noStarts : List (BitVec 12) := List.replicate 31 0xFFF#12

/-- A port in OFF (R352). -/
def Port.reset : Port :=
  { st := .off, active := 0#8, dropped := 0#8, hair := 0, reversed := false, inverted := 0#8, peer := none,
    session := Session.reset, txBytes := 0, txStarts := noStarts, txSeq := 0#16, txLane := 0, txFrame := 0#64, rxFrame := 0#64,
    rxStamp := 0#64, turns := [], held := [], again := none, sealBad := 0, missed := 0,
    lastTx := 0#64, lastRx := 0#64, since := 0#64, closing := false, lowering := false, rising := false }

/-- The fuses of an LVA-8200 on a single carrier with no owner enrolled and no minimum raised: a part as manufactured
(log entry 6). -/
def Fuses.reset : Fuses :=
  { grade := 1#8, carrier := 0#2, stepping := 1#16, clusters := List.replicate 8 255#8, identityPk := [], identitySk := [], secret := [], endorsement := [],
    vendor := [[], [], [], []], slots := List.replicate 4 { hash := [], used := false, revoked := false },
    fwMin := 0, cfgMin := 0, norFw := [], norCfg := [], records := [], norLock := false }

/-- The security block at power-good (R431's reset values); the challenge is drawn by POWER_GOOD (R414, log entry 6). -/
def Sec.reset : Sec :=
  { mode := .starting, reason := 0, debug := false, scope := 0#3, slot := 0, ownerPk := [], fwSvn := 0, cfgSvn := 0, fwHash := [],
    cfgHash := [], challenge := [0#64, 0#64, 0#64, 0#64], kem := none, keys := [], result := 0, refused := false,
    hostOwner := false, role := 0, pkg := 0, point := 1, objects := [], writing := none, booted := false, colophon := none,
    signing := [], watching := false, config := [] }

/-- Power at power-good (R440, R453's reset values): rails up at the Nominal supply, S1. -/
def Power.reset : Power :=
  { rails := true, enable := true, switchOn := true, overV := false, inputMv := 54000, st := .s1, moving := none, supply := 700,
    lastStep := 0#64, junction := List.replicate 10 0, coolant := (0, 0, 0), tripped := none, waiting := [], granted := [], lastGrant := List.replicate 10 0#64,
    halted := false, latched := false }

/-- The machine right after power-good, before POWER_GOOD runs the start-up sequence of R417: every register at the reset value
of its table, every memory unwritten, every zero-map bit set, both last-level memories zeroed in scratchpad mode (R324). -/
def State.reset : State :=
  { regs := [], pend := [], live := [], mem := [], poison := [], memTags := [], indet := [], zeroClear := [], farGiB := 0,
    farChans := [], cxlGiB := [0, 0, 0, 0], scratch := [], scratchG := [], engines := [],
    keystones := List.replicate 64 Keystone.reset, runs := [], ctxs := List.replicate 64 Ctx.reset, programs := [],
    nextUid := 0,
    plumb := { now := 0#64, st := .free, offset := 0, ahead := 0, phase := false, good := 0, missed := 0, entered := 0#64,
               lastX := 0#64, sent := none },
    rings := List.replicate 10 { seq := 0#32, lost := 0, gap := false, held := [], flushed := false },
    capture := { st := .idle, id := 0#32, t := 0#64, lateAny := false, lateNo := 0, latches := [], meters := [], dumped := [] },
    counters := [], reds := [], receipts := [], rcptSel := List.replicate 8 0#64, trailSeq := [0#32, 0#32], sends := [],
    shards := [], readers := [], waits := [], leased := [],
    llms := List.replicate 2 { cache := false, switching := none, off := false, lines := [] },
    tokens := (List.range 160).map (fun i => if i % 80 < 5 then 0x40000 else 0), queueAcc := [], rowHits := [], corrAt := [],
    ports := List.replicate 30 Port.reset, flows := [], d2dLost := [], routeWait := [], sentOut := [], remotes := [], nextTag := 0,
    vectors := [], hostData := some [], readData := 0#64, doeReply := [], mgmt := [], ibi := [], faults := [], i3cAddr := none,
    telem := [], scan := .bypass, scanPart := [], msix := [], fuses := Fuses.reset, sec := Sec.reset, power := Power.reset, streams := [],
    medBusy := [], mirror := [], claims := [], held := [], fresh := 0, pending := [] }

end Sys2Proof.Machine
end

