-- ==== Sys2Proof/Machine/RegMap.lean ====
section
/-! DEFINITION. The register map: every register of the register tables (R2, R39, R47, R53, R130, R190, R213, R244, R275, R306,
R338 to R340, R359, R367, R389, R397, R402, R431, R453, R461), its place (R9), the bits a write may set, the bits a 1 clears,
its reset value and the group it belongs to (R400). -/

namespace Sys2Proof.Machine

/-- The registers of the package by name; the indices are those of the tables. -/
inductive Reg where
  | idGrade
  | idClusterFuse
  | plbNow
  | plbState
  | plbCfg
  | plbEpoch
  | plbBeatRate
  | plbEvents
  | plbPortAsym (n : Nat)
  | plbApply
  | ducBase (n : Nat)
  | ducSize (n : Nat)
  | ducCtl (n : Nat)
  | ducHead (n : Nat)
  | ducTail (n : Nat)
  | ducLost (n : Nat)
  | ducApply
  | cntCaptureAt
  | cntCaptureId
  | cntCaptureStatus
  | cntCaptureCancel
  | cntDumpBase (n : Nat)
  | cntApply
  | keyStatus
  | keyCoreState
  | keyLoadSrc
  | keyLoadCtl
  | keyLoadStatus
  | keyInject
  | keyImemPage (p : Nat)
  | keyApply
  | wlkCfg
  | wlkStatus
  | wlkFaults
  | wlkApply
  | clmGrant (g : Nat)
  | clmFaults
  | clmApply
  | morShardBase (s : Nat)
  | morShardSize (s : Nat)
  | morShardCfg (s : Nat)
  | morShardStep (s : Nat)
  | morShardVersion (s : Nat)
  | morShardHold (s : Nat)
  | morLeaseCfg
  | morLeaseStatus
  | morLeaseDrop
  | morShardApply
  | morRedBase (r : Nat)
  | morRedSize (r : Nat)
  | morRedCfg (r : Nat)
  | morRedWin (r : Nat)
  | morRedState (r : Nat)
  | morPermit (p : Nat)
  | morRcptCtl
  | morRcptStatus
  | morTrailBase
  | morTrailSize
  | morDistBase
  | morRcptSel
  | morRcptData (k : Nat)
  | morApply
  | medShare (c : Nat)
  | medStatus
  | medEngine (e : Nat)
  | medFaults
  | medApply
  | nmcStatus (k : Nat)
  | nmcFault (k : Nat)
  | nmcScrub
  | fmcChan (c : Nat)
  | fmcFault (c : Nat)
  | fmcScrub
  | fmcLayout
  | llmCtl
  | llmStatus
  | llmFlush
  | llmWays (p : Nat)
  | llmMortarWays
  | prtWin (p s : Nat)
  | prtJob (p : Nat)
  | prtCtxMap (i : Nat)
  | prtTableBase
  | prtGrantPage
  | prtGrantGo
  | prtStatus
  | prtFault
  | rgl (p r : Nat)
  | memApply
  | lnkCtl (n : Nat)
  | lnkPeerKey (n k : Nat)
  | lnkLaneMap (n : Nat)
  | lnkStatus (n : Nat)
  | lnkCfg
  | lnkFlows
  | lnkFaults
  | lnkMeterBase
  | lnkApply
  | lnkClassWin (c w : Nat)
  | lnkRoute (p : Nat)
  | pciStatus
  | pciFaults
  | cxlPort (p : Nat)
  | keyCtxTable
  | keySched
  | keySchedStatus
  | keySchedApply
  | prtFence
  | evtPending (w : Nat)
  | evtEnable (w : Nat)
  | evtThreshold (k : Nat)
  | evtClaim (k : Nat)
  | evtComplete (k : Nat)
  | evtActive (w : Nat)
  | evtRaise
  | evtPriority (s : Nat)
  | secState
  | secChallenge (k : Nat)
  | secTokenBase
  | secTokenGo
  | secKeyBase
  | secKeyGo
  | secKeyErase
  | secStatus
  | pwrDieStatus
  | pwrCfg
  | pwrWakeEn
  | pwrState
  | pwrWakeAt
  | pwrWakeCause
  | pwrInput
  | pwrCoolant
  | pwrThermal
  | pwrApply
  | mirSrc (m : Nat)
  | mirDst (m : Nat)
  | mirOutMark (m : Nat)
  | mirOutState (m : Nat)
  | mirInMark (m : Nat)
  | mirInState (m : Nat)
  | mirResync
  | mirApply
  deriving DecidableEq, Repr

/-- The groups of R400. -/
inductive Group where
  | plb
  | duc (n : Nat)
  | cntDump (n : Nat)
  | keyLoad
  | wlk
  | clm
  | keySched
  | shard
  | mor
  | med
  | mem
  | lnk
  | pwr
  | mir
  deriving DecidableEq, Repr

/-- The block of a register; cluster registers count from block 0x08 of their compute die (R130). -/
def Reg.blk : Reg → Nat
  | .idGrade => 0x00
  | .idClusterFuse => 0x00
  | .plbNow => 0x01
  | .plbState => 0x01
  | .plbCfg => 0x01
  | .plbEpoch => 0x01
  | .plbBeatRate => 0x01
  | .plbEvents => 0x01
  | .plbPortAsym _ => 0x01
  | .plbApply => 0x01
  | .ducBase _ => 0x03
  | .ducSize _ => 0x03
  | .ducCtl _ => 0x03
  | .ducHead _ => 0x03
  | .ducTail _ => 0x03
  | .ducLost _ => 0x03
  | .ducApply => 0x03
  | .cntCaptureAt => 0x04
  | .cntCaptureId => 0x04
  | .cntCaptureStatus => 0x04
  | .cntCaptureCancel => 0x04
  | .cntDumpBase _ => 0x04
  | .cntApply => 0x04
  | .keyStatus => 0x08
  | .keyCoreState => 0x08
  | .keyLoadSrc => 0x08
  | .keyLoadCtl => 0x08
  | .keyLoadStatus => 0x08
  | .keyInject => 0x08
  | .keyImemPage _ => 0x08
  | .keyApply => 0x08
  | .wlkCfg => 0x08
  | .wlkStatus => 0x08
  | .wlkFaults => 0x08
  | .wlkApply => 0x08
  | .clmGrant _ => 0x08
  | .clmFaults => 0x08
  | .clmApply => 0x08
  | .morShardBase _ => 0x14
  | .morShardSize _ => 0x14
  | .morShardCfg _ => 0x14
  | .morShardStep _ => 0x14
  | .morShardVersion _ => 0x14
  | .morShardHold _ => 0x14
  | .morLeaseCfg => 0x14
  | .morLeaseStatus => 0x14
  | .morLeaseDrop => 0x14
  | .morShardApply => 0x14
  | .morRedBase _ => 0x14
  | .morRedSize _ => 0x14
  | .morRedCfg _ => 0x14
  | .morRedWin _ => 0x14
  | .morRedState _ => 0x14
  | .morPermit _ => 0x14
  | .morRcptCtl => 0x14
  | .morRcptStatus => 0x14
  | .morTrailBase => 0x14
  | .morTrailSize => 0x14
  | .morDistBase => 0x14
  | .morRcptSel => 0x14
  | .morRcptData _ => 0x14
  | .morApply => 0x14
  | .medShare _ => 0x1C
  | .medStatus => 0x1C
  | .medEngine _ => 0x1C
  | .medFaults => 0x1C
  | .medApply => 0x1C
  | .nmcStatus _ => 0x10
  | .nmcFault _ => 0x10
  | .nmcScrub => 0x10
  | .fmcChan _ => 0x11
  | .fmcFault _ => 0x11
  | .fmcScrub => 0x11
  | .fmcLayout => 0x11
  | .llmCtl => 0x13
  | .llmStatus => 0x13
  | .llmFlush => 0x13
  | .llmWays _ => 0x13
  | .llmMortarWays => 0x13
  | .prtWin _ _ => 0x13
  | .prtJob _ => 0x13
  | .prtCtxMap _ => 0x13
  | .prtTableBase => 0x13
  | .prtGrantPage => 0x13
  | .prtGrantGo => 0x13
  | .prtStatus => 0x13
  | .prtFault => 0x13
  | .rgl _ _ => 0x13
  | .memApply => 0x13
  | .lnkCtl _ => 0x18
  | .lnkPeerKey _ _ => 0x18
  | .lnkLaneMap _ => 0x18
  | .lnkStatus _ => 0x18
  | .lnkCfg => 0x18
  | .lnkFlows => 0x18
  | .lnkFaults => 0x18
  | .lnkMeterBase => 0x18
  | .lnkApply => 0x18
  | .lnkClassWin _ _ => 0x18
  | .lnkRoute _ => 0x18
  | .pciStatus => 0x12
  | .pciFaults => 0x12
  | .cxlPort _ => 0x12
  | .keyCtxTable => 0x08
  | .keySched => 0x08
  | .keySchedStatus => 0x08
  | .keySchedApply => 0x08
  | .prtFence => 0x13
  | .evtPending _ => 0x02
  | .evtEnable _ => 0x02
  | .evtThreshold _ => 0x02
  | .evtClaim _ => 0x02
  | .evtComplete _ => 0x02
  | .evtActive _ => 0x02
  | .evtRaise => 0x02
  | .evtPriority _ => 0x02
  | .secState => 0x1E
  | .secChallenge _ => 0x1E
  | .secTokenBase => 0x1E
  | .secTokenGo => 0x1E
  | .secKeyBase => 0x1E
  | .secKeyGo => 0x1E
  | .secKeyErase => 0x1E
  | .secStatus => 0x1E
  | .pwrDieStatus => 0x1F
  | .pwrCfg => 0x1F
  | .pwrWakeEn => 0x1F
  | .pwrState => 0x1F
  | .pwrWakeAt => 0x1F
  | .pwrWakeCause => 0x1F
  | .pwrInput => 0x1F
  | .pwrCoolant => 0x1F
  | .pwrThermal => 0x1F
  | .pwrApply => 0x1F
  | .mirSrc _ => 0x10
  | .mirDst _ => 0x10
  | .mirOutMark _ => 0x10
  | .mirOutState _ => 0x10
  | .mirInMark _ => 0x10
  | .mirInState _ => 0x10
  | .mirResync => 0x10
  | .mirApply => 0x10

/-- The offset of a register within its block. -/
def Reg.offset : Reg → Nat
  | .idGrade => 0x0000
  | .idClusterFuse => 0x0008
  | .plbNow => 0x0000
  | .plbState => 0x0008
  | .plbCfg => 0x0010
  | .plbEpoch => 0x0018
  | .plbBeatRate => 0x0020
  | .plbEvents => 0x0028
  | .plbPortAsym n => 0x0100 + 0x8 * n
  | .plbApply => 0x0FF8
  | .ducBase n => 0x0000 + 0x40 * n
  | .ducSize n => 0x0008 + 0x40 * n
  | .ducCtl n => 0x0010 + 0x40 * n
  | .ducHead n => 0x0018 + 0x40 * n
  | .ducTail n => 0x0020 + 0x40 * n
  | .ducLost n => 0x0028 + 0x40 * n
  | .ducApply => 0x0FF8
  | .cntCaptureAt => 0x0000
  | .cntCaptureId => 0x0008
  | .cntCaptureStatus => 0x0010
  | .cntCaptureCancel => 0x0018
  | .cntDumpBase n => 0x0100 + 0x8 * n
  | .cntApply => 0x0FF8
  | .keyStatus => 0x0000
  | .keyCoreState => 0x0008
  | .keyLoadSrc => 0x0040
  | .keyLoadCtl => 0x0048
  | .keyLoadStatus => 0x0050
  | .keyInject => 0x0080
  | .keyImemPage p => 0x0100 + 0x8 * p
  | .keyApply => 0x0FF8
  | .wlkCfg => 0x1000
  | .wlkStatus => 0x1008
  | .wlkFaults => 0x1010
  | .wlkApply => 0x1FF8
  | .clmGrant g => 0x2000 + 0x8 * g
  | .clmFaults => 0x2040
  | .clmApply => 0x2FF8
  | .morShardBase s => 0x8000 + 0x20 * s
  | .morShardSize s => 0x8008 + 0x20 * s
  | .morShardCfg s => 0x8010 + 0x20 * s
  | .morShardStep s => 0x8018 + 0x20 * s
  | .morShardVersion s => 0xC000 + 0x8 * s
  | .morShardHold s => 0xD000 + 0x8 * s
  | .morLeaseCfg => 0xE000
  | .morLeaseStatus => 0xE008
  | .morLeaseDrop => 0xE010
  | .morShardApply => 0xEFF8
  | .morRedBase r => 0x0000 + 0x20 * r
  | .morRedSize r => 0x0008 + 0x20 * r
  | .morRedCfg r => 0x0010 + 0x20 * r
  | .morRedWin r => 0x0018 + 0x20 * r
  | .morRedState r => 0x4000 + 0x8 * r
  | .morPermit p => 0x5000 + 0x8 * p
  | .morRcptCtl => 0x6000
  | .morRcptStatus => 0x6008
  | .morTrailBase => 0x6010
  | .morTrailSize => 0x6018
  | .morDistBase => 0x6020
  | .morRcptSel => 0x6030
  | .morRcptData k => 0x6040 + 0x8 * k
  | .morApply => 0x7FF8
  | .medShare c => 0x0000 + 0x8 * c
  | .medStatus => 0x0400
  | .medEngine e => 0x0500 + 0x8 * e
  | .medFaults => 0x0600
  | .medApply => 0x0FF8
  | .nmcStatus k => 0x0000 + 0x8 * k
  | .nmcFault k => 0x0040 + 0x8 * k
  | .nmcScrub => 0x0100
  | .fmcChan c => 0x0000 + 0x8 * c
  | .fmcFault c => 0x0040 + 0x8 * c
  | .fmcScrub => 0x0100
  | .fmcLayout => 0x0108
  | .llmCtl => 0x0000
  | .llmStatus => 0x0008
  | .llmFlush => 0x0010
  | .llmWays p => 0x0100 + 0x8 * p
  | .llmMortarWays => 0x0180
  | .prtWin p s => 0x1000 + 0x20 * p + 0x8 * s
  | .prtJob p => 0x1018 + 0x20 * p
  | .prtCtxMap i => 0x1400 + 0x8 * i
  | .prtTableBase => 0x1420
  | .prtGrantPage => 0x1500
  | .prtGrantGo => 0x1508
  | .prtStatus => 0x1510
  | .prtFault => 0x1518
  | .rgl p r => 0x2000 + 0x40 * p + 0x8 * r
  | .memApply => 0x3FF8
  | .lnkCtl n => 0x0000 + 0x40 * n
  | .lnkPeerKey n k => 0x0008 + 0x40 * n + 0x8 * k
  | .lnkLaneMap n => 0x0028 + 0x40 * n
  | .lnkStatus n => 0x0030 + 0x40 * n
  | .lnkCfg => 0x0800
  | .lnkFlows => 0x0808
  | .lnkFaults => 0x0810
  | .lnkMeterBase => 0x0818
  | .lnkApply => 0x0FF8
  | .lnkClassWin c w => 0x1000 + 0x20 * c + 0x8 * w
  | .lnkRoute p => 0x10000 + 0x8 * p
  | .pciStatus => 0x0000
  | .pciFaults => 0x0008
  | .cxlPort p => 0x0100 + 0x8 * p
  | .keyCtxTable => 0x3000
  | .keySched => 0x3008
  | .keySchedStatus => 0x3010
  | .keySchedApply => 0x3FF8
  | .prtFence => 0x1520
  | .evtPending w => 0x0000 + 0x8 * w
  | .evtEnable w => 0x0080 + 0x8 * w
  | .evtThreshold k => 0x0100 + 0x8 * k
  | .evtClaim k => 0x0200 + 0x8 * k
  | .evtComplete k => 0x0280 + 0x8 * k
  | .evtActive w => 0x0300 + 0x8 * w
  | .evtRaise => 0x0400
  | .evtPriority s => 0x1000 + 0x8 * s
  | .secState => 0x0000
  | .secChallenge k => 0x0008 + 0x8 * k
  | .secTokenBase => 0x0040
  | .secTokenGo => 0x0048
  | .secKeyBase => 0x0050
  | .secKeyGo => 0x0058
  | .secKeyErase => 0x0060
  | .secStatus => 0x0068
  | .pwrDieStatus => 0x0000
  | .pwrCfg => 0x0100
  | .pwrWakeEn => 0x0108
  | .pwrState => 0x0200
  | .pwrWakeAt => 0x0208
  | .pwrWakeCause => 0x0210
  | .pwrInput => 0x0300
  | .pwrCoolant => 0x0308
  | .pwrThermal => 0x0310
  | .pwrApply => 0x0FF8
  | .mirSrc m => 0x1000 + 0x20 * m
  | .mirDst m => 0x1008 + 0x20 * m
  | .mirOutMark m => 0x1010 + 0x20 * m
  | .mirOutState m => 0x1018 + 0x20 * m
  | .mirInMark m => 0x1200 + 0x10 * m
  | .mirInState m => 0x1208 + 0x10 * m
  | .mirResync => 0x1F00
  | .mirApply => 0x1FF8

/-- The non-reserved RW bits of a register (R11). -/
def Reg.rw : Reg → Nat
  | .plbCfg => 0x3F
  | .plbEpoch => 0xFFFFFFFFFFFFFFFF
  | .plbPortAsym _ => 0xFFFF
  | .ducBase _ => 0xFFFFFFE00000
  | .ducSize _ => 0x1F
  | .ducCtl _ => 0x3
  | .ducTail _ => 0xFFFFFFFF
  | .cntCaptureAt => 0xFFFFFFFFFFFFFFFF
  | .cntDumpBase _ => 0xFFFFFFE00000
  | .keyLoadSrc => 0xFFFFFFFFFFC0
  | .keyLoadCtl => 0xFFFFFFFF3FFFFF
  | .wlkCfg => 0xF
  | .clmGrant _ => 0xFFFF07FF
  | .morShardBase _ => 0xFFFFFFFF0000
  | .morShardSize _ => 0xFFFFFF
  | .morShardCfg _ => 0xFFFF007F
  | .morShardStep _ => 0xFFFFFFFFFFFF
  | .morLeaseCfg => 0xFFFFFFFF
  | .morRedBase _ => 0xFFFFFFE00000
  | .morRedSize _ => 0x3FFFFFF
  | .morRedCfg _ => 0xFFFF3FFFFFFF01FF
  | .morRedWin _ => 0xFFFFFFFF
  | .morPermit _ => 0x1FFF1FFFFFFF0007
  | .morRcptCtl => 0xFFFFFFFFFFFF
  | .morTrailBase => 0xFFFFFFE00000
  | .morTrailSize => 0x1F
  | .morDistBase => 0xFFFFFFFF8000
  | .medShare _ => 0xFF
  | .nmcScrub => 0xFF
  | .fmcScrub => 0xFF
  | .llmCtl => 0x1
  | .llmWays _ => 0xFFFFFFFF
  | .llmMortarWays => 0xFFFFFFFF
  | .prtWin _ _ => 0x803FFFFFFFFFFFFF
  | .prtJob _ => 0x3FFFF
  | .prtCtxMap _ => 0xFFFFFFFFFFFFFFFF
  | .prtTableBase => 0xFFFFFFE00000
  | .prtGrantPage => 0x1FFFFFFFFFFF
  | .rgl _ _ => 0x1FFFFFFFFFFF
  | .lnkCtl _ => 0xFFFFB
  | .lnkPeerKey _ _ => 0xFFFFFFFFFFFFFFFF
  | .lnkCfg => 0xFFFFFFFFFFFF
  | .lnkMeterBase => 0xFFFFFFE00000
  | .lnkClassWin _ _ => 0x1FFFFFFFF
  | .lnkRoute _ => 0x7FFFFF
  | .keyCtxTable => 0xFFFFFFE00000
  | .keySched => 0x7F7F
  | .evtPending _ => 0xFFFFFFFFFFFFFFFF
  | .evtEnable _ => 0xFFFFFFFFFFFFFFFF
  | .evtThreshold _ => 0xF
  | .evtPriority _ => 0x3F
  | .secTokenBase => 0xFFFFFFFF0000
  | .secKeyBase => 0xFFFFFFFFF000
  | .pwrCfg => 0xFFFFFF7F1F
  | .pwrWakeEn => 0x1F
  | .pwrState => 0x3
  | .pwrWakeAt => 0xFFFFFFFFFFFFFFFF
  | .mirSrc _ => 0x803FFFFFFFFFFFFF
  | .mirDst _ => 0x7FFFF07FFFFFF
  | _ => 0

/-- The W1C bits of a register (R11). -/
def Reg.w1c : Reg → Nat
  | .plbEvents => 0xF
  | .cntCaptureStatus => 0x10
  | .keyLoadStatus => 0xC
  | .wlkFaults => 0x7
  | .clmFaults => 0x3
  | .morLeaseStatus => 0x70000
  | .morRcptStatus => 0x1C0000
  | .medFaults => 0x7
  | .nmcFault _ => 0x1000000000000
  | .fmcFault _ => 0x1000000000000
  | .llmStatus => 0xC
  | .prtStatus => 0x2
  | .prtFault => 0x80000000000000
  | .lnkStatus _ => 0xE0000
  | .lnkFlows => 0x10000
  | .lnkFaults => 0x7
  | .pciFaults => 0x7
  | .cxlPort _ => 0x4000000
  | .prtFence => 0xFFFF
  | .secStatus => 0x100000000
  | .pwrState => 0x80
  | .pwrWakeCause => 0x1F
  | .pwrThermal => 0x7000
  | .mirOutState _ => 0x4
  | _ => 0

/-- The reset RATE of partition 0's bucket for a resource (R340): the Nominal capacities of R331 with 8 far channels. -/
def rateReset : Nat → Nat
  | 0 => 153600
  | 1 => 9011
  | 2 => 7744
  | 3 => 64000
  | 4 => 512
  | _ => 0

/-- The reset value of a register, as its table gives it. -/
def Reg.resetVal : Reg → Nat
  | .llmWays p => if p = 0 then 0xFFFFFFFF else 0
  | .prtWin p _ => if p = 0 then 0x7FFFFFF * 2 ^ 27 + 2 ^ 63 else 0
  | .rgl p r => if p = 0 then rateReset r + 0x4000 * 2 ^ 20 + 2 ^ 44 else 0
  | .plbCfg => 0x3E
  | .ducSize _ => 0xC
  | .keyCoreState => 0xFFFF
  | .wlkCfg => 0x4
  | .morLeaseCfg => 0x186A0
  | .morRcptCtl => 0x186A00004
  | .morTrailSize => 0xC
  | .medShare _ => 0x1
  | .nmcScrub => 0x18
  | .fmcScrub => 0x18
  | .lnkCtl _ => 0x40000
  | .lnkCfg => 0x186A01000
  | .secStatus => 0x10000
  | .pwrCfg => 0x5A00640A02
  | .pwrWakeEn => 0xF
  | .pwrState => 0x11
  | _ => 0

/-- The group that holds a register; none acts at once (R12, R400). -/
def Reg.group : Reg → Option Group
  | .plbCfg => some .plb
  | .plbEpoch => some .plb
  | .plbPortAsym _ => some .plb
  | .ducBase n => some (.duc n)
  | .ducSize n => some (.duc n)
  | .ducCtl n => some (.duc n)
  | .cntDumpBase n => some (.cntDump n)
  | .keyLoadSrc => some .keyLoad
  | .keyLoadCtl => some .keyLoad
  | .wlkCfg => some .wlk
  | .clmGrant _ => some .clm
  | .morShardBase _ => some .shard
  | .morShardSize _ => some .shard
  | .morShardCfg _ => some .shard
  | .morShardStep _ => some .shard
  | .morRedBase _ => some .mor
  | .morRedSize _ => some .mor
  | .morRedCfg _ => some .mor
  | .morRedWin _ => some .mor
  | .morPermit _ => some .mor
  | .medShare _ => some .med
  | .llmWays _ => some .mem
  | .llmMortarWays => some .mem
  | .prtWin _ _ => some .mem
  | .prtJob _ => some .mem
  | .prtCtxMap _ => some .mem
  | .prtTableBase => some .mem
  | .rgl _ _ => some .mem
  | .lnkCtl _ => some .lnk
  | .lnkPeerKey _ _ => some .lnk
  | .lnkCfg => some .lnk
  | .lnkMeterBase => some .lnk
  | .lnkClassWin _ _ => some .lnk
  | .lnkRoute _ => some .lnk
  | .keyCtxTable => some .keySched
  | .keySched => some .keySched
  | .pwrCfg => some .pwr
  | .pwrWakeEn => some .pwr
  | .mirSrc _ => some .mir
  | .mirDst _ => some .mir
  | _ => none

/-- Hub dies (R9). -/
def isHub (die : Nat) : Bool := die == 8 || die == 9

/-- The hub that serves a die (R20, R47). -/
def servingHub (die : Nat) : Nat := if die < 4 || die == 8 then 8 else 9

/-- The hub that owns a Lintel port (R22). -/
def portHub (n : Nat) : Nat := if n < 15 then 8 else 9

/-- The index of an array register when `off` names one of its `count` places, `stride` apart from `base`. -/
def slot (off base stride count : Nat) : Option Nat :=
  if base ≤ off && (off - base) % stride == 0 && decide ((off - base) / stride < count) then some ((off - base) / stride) else none

/-- The two indices of a doubly indexed register. -/
def slot2 (off base s1 n1 s2 n2 : Nat) : Option (Nat × Nat) :=
  if base ≤ off && off % 8 == 0 && decide ((off - base) / s1 < n1) && decide ((off - base) % s1 / s2 < n2)
  then some ((off - base) / s1, (off - base) % s1 / s2) else none

/-- The first register named. -/
def pick : List (Option Reg) → Option Reg
  | [] => none
  | some r :: _ => some r
  | none :: t => pick t

/-- A register that stands at one offset. -/
def place (off base : Nat) (c : Bool) (r : Reg) : Option Reg := if off == base && c then some r else none

/-- The register at an offset of block 0x00 (R2). -/
def locateId (die off : Nat) : Option Reg :=
  pick [place off 0x0 (isHub die) .idGrade,
        place off 0x8 true .idClusterFuse]

/-- The register at an offset of block 0x01 (R39). -/
def locatePlb (die off : Nat) : Option Reg :=
  pick [place off 0x0 true .plbNow,
        place off 0x8 true .plbState,
        place off 0x10 (isHub die) .plbCfg,
        place off 0x18 (isHub die) .plbEpoch,
        place off 0x20 (die < 8) .plbBeatRate,
        place off 0x28 true .plbEvents,
        (slot off 0x100 0x8 30).bind fun n => if isHub die && portHub n == die then some (.plbPortAsym n) else none,
        place off 0xFF8 (isHub die) .plbApply]

/-- The register at an offset of block 0x03 (R47). -/
def locateDuc (die off : Nat) : Option Reg :=
  pick [(slot off 0x0 0x40 10).bind fun n => if servingHub n == die then some (.ducBase n) else none,
        (slot off 0x8 0x40 10).bind fun n => if servingHub n == die then some (.ducSize n) else none,
        (slot off 0x10 0x40 10).bind fun n => if servingHub n == die then some (.ducCtl n) else none,
        (slot off 0x18 0x40 10).bind fun n => if servingHub n == die then some (.ducHead n) else none,
        (slot off 0x20 0x40 10).bind fun n => if servingHub n == die then some (.ducTail n) else none,
        (slot off 0x28 0x40 10).bind fun n => if servingHub n == die then some (.ducLost n) else none,
        place off 0xFF8 true .ducApply]

/-- The register at an offset of block 0x04 (R53). -/
def locateCnt (die off : Nat) : Option Reg :=
  pick [place off 0x0 (die == 8) .cntCaptureAt,
        place off 0x8 (die == 8) .cntCaptureId,
        place off 0x10 (die == 8) .cntCaptureStatus,
        place off 0x18 (die == 8) .cntCaptureCancel,
        (slot off 0x100 0x8 10).bind fun n => if servingHub n == die then some (.cntDumpBase n) else none,
        place off 0xFF8 true .cntApply]

/-- The register at an offset of the clusters (R130, R190, R213, R389). -/
def locateClu (_die off : Nat) : Option Reg :=
  pick [place off 0x0 true .keyStatus,
        place off 0x8 true .keyCoreState,
        place off 0x40 true .keyLoadSrc,
        place off 0x48 true .keyLoadCtl,
        place off 0x50 true .keyLoadStatus,
        place off 0x80 true .keyInject,
        (slot off 0x100 0x8 8).map fun p => .keyImemPage p,
        place off 0xFF8 true .keyApply,
        place off 0x1000 true .wlkCfg,
        place off 0x1008 true .wlkStatus,
        place off 0x1010 true .wlkFaults,
        place off 0x1FF8 true .wlkApply,
        (slot off 0x2000 0x8 4).map fun g => .clmGrant g,
        place off 0x2040 true .clmFaults,
        place off 0x2FF8 true .clmApply,
        place off 0x3000 true .keyCtxTable,
        place off 0x3008 true .keySched,
        place off 0x3010 true .keySchedStatus,
        place off 0x3FF8 true .keySchedApply]

/-- The register at an offset of block 0x14 (R244, R275). -/
def locateMor (die off : Nat) : Option Reg :=
  pick [(slot off 0x8000 0x20 512).map fun s => .morShardBase s,
        (slot off 0x8008 0x20 512).map fun s => .morShardSize s,
        (slot off 0x8010 0x20 512).map fun s => .morShardCfg s,
        (slot off 0x8018 0x20 512).map fun s => .morShardStep s,
        (slot off 0xC000 0x8 512).map fun s => .morShardVersion s,
        (slot off 0xD000 0x8 512).map fun s => .morShardHold s,
        place off 0xE000 true .morLeaseCfg,
        place off 0xE008 true .morLeaseStatus,
        place off 0xE010 true .morLeaseDrop,
        place off 0xEFF8 true .morShardApply,
        (slot off 0x0 0x20 512).map fun r => .morRedBase r,
        (slot off 0x8 0x20 512).map fun r => .morRedSize r,
        (slot off 0x10 0x20 512).map fun r => .morRedCfg r,
        (slot off 0x18 0x20 512).map fun r => .morRedWin r,
        (slot off 0x4000 0x8 512).map fun r => .morRedState r,
        (slot off 0x5000 0x8 256).map fun p => .morPermit p,
        place off 0x6000 true .morRcptCtl,
        place off 0x6008 true .morRcptStatus,
        place off 0x6010 true .morTrailBase,
        place off 0x6018 true .morTrailSize,
        place off 0x6020 (die == 8) .morDistBase,
        place off 0x6030 true .morRcptSel,
        (slot off 0x6040 0x8 4).map fun k => .morRcptData k,
        place off 0x7FF8 true .morApply]

/-- The register at an offset of block 0x1C (R306). -/
def locateMed (_die off : Nat) : Option Reg :=
  pick [(slot off 0x0 0x8 64).map fun c => .medShare c,
        place off 0x400 true .medStatus,
        (slot off 0x500 0x8 10).map fun e => .medEngine e,
        place off 0x600 true .medFaults,
        place off 0xFF8 true .medApply]

/-- The register at an offset of block 0x10 (R338, R461). -/
def locateNmc (_die off : Nat) (twin : Bool) : Option Reg :=
  pick [(slot off 0x0 0x8 4).map fun k => .nmcStatus k,
        (slot off 0x40 0x8 4).map fun k => .nmcFault k,
        place off 0x100 true .nmcScrub,
        (slot off 0x1000 0x20 8).bind fun m => if twin then some (.mirSrc m) else none,
        (slot off 0x1008 0x20 8).bind fun m => if twin then some (.mirDst m) else none,
        (slot off 0x1010 0x20 8).bind fun m => if twin then some (.mirOutMark m) else none,
        (slot off 0x1018 0x20 8).bind fun m => if twin then some (.mirOutState m) else none,
        (slot off 0x1200 0x10 8).bind fun m => if twin then some (.mirInMark m) else none,
        (slot off 0x1208 0x10 8).bind fun m => if twin then some (.mirInState m) else none,
        place off 0x1F00 (twin) .mirResync,
        place off 0x1FF8 (twin) .mirApply]

/-- The register at an offset of block 0x11 (R339). -/
def locateFmc (_die off : Nat) : Option Reg :=
  pick [(slot off 0x0 0x8 8).map fun c => .fmcChan c,
        (slot off 0x40 0x8 8).map fun c => .fmcFault c,
        place off 0x100 true .fmcScrub,
        place off 0x108 true .fmcLayout]

/-- The register at an offset of block 0x13 (R340, R397). -/
def locateMem (_die off : Nat) : Option Reg :=
  pick [place off 0x0 true .llmCtl,
        place off 0x8 true .llmStatus,
        place off 0x10 true .llmFlush,
        (slot off 0x100 0x8 16).map fun p => .llmWays p,
        place off 0x180 true .llmMortarWays,
        (slot2 off 0x1000 0x20 16 0x8 3).map fun (p, s) => .prtWin p s,
        (slot off 0x1018 0x20 16).map fun p => .prtJob p,
        (slot off 0x1400 0x8 4).map fun i => .prtCtxMap i,
        place off 0x1420 true .prtTableBase,
        place off 0x1500 true .prtGrantPage,
        place off 0x1508 true .prtGrantGo,
        place off 0x1510 true .prtStatus,
        place off 0x1518 true .prtFault,
        (slot2 off 0x2000 0x40 16 0x8 5).map fun (p, r) => .rgl p r,
        place off 0x3FF8 true .memApply,
        place off 0x1520 true .prtFence]

/-- The register at an offset of block 0x18 (R359). -/
def locateLnk (die off : Nat) : Option Reg :=
  pick [(slot off 0x0 0x40 30).bind fun n => if portHub n == die then some (.lnkCtl n) else none,
        (slot2 off 0x8 0x40 30 0x8 4).bind fun (n, k) => if portHub n == die then some (.lnkPeerKey n k) else none,
        (slot off 0x28 0x40 30).bind fun n => if portHub n == die then some (.lnkLaneMap n) else none,
        (slot off 0x30 0x40 30).bind fun n => if portHub n == die then some (.lnkStatus n) else none,
        place off 0x800 true .lnkCfg,
        place off 0x808 true .lnkFlows,
        place off 0x810 true .lnkFaults,
        place off 0x818 true .lnkMeterBase,
        place off 0xFF8 true .lnkApply,
        (slot2 off 0x1000 0x20 64 0x8 4).map fun (c, w) => .lnkClassWin c w,
        (slot off 0x10000 0x8 8192).map fun p => .lnkRoute p]

/-- The register at an offset of block 0x12 (R367). -/
def locatePci (die off : Nat) : Option Reg :=
  pick [place off 0x0 (die == 8) .pciStatus,
        place off 0x8 (die == 8) .pciFaults,
        (slot off 0x100 0x8 4).bind fun p => if (if p < 2 then 8 else 9) == die then some (.cxlPort p) else none]

/-- The register at an offset of block 0x02 (R402). -/
def locateEvt (_die off : Nat) : Option Reg :=
  pick [(slot off 0x0 0x8 16).map fun w => .evtPending w,
        (slot off 0x80 0x8 16).map fun w => .evtEnable w,
        (slot off 0x100 0x8 4).map fun k => .evtThreshold k,
        (slot off 0x200 0x8 4).map fun k => .evtClaim k,
        (slot off 0x280 0x8 4).map fun k => .evtComplete k,
        (slot off 0x300 0x8 16).map fun w => .evtActive w,
        place off 0x400 true .evtRaise,
        (slot off 0x1000 0x8 1024).map fun s => .evtPriority s]

/-- The register at an offset of block 0x1E (R431). -/
def locateSec (_die off : Nat) : Option Reg :=
  pick [place off 0x0 true .secState,
        (slot off 0x8 0x8 4).map fun k => .secChallenge k,
        place off 0x40 true .secTokenBase,
        place off 0x48 true .secTokenGo,
        place off 0x50 true .secKeyBase,
        place off 0x58 true .secKeyGo,
        place off 0x60 true .secKeyErase,
        place off 0x68 true .secStatus]

/-- The register at an offset of block 0x1F (R453). -/
def locatePwr (die off : Nat) : Option Reg :=
  pick [place off 0x0 true .pwrDieStatus,
        place off 0x100 (die == 8) .pwrCfg,
        place off 0x108 (die == 8) .pwrWakeEn,
        place off 0x200 (die == 8) .pwrState,
        place off 0x208 (die == 8) .pwrWakeAt,
        place off 0x210 (die == 8) .pwrWakeCause,
        place off 0x300 (die == 8) .pwrInput,
        place off 0x308 (die == 8) .pwrCoolant,
        place off 0x310 (die == 8) .pwrThermal,
        place off 0xFF8 (die == 8) .pwrApply]

/-- Whether the package sits on a twin carrier (R2, R461). R2 reserves CARRIER 0b11; the model lets it act as a twin carrier (log entry 90). -/
def State.twin (s : State) : Bool := s.fuses.carrier != 0#2

/-- Whether physical cluster `k` is present (R2, R3). -/
def State.present (s : State) (k : Nat) : Bool := ((s.fuses.clusters[k / 8]?).getD 0#8).getLsbD (k % 8)

/-- Whether a block is assigned on a die (R10): each block where its chapter places it, the block of a fused-off cluster nowhere. -/
def State.assigned (s : State) (die blk : Nat) : Bool :=
  if die < 8 then blk == 0x00 || blk == 0x01 || blk == 0x1F || (decide (8 ≤ blk) && decide (blk < 16) && s.present (8 * die + (blk - 8)))
  else if die == 8 || die == 9 then
    [0x00, 0x01, 0x02, 0x03, 0x04, 0x10, 0x11, 0x12, 0x13, 0x14, 0x18, 0x1C, 0x1F].contains blk || (blk == 0x1E && die == 8)
  else false

/-- The register at an offset of a block of a die (R9, R10); none for an unassigned offset. -/
def State.locate (s : State) (die blk off : Nat) : Option Reg :=
  if die < 8 && decide (8 ≤ blk) && decide (blk < 16) then locateClu die off
  else match blk with
    | 0x00 => locateId die off
    | 0x01 => locatePlb die off
    | 0x02 => locateEvt die off
    | 0x03 => locateDuc die off
    | 0x04 => locateCnt die off
    | 0x10 => locateNmc die off s.twin
    | 0x11 => locateFmc die off
    | 0x12 => locatePci die off
    | 0x13 => locateMem die off
    | 0x14 => locateMor die off
    | 0x18 => locateLnk die off
    | 0x1C => locateMed die off
    | 0x1E => locateSec die off
    | 0x1F => locatePwr die off
    | _ => none

end Sys2Proof.Machine
end

