-- ==== Sys2Proof/Machine/Ops.lean ====
section
/-! DEFINITION. The named operations over the state: registers and their groups (R9 to R12, R400), the event controller's
pending bits (R401), plumb stamps (R33), memory and its lines (R308 to R329), Lintel packets on their way out (R345 to R348),
ductus events (R43 to R48) and counters (R50). -/

namespace Sys2Proof.Machine

/-- What every command answers: the new state `t`, with the queue's rest as the step left it in `s` and memory and scratchpad
in canonical form. -/
def settle (s t : State) : State :=
  { t with pending := s.pending, mem := memCanon t.mem, scratch := memCanon t.scratch }

/-- A command that runs; with the rails off nothing happens (R441). -/
def done (s t : State) : Host.Outcome State Fault Refusal := .next (settle s (if s.power.rails then t else s))

/-- An event of the supply, which acts with the rails off too (R438 to R441). -/
def always (s t : State) : Host.Outcome State Fault Refusal := .next (settle s t)

/-- A command on a unit that exists when `ok` holds. -/
def onUnit (ok : Bool) (what : String) (s t : State) : Host.Outcome State Fault Refusal :=
  if ok then done s t else .fault (.noSuchUnit what)

/-! ## Free values -/

/-- The next free number (log entry 3). -/
def State.draw (s : State) : Nat × State := (Config.freeNat s.fresh, { s with fresh := s.fresh + 1 })

/-- The next free truth value (log entry 3). -/
def State.drawBool (s : State) : Bool × State := (Config.freeBool s.fresh, { s with fresh := s.fresh + 1 })

/-! ## Registers -/

/-- Where the registers of a die begin (R9). -/
def dieAt (die : Nat) : Nat := die * 2 ^ 28

/-- Where the registers of physical cluster `k` begin (R130). -/
def cluAt (k : Nat) : Nat := (k / 8) * 2 ^ 28 + (k % 8) * 2 ^ 20

/-- The register-space address of a register (R9). -/
def regKey (base : Nat) (r : Reg) : Nat := base + r.blk * 2 ^ 20 + r.offset

/-- The stored value of a register: the shadow copy where it is grouped (R400). -/
def State.reg (s : State) (base : Nat) (r : Reg) : BitVec 64 := (kvGet s.regs (regKey base r)).getD (BitVec.ofNat 64 r.resetVal)

/-- The value of a register in force (R400). -/
def State.live' (s : State) (base : Nat) (r : Reg) : BitVec 64 :=
  match r.group with
  | none => s.reg base r
  | some _ => (kvGet s.live (regKey base r)).getD (BitVec.ofNat 64 r.resetVal)

/-- A field of a register in force: `w` bits from `lo`. -/
def State.cfg (s : State) (base : Nat) (r : Reg) (lo w : Nat) : Nat := fld (s.live' base r) lo w

/-- The state with a register's stored value set. -/
def State.setReg (s : State) (base : Nat) (r : Reg) (v : BitVec 64) : State :=
  { s with regs := if v = BitVec.ofNat 64 r.resetVal then kvDel s.regs (regKey base r) else kvSet s.regs (regKey base r) v }

/-- The state with bits of a register set. -/
def State.setBits (s : State) (base : Nat) (r : Reg) (m : Nat) : State := s.setReg base r (s.reg base r ||| BitVec.ofNat 64 m)

/-- The state with one field of a register's stored value replaced. -/
def State.setField (s : State) (base : Nat) (r : Reg) (lo w x : Nat) : State := s.setReg base r (setFld (s.reg base r) lo w x)

/-- The register at a register-space address. -/
def State.regOf (s : State) (key : Nat) : Option Reg := s.locate (key / 2 ^ 28) (key / 2 ^ 20 % 256) (key % 2 ^ 20)

/-- Whether an address holds a register of group `g` of the block at `base` (R400). -/
def State.inGroup (s : State) (base : Nat) (g : Group) (key : Nat) : Bool :=
  match s.regOf key with
  | some r => r.group == some g && key == regKey base r
  | none => false

/-- Whether a group of a block has a pending copy (R400). -/
def State.hasPend (s : State) (base : Nat) (g : Group) : Bool := s.pend.any (fun e => s.inGroup base g e.1)

/-- The whole group's shadow copied into its pending copy in one step (R400). -/
def State.stage (s : State) (base : Nat) (g : Group) : State :=
  let keys := ((s.regs.map Prod.fst) ++ (s.live.map Prod.fst)).filter (s.inGroup base g)
  let vals := keys.eraseDups.filterMap (fun k => (s.regOf k).map (fun r => (k, s.reg base r)))
  { s with pend := s.pend.filter (fun e => !s.inGroup base g e.1) ++ vals }

/-- The pending copy of a group put into force (R400). -/
def State.force (s : State) (base : Nat) (g : Group) : State :=
  let mine := s.pend.filter (fun e => s.inGroup base g e.1)
  { s with
    pend := s.pend.filter (fun e => !s.inGroup base g e.1)
    live := mine.foldl (fun l e =>
      match s.regOf e.1 with
      | some r => if e.2 = BitVec.ofNat 64 r.resetVal then kvDel l e.1 else kvSet l e.1 e.2
      | none => l) s.live }

/-- A group applied at once (R400). -/
def State.applyNow (s : State) (base : Nat) (g : Group) : State := (s.stage base g).force base g

/-! ## Event sources (R401) -/

/-- The sources 8 to 19 in the order of R401's table (log entry 11). -/
def srcCapture : Nat := 8
def srcPlumb : Nat := 9
def srcGovernor : Nat := 10
def srcThermal : Nat := 11
def srcLost : Nat := 12
def srcPrtFault : Nat := 13
def srcMortar : Nat := 14
def srcLease : Nat := 15
def srcMedia : Nat := 16
def srcLlm : Nat := 17
def srcPcie : Nat := 18
def srcWake : Nat := 19

/-- Whether a number names a source that can become pending (R401). -/
def isSource (n : Nat) : Bool :=
  (decide (1 ≤ n) && decide (n ≤ 3)) || (decide (8 ≤ n) && decide (n ≤ 19)) || (decide (32 ≤ n) && decide (n ≤ 206))
    || (decide (208 ≤ n) && decide (n ≤ 221)) || (decide (768 ≤ n) && decide (n ≤ 1023))

/-- A source of a hub becomes pending (R401, R404). -/
def State.raise (s : State) (hub n : Nat) : State :=
  if isSource n then s.setBits (dieAt hub) (.evtPending (n / 64)) (2 ^ (n % 64)) else s

/-- Retirement, load DONE, load fault and walker or cluster-memory fault of a cluster raise one source of its serving hub (R401). -/
def State.keyEvent (s : State) (k : Nat) : State := s.raise (servingHub (k / 8)) (160 + k % 32)

/-- A vector of the host endpoint is raised (R388). -/
def State.vector (s : State) (v : Nat) : State := { s with vectors := s.vectors ++ [v] }

/-! ## Plumb time -/

/-- Plumb time as a die reads it: hub die 8's count, or within 4 ticks of it (R33, log entry 5). -/
def State.dieNow (s : State) (die : Nat) : BitVec 64 :=
  if die = 8 then s.plumb.now else BitVec.ofNat 64 (s.plumb.now.toNat + (Config.dieSkew die).val - 4)

/-- Whether `units` of 4096 ticks, 0 acting as 1, have passed since a stamp (R31). -/
def State.elapsed (s : State) (since : BitVec 64) (units : Nat) : Bool :=
  decide ((s.plumb.now - since).toNat ≥ (if units = 0 then 1 else units) * 4096)

/-! ## Addresses (R9, R308, R310) -/

/-- The package number of a global address. -/
def gPkg (a : BitVec 64) : Nat := fld a 51 13
/-- The space of a global address. -/
def gSpace (a : BitVec 64) : Nat := fld a 48 3
/-- The offset of a global address. -/
def gOff (a : BitVec 64) : Nat := fld a 0 48
/-- The global address of an offset. -/
def gAddr (pkg space off : Nat) : BitVec 64 := BitVec.ofNat 64 (pkg * 2 ^ 51 + space * 2 ^ 48 + off)

/-- The memory key of an offset of a space. -/
def memKey (space off : Nat) : Nat := space * 2 ^ 48 + off

/-- The key of a byte of physical cluster `k`'s memory (R212). -/
def cluKey (k off : Nat) : Nat := memKey 3 (2 ^ 44 + k * 2 ^ 24 + off)

/-- The key of a byte of a hub's last-level memory window (R310). -/
def llmKey (hub off : Nat) : Nat := memKey 3 ((hub - 8) * 2 ^ 32 + off)

/-- The far memory in use, in bytes (R313). -/
def State.farBytes (s : State) : Nat := s.farChans.length * s.farGiB * 2 ^ 30

/-- The hub that controls an offset, when installed memory backs it (R21, R308, R310). -/
def State.hubOf (s : State) (space off : Nat) : Option Nat :=
  match space with
  | 0 => if off < 0x3000000000 then some 8 else if off < 0x6000000000 then some 9 else none
  | 1 => if off < s.farBytes / 2 then some 8 else if off < s.farBytes then some 9 else none
  | 2 => if off / 2 ^ 42 < 4 && decide (off % 2 ^ 42 < ((s.cxlGiB[off / 2 ^ 42]?).getD 0) * 2 ^ 30)
         then some (if off / 2 ^ 42 < 2 then 8 else 9) else none
  | 3 => if off / 2 ^ 44 = 0 && decide (off % 2 ^ 29 < 0x18000000) && decide (off / 2 ^ 33 = 0) && off / 2 ^ 29 % 8 == 0
         then some (8 + off / 2 ^ 32 % 2) else none
  | _ => none

/-- The hub whose checker meets an access, backed or not (R311, log entry 12). -/
def State.hubFor (s : State) (space off : Nat) : Nat :=
  match s.hubOf space off with
  | some h => h
  | none =>
    match space with
    | 0 => if off < 0x3000000000 then 8 else 9
    | 1 => if off < s.farBytes / 2 then 8 else 9
    | 2 => if off / 2 ^ 42 < 2 then 8 else 9
    | _ => 8

/-- The first offset a hub controls in a space (R308). -/
def State.firstOff (s : State) (hub space : Nat) : Nat :=
  if hub = 8 then 0 else match space with
    | 0 => 0x3000000000
    | 1 => s.farBytes / 2
    | _ => 2 * 2 ^ 42

/-! ## Lines of the last-level memory (R320 to R323) -/

/-- The last-level memory of a hub. -/
def State.llm (s : State) (hub : Nat) : Llm := (s.llms[hub - 8]?).getD { cache := false, switching := none, off := false, lines := [] }

/-- The state with a hub's last-level memory changed. -/
def State.setLlm (s : State) (hub : Nat) (f : Llm → Llm) : State := { s with llms := modNth s.llms (hub - 8) f }

/-- The number of ways in a mask. -/
def popcount (n : Nat) : Nat := ((List.range 32).filter (fun i => n.testBit i)).length

/-- The number that stands for the mortar share among the partitions that hold lines (R248, R323). -/
def mortarPart : Nat := 16

/-- The way mask that applies to an access: a partition's, or the mortar slots' (R323). -/
def State.ways (s : State) (hub part : Nat) : Nat :=
  if part = mortarPart then s.cfg (dieAt hub) .llmMortarWays 0 32 else s.cfg (dieAt hub) (.llmWays part) 0 32

/-- The hint in force: a way mask of 0 makes every access STREAM, and a KEEP that finds half its ways kept is NORMAL (R321, R323); slots of a
mortar unit then go to near memory directly, as a STREAM access does (R248).
The truth value tells a demotion. A way holds 196,608 lines (R320). -/
def State.hintFor (s : State) (hub part hint : Nat) : Nat × Bool :=
  let w := s.ways hub part
  if w = 0 then (1, false)
  else if hint = 2 then
    let kept := ((s.llm hub).lines.filter (fun l => l.kept && l.part == part)).length
    if kept ≥ popcount w * 98304 then (if part = mortarPart then 1 else 0, true) else (2, false)
  else (hint, false)

/-- A line's record with a change, or a new record. -/
def touchLine (ls : List LlmLine) (line part : Nat) (old : Bytes) (dirty kept : Bool) : List LlmLine :=
  match ls.find? (fun l => l.line == line) with
  | some _ => ls.map (fun l => if l.line == line then
      { l with kept := l.kept || kept, behind := if l.dirty then l.behind else old, dirty := l.dirty || dirty } else l)
  | none => { line := line, part := part, kept := kept, dirty := dirty, behind := old } :: ls

/-- What a write of bytes within one line does to the line's record in cache mode (R321): a STREAM or LAST write updates a present
line and allocates none; the others allocate the line dirty. -/
def State.noteWrite (s : State) (hub part hint key : Nat) : State :=
  if !(s.llm hub).cache then s else
  let (h, dem) := s.hintFor hub part hint
  let s := if dem then (s.setBits (dieAt hub) .llmStatus 4).raise hub srcLlm else s
  let line := key / 64
  let here := (s.llm hub).lines.any (fun l => l.line == line)
  if (h = 1 || h = 3) && !here then s
  else s.setLlm hub (fun m => { m with lines := touchLine m.lines line part (memRead s.mem (line * 64) 64) true (h == 2) })

/-- What a read of a line does to its record in cache mode (R321, R322): KEEP keeps it; LAST returns the data and then drops the
line without write-back, which leaves in memory either the value last written or the older one behind it: a free choice. -/
def State.noteRead (s : State) (hub part hint key : Nat) : State :=
  if !(s.llm hub).cache then s else
  let (h, dem) := s.hintFor hub part hint
  let s := if dem then (s.setBits (dieAt hub) .llmStatus 4).raise hub srcLlm else s
  let line := key / 64
  if h = 2 then s.setLlm hub (fun m => { m with lines := touchLine m.lines line part [] false true })
  else if h = 3 then
    match (s.llm hub).lines.find? (fun l => l.line == line) with
    | none => s
    | some l =>
      let s := s.setLlm hub (fun m => { m with lines := m.lines.filter (fun x => x.line != line) })
      if l.dirty then
        let (back, s) := s.drawBool
        if back then { s with mem := memWrite s.mem (line * 64) l.behind } else s
      else s
  else s

/-- Lines dropped after write-back, so that memory keeps the last value (R322). -/
def State.dropLines (s : State) (hub : Nat) (p : LlmLine → Bool) : State :=
  s.setLlm hub (fun m => { m with lines := m.lines.filter (fun l => !p l) })

/-- Kept lines released; a dirty one is written back (R322). -/
def State.releaseKept (s : State) (hub : Nat) (p : LlmLine → Bool) : State :=
  let stays := fun (l : LlmLine) => !(p l && l.kept && !l.dirty)
  let free := fun (l : LlmLine) => if p l then { l with kept := false } else l
  s.setLlm hub (fun m => { m with lines := (m.lines.filter stays).map free })

/-! ## Counters (R50, R54) -/

/-- A counter of a unit rises; it never wraps (R50). -/
def State.count (s : State) (cls die idx c n : Nat) : State :=
  let is := fun (k : Counter) => k.unit.cls == cls && k.unit.die == die && k.unit.idx == idx && k.idx == c
  if s.counters.any is then { s with counters := s.counters.map (fun k => if is k then { k with val := min (k.val + n) (2 ^ 64 - 1) } else k) }
  else { s with counters := s.counters ++ [{ unit := { cls := cls, die := die, idx := idx }, idx := c, val := min n (2 ^ 64 - 1) }] }

/-- One of a mortar unit's counters; which of the hub's four units receives a chunk is open (R54, log entry 3). -/
def State.countUnit (s : State) (hub c : Nat) : State :=
  let (u, s) := s.draw
  s.count 6 hub (u % 4) c 1

/-- A counter's value. -/
def State.counter (s : State) (u : UnitId) (c : Nat) : Nat :=
  match s.counters.find? (fun k => k.unit == u && k.idx == c) with
  | some k => k.val
  | none => 0

/-! ## Lintel packets on their way out (R345 to R348) -/

/-- The bytes of a packet that the meters count (R351). -/
def payloadBytes : Body → Nat
  | .accumulate p => p.payload.length
  | .readCompletion _ _ d _ => d.length
  | .write _ _ d => d.length
  | .faultReport d => d.length
  | _ => 0

/-- The bytes after the route header, as the model counts them: the type's own header and the payload (R345, R252). -/
def bodyBytes : Body → Nat
  | .accumulate p => 32 + p.payload.length
  | .accumulateReply _ _ _ _ _ => 16
  | .leaseRequest _ => 48
  | .leaseReply _ _ => 32
  | .readRequest _ _ _ => 16
  | .readCompletion _ _ d _ => 16 + d.length
  | .write _ _ d => 16 + d.length
  | .writeReply _ _ => 8
  | .plumbSync _ => 32
  | .heartbeat _ _ => 4
  | .wake => 1
  | .faultReport d => d.length
  | .mirrorMark _ _ _ => 16
  | .session d => d.length
  | .reserved _ => 1

/-- A port. -/
def State.port (s : State) (n : Nat) : Port := (s.ports[n]?).getD Port.reset

/-- The state with a port changed. -/
def State.setPort (s : State) (n : Nat) (f : Port → Port) : State := { s with ports := modNth s.ports n f }

/-- Whether a port carries packets of a class (R352, R354): UP and DEGRADED carry all traffic, HAIRLINE class 6 only; until the
control cores watch queues every port carries class 6 only (R417). -/
def State.carriesClass (s : State) (n cls : Nat) : Bool :=
  match (s.port n).st with
  | .up | .degraded => s.sec.watching || cls == 6
  | .hairline => cls == 6
  | _ => false

/-- Whether a port takes a packet to send: with 64 frames unacknowledged it sends no new one (R343). -/
def State.usable (s : State) (n cls : Nat) : Bool := decide ((s.port n).held.length < 64) && s.carriesClass n cls

/-- The ports a hub's route table lists for a package (R346). -/
def State.routePorts (s : State) (hub pkg : Nat) : List Nat :=
  let e := s.live' (dieAt hub) (.lnkRoute pkg)
  ((List.range (min 4 (fld e 20 3))).map (fun i => fld e (5 * i) 5)).filter (· < 30)

/-- A flow's meters, or a new pool entry for it; an exhausted port or pool counts under flow 4095 (R348). -/
def State.meter (s : State) (port remote : Nat) (job : BitVec 16) (cls sent received : Nat) : State :=
  let hub := portHub port
  let is := fun (f : Flow) => f.hub == hub && f.port == port && f.remote == remote && f.job == job && f.cls == cls && f.number != 4095
  if s.flows.any is then
    { s with flows := s.flows.map (fun f => if is f then { f with sent := f.sent + sent, received := f.received + received } else f) }
  else
    let mine := (s.flows.filter (fun f => f.port == port && f.number != 4095)).length
    if mine < 4095 && decide ((s.flows.filter (fun f => f.hub == hub)).length < 32768) then
      { s with flows := s.flows ++ [{ hub := hub, port := port, remote := remote, job := job, cls := cls, number := mine,
                                      sent := sent, received := received }] }
    else
      let s := s.setBits (dieAt hub) .lnkFlows 0x10000
      let isFull := fun (f : Flow) => f.port == port && f.number == 4095
      if s.flows.any isFull then
        { s with flows := s.flows.map (fun f => if isFull f then { f with sent := f.sent + sent, received := f.received + received } else f) }
      else { s with flows := s.flows ++ [{ hub := hub, port := port, remote := 0, job := 0#16, cls := 0, number := 4095,
                                           sent := sent, received := received }] }

/-- The body bytes of a flit and of a frame's 31 data flits (R341). -/
def flitBytes : Nat := 656
def frameBytes : Nat := 31 * flitBytes

/-- The lanes that carry flits: the hairline lane alone in HAIRLINE, else the active ones (R354, R359). -/
def Port.lanes (x : Port) : List Nat := if x.st = .hairline then [x.hair] else (List.range 8).filter (fun i => x.active.getLsbD i)

/-- Flits of a kind leave a port: each takes the next FSEQ and the next active lane in rotation (R342). -/
def Port.deal (x : Port) (kind : BitVec 4) (starts : List (BitVec 12)) : List FlitHead × Port :=
  let ls := x.lanes
  ((List.range starts.length).map (fun i => { lane := (ls[(x.txLane + i) % ls.length]?).getD 0, fseq := x.txSeq + BitVec.ofNat 16 i, kind := kind,
                                              start := (starts[i]?).getD 0xFFF#12 }),
   { x with txSeq := x.txSeq + BitVec.ofNat 16 starts.length, txLane := if ls.length = 0 then 0 else (x.txLane + starts.length) % ls.length })

/-- A full frame is closed by its seal flit, which acknowledges the last frame received intact and asks for one again (R343; log entry 45), and
is kept until it is acknowledged (R342, R343). -/
def Port.seal (x : Port) : Port :=
  let (data, x) := x.deal 0#4 x.txStarts
  let (close, x) := x.deal 1#4 [0xFFF#12]
  { x with txStarts := noStarts, txBytes := 0, txFrame := x.txFrame + 1#64,
           held := x.held ++ [{ number := x.txFrame, ack := x.rxFrame - 1#64, again := x.again, flits := data ++ close }] }

/-- A packet of `n` bytes follows the one before it in the body stream: the flit in which it begins takes its START, unless an earlier packet
begins there, and it may span flits and frames (R342). -/
def Port.fill (x : Port) (n : Nat) : Port :=
  let i := x.txBytes / flitBytes
  let x := { x with txStarts := modNth x.txStarts i (fun v => if v = 0xFFF#12 then BitVec.ofNat 12 (x.txBytes % flitBytes) else v) }
  if x.txBytes + n < frameBytes then { x with txBytes := x.txBytes + n }
  else { x.seal with txBytes := x.txBytes + n - frameBytes }

/-- A packet leaves through a port as it stands. A frame closes when its 31 data flits of 656 bytes are full (R341 to R343; log entry 37). -/
def State.passOn (s : State) (port : Nat) (p : Packet) : State :=
  let s := (s.meter port p.dest p.job p.cls (payloadBytes p.body) 0).count 5 (portHub port) port 0 (payloadBytes p.body)
  let s := s.setPort port (fun x => x.fill (16 + p.length))
  { s with sentOut := s.sentOut ++ [(port, p)] }

/-- A remote accumulate packet that leaves for the first time takes its SEND_STAMP, which its later copies keep (R252, R254). -/
def State.stampSend (s : State) (hub : Nat) (p : Packet) : Packet × State :=
  match p.body with
  | .accumulate a =>
    match s.sends.find? (fun x => !x.left && x.packet == a) with
    | some x =>
      let a := { a with stamp := (s.dieNow hub).truncate 40 }
      ({ p with body := .accumulate a }, { s with sends := s.sends.map (fun z => if z.tag == x.tag then { z with packet := a, left := true } else z) })
    | none => (p, s)
  | _ => (p, s)

/-- A packet of this package's own leaves through a port with its send stamp (R42, R345). -/
def State.sendOn (s : State) (port : Nat) (p : Packet) : State :=
  let (p, s) := s.stampSend (portHub port) p
  s.passOn port { p with stamp := (s.dieNow (portHub port)).truncate 40, length := bodyBytes p.body }

/-- The port a flow takes among usable ones: the one it took before while that stays usable, else one that a free hash picks (R346). -/
def State.choosePort (s : State) (ports : List Nat) (p : Packet) : Option Nat × State :=
  let ok := ports.filter (fun n => s.usable n p.cls)
  match s.flows.find? (fun f => ok.contains f.port && f.remote == p.dest && f.job == p.job && f.cls == p.cls) with
  | some f => (some f.port, s)
  | none =>
    match ok with
    | [] => (none, s)
    | [n] => (some n, s)
    | _ =>
      let (h, s) := s.draw
      (ok[h % ok.length]?, s)

/-- A packet goes out by a hub's route table: through `go` on the port it takes, or it waits without a usable one (R346). A packet that
waits already is not queued again (R353). -/
def State.routeBy (s : State) (hub : Nat) (p : Packet) (go : State → Nat → Packet → State) : State :=
  match s.choosePort (s.routePorts hub p.dest) p with
  | (some n, s) => go s n p
  | (none, s) =>
    if s.routeWait.any (fun w => w.hub == hub && w.packet == p) then s
    else { s with routeWait := s.routeWait ++ [{ hub := hub, packet := p, since := s.plumb.now }] }

/-- A packet of this package's own sent by a hub through its route table (R346). -/
def State.sendBy (s : State) (hub : Nat) (p : Packet) : State := s.routeBy hub p State.sendOn

/-- The three partner ports of a hub (R5). -/
def partnerPorts (hub : Nat) : List Nat := if hub = 8 then [12, 13, 14] else [27, 28, 29]

/-- Whether a packet belongs to a mirror range: tags from 2^31 name one (log entry 38). -/
def isMirror : Body → Bool
  | .write _ tag _ => decide (tag ≥ 2 ^ 31)
  | .mirrorMark _ _ _ => true
  | _ => false

/-- A packet that has waited leaves through a port: one of this package's own takes its send stamp as its first flit leaves (R41, R252). -/
def State.letGo (s : State) (port : Nat) (p : Packet) : State := if p.src = s.sec.pkg then s.sendOn port p else s.passOn port p

/-- Whether a packet belongs to a flow of a port's round-robin (R348, R350). -/
def FlowTurn.has (f : FlowTurn) (p : Packet) : Bool := f.remote == p.dest && f.job == p.job && f.cls == p.cls

/-- The quantum of a flow's turn in bytes (R350). -/
def quantum : Nat := 2048

/-- The turns of a port with a packet ready: those it has, in order, then the flows that have become ready, each credited with its first
quantum (R350). -/
def turnsFor (ts : List FlowTurn) (l : List RouteWait) : List FlowTurn :=
  l.foldl (fun ts w => if ts.any (fun f => f.has w.packet) then ts
    else ts ++ [{ remote := w.packet.dest, job := w.packet.job, cls := w.packet.cls, deficit := quantum }])
    (ts.filter (fun f => l.any (fun w => f.has w.packet)))

/-- The ready packets of a port leave while it takes them: class 6 first, in the order they became ready, then the other flows by deficit
round-robin (R350); what the port does not take waits on. `fuel` bounds the turns. -/
def State.arbitrate (n : Nat) : Nat → List RouteWait → State → State
  | 0, l, s => { s with routeWait := s.routeWait ++ l }
  | fuel + 1, l, s =>
    match l.find? (fun w => w.packet.cls == 6) with
    | some w =>
      if s.usable n 6 then State.arbitrate n fuel (dropFirst (· == w) l) (s.letGo n w.packet)
      else { s with routeWait := s.routeWait ++ l }
    | none =>
      match turnsFor (s.port n).turns l with
      | [] => s.setPort n (fun x => { x with turns := [] })
      | f :: rest =>
        match l.find? (fun w => f.has w.packet) with
        | none => { s with routeWait := s.routeWait ++ l }
        | some w =>
          if !s.usable n w.packet.cls then { s.setPort n (fun x => { x with turns := f :: rest }) with routeWait := s.routeWait ++ l }
          else
            let len := 16 + bodyBytes w.packet.body
            if len ≤ f.deficit then
              let s := s.setPort n (fun x => { x with turns := { f with deficit := f.deficit - len } :: rest })
              State.arbitrate n fuel (dropFirst (· == w) l) (s.letGo n w.packet)
            else
              State.arbitrate n fuel l (s.setPort n (fun x => { x with turns := rest ++ [{ f with deficit := f.deficit + quantum }] }))

/-- The waiting packets tried again, once a port has become usable: each takes its port in the order it became ready (R346), and each port
then serves its own by R350. -/
def State.routeAgain (s : State) : State :=
  let x := s.routeWait.foldl (fun (x : List (Nat × RouteWait) × State) w =>
    let ports := if w.packet.src == x.2.sec.pkg && isMirror w.packet.body then partnerPorts w.hub else x.2.routePorts w.hub w.packet.dest
    match x.2.choosePort ports w.packet with
    | (some n, s) => (x.1 ++ [(n, w)], s)
    | (none, s) => (x.1, { s with routeWait := s.routeWait ++ [w] })) (([] : List (Nat × RouteWait)), { s with routeWait := [] })
  ((x.1.map Prod.fst).eraseDups).foldl (fun s n =>
    let mine := (x.1.filter (fun e => e.1 == n)).map Prod.snd
    State.arbitrate n (4 * mine.length * mine.length + 4) mine s) x.2

/-- A packet of this package's own with a full TTL (R345). -/
def State.packet (s : State) (dest cls : Nat) (job : BitVec 16) (body : Body) : Packet :=
  { dest := dest, cls := cls, src := s.sec.pkg, ttl := 16, length := bodyBytes body, job := job, stamp := 0#40, body := body }

/-- The number under which the die-to-die links stand beside the Lintel ports (R252). -/
def localPort : Nat := 30

/-- A packet sent by a hub: to this package over the die-to-die links, else by its route table (R238, R252). -/
def State.sendTo (s : State) (hub : Nat) (p : Packet) : State :=
  if p.dest = s.sec.pkg then
    let (p, s) := s.stampSend hub p
    { s with sentOut := s.sentOut ++ [(localPort, { p with stamp := (s.dieNow hub).truncate 40, length := bodyBytes p.body })] }
  else s.sendBy hub p

/-- Whether two packets on the die-to-die links go from one source to one address: accumulates of a source to one chunk's slots, requests
of a context for one home region, and the answers to them (R23, R252). -/
def sameWay : Body → Body → Bool
  | .accumulate a, .accumulate b => a.red == b.red && a.source == b.source && a.seq == b.seq
  | .accumulateReply r _ c q _, .accumulateReply r' _ c' q' _ => r == r' && c == c' && q == q'
  | .leaseRequest a, .leaseRequest b => a.home == b.home && a.ctx == b.ctx
  | .leaseReply t _, .leaseReply t' _ => t == t'
  | _, _ => false

/-- A packet to this package taken off the die-to-die links: accesses of one source to one address arrive in the order in which they were
issued (R23), so none when it is not on its way or an earlier one is. -/
def State.takeLocal (s : State) (b : Body) : Option State :=
  let p := fun (e : Nat × Packet) => e.1 == localPort && sameWay e.2.body b
  if ((s.sentOut.find? p).map (fun e => e.2.body)) = some b then some { s with sentOut := dropFirst p s.sentOut } else none

/-- Whether a hub's permit table lets packets of a job leave (SEND, bit 1) or come in from a package (RECV, bit 2) (R256). -/
def State.maySend (s : State) (hub : Nat) (job : BitVec 16) : Bool :=
  job != 0#16 && (List.range 256).any (fun p =>
    let v := s.live' (dieAt hub) (.morPermit p)
    fld v 0 2 == 3 && fld v 16 16 == job.toNat)

def State.mayRecv (s : State) (hub : Nat) (job : BitVec 16) (origin : Nat) : Bool :=
  job != 0#16 && (List.range 256).any (fun p =>
    let v := s.live' (dieAt hub) (.morPermit p)
    fld v 0 1 == 1 && fld v 2 1 == 1 && fld v 16 16 == job.toNat && decide (fld v 32 13 ≤ origin) && decide (origin ≤ fld v 48 13))

/-- A new tag for a request. -/
def State.newTag (s : State) : Nat × State := (s.nextTag, { s with nextTag := (s.nextTag + 1) % 2 ^ 28 })

/-! ## The partner mirror on the way of a write (R458, R459) -/

/-- The tag of a mirrored write names its range (log entry 38). -/
def mirrorTag (n m : Nat) : Nat := 2 ^ 31 + 8 * n + m

/-- The state of a mirror range: 0 OFF, 1 MIRRORING, 2 BROKEN, 3 RESYNC (R461). -/
def State.mirSt (s : State) (hub m : Nat) : Nat := fld (s.reg (dieAt hub) (.mirOutState m)) 0 2

/-- A packet of a mirror range leaves on the hub's partner ports in one flow, or waits for one of them (R458, R459). -/
def State.mirrorSend (s : State) (hub m tag : Nat) (body : Body) (e : MirrorLine) : State :=
  let dst := s.live' (dieAt hub) (.mirDst m)
  let cls := if fld dst 48 3 ≥ 6 then 0 else fld dst 48 3
  let pkg := s.cfg (dieAt hub) (.lnkCtl (if hub = 8 then 12 else 27)) 3 13
  let p := s.packet pkg cls (BitVec.ofNat 16 (fld dst 32 16)) body
  let s : State := match s.choosePort (partnerPorts hub) p with
    | (some n, s) => s.sendOn n p
    | (none, s) => { s with routeWait := s.routeWait ++ [{ hub := hub, packet := p, since := s.plumb.now }] }
  { s with mirror := s.mirror ++ [{ e with tag := tag }] }

/-- Bytes within one line of a mirror range go to the partner as a WRITE packet (R458). -/
def State.mirrorBytes (s : State) (hub m off : Nat) (bs : Bytes) : State :=
  let src := s.live' (dieAt hub) (.mirSrc m)
  let dst := s.live' (dieAt hub) (.mirDst m)
  let pkg := s.cfg (dieAt hub) (.lnkCtl (if hub = 8 then 12 else 27)) 3 13
  let (n, s) := s.newTag
  let a := gAddr pkg 0 (off - fld src 0 27 * 2 ^ 21 + fld dst 0 27 * 2 ^ 21)
  s.mirrorSend hub m (mirrorTag n m) (.write a (mirrorTag n m) bs)
    { hub := hub, m := m, tag := 0, bytes := bs.length, lead := none, mark := none, acked := false }

/-- A write to a line of a range in MIRRORING or RESYNC follows to the partner (R458, R460). -/
def State.mirrorLine (s : State) (hub off : Nat) (bs : Bytes) : State :=
  if !s.twin then s else
  (List.range 8).foldl (fun s m =>
    let src := s.live' (dieAt hub) (.mirSrc m)
    let page := off / 2 ^ 21
    let st := s.mirSt hub m
    if fld src 63 1 = 1 && decide (fld src 0 27 ≤ page) && decide (page ≤ fld src 27 27) && (st == 1 || st == 3) then s.mirrorBytes hub m off bs
    else s) s

/-- The lines sent since the list had `n` entries belong to a command's output: its commit waits for those of a range that is mirroring
(R459). The ranges written are the answer. -/
def State.ownMirror (s : State) (n lead : Nat) : State × List (Nat × Nat) :=
  let new := s.mirror.drop n
  ({ s with mirror := s.mirror.take n ++ new.map (fun (e : MirrorLine) => if s.mirSt e.hub e.m == 1 then { e with lead := some lead } else e) },
   (new.map (fun e => (e.hub, e.m))).eraseDups)

/-- Whether a command's output still waits for the partner (R459). -/
def State.mirrorWaits (s : State) (lead : Nat) : Bool := s.mirror.any (fun e => e.lead == some lead)

/-- Step 8 of a commit: a mark with the commit stamp for each range that the command wrote to (R459). -/
def State.sendMarks (s : State) (l : List (Nat × Nat)) (stamp : BitVec 64) : State :=
  l.foldl (fun (s : State) x =>
    if s.mirSt x.1 x.2 = 1 ∨ s.mirSt x.1 x.2 = 3 then
      let (n, s) := s.newTag
      s.mirrorSend x.1 x.2 (mirrorTag n x.2) (.mirrorMark x.2 (mirrorTag n x.2) stamp)
        { hub := x.1, m := x.2, tag := 0, bytes := 0, lead := none, mark := some stamp, acked := false }
    else s) s

/-! ## Writes and reads performed at memory -/

/-- The pieces of a byte string within 64-byte lines, by offset (R311); `fuel` bounds the pieces. -/
def lineParts : Nat → Nat → Bytes → List (Nat × Bytes)
  | 0, _, _ => []
  | _ + 1, _, [] => []
  | fuel + 1, off, bs => (off, bs.take (64 - off % 64)) :: lineParts fuel (off + (64 - off % 64)) (bs.drop (64 - off % 64))

/-- The first byte of a shard's home region, and the one after its last (R244). -/
def Shard.lo (e : Shard) : Nat := fld e.base 16 32 * 2 ^ 16
def Shard.hi (e : Shard) : Nat := e.lo + fld e.size 0 24 * 2 ^ 16

/-- An entry is valid when it is marked so, is not empty, and lies in near memory that its hub controls (R235, R244). -/
def Shard.valid (e : Shard) : Bool :=
  fld e.cfg 0 1 == 1 && fld e.size 0 24 != 0
    && (if e.hub = 8 then decide (e.hi ≤ 0x3000000000) else decide (0x3000000000 ≤ e.lo) && decide (e.hi ≤ 0x6000000000))

/-- Of two valid entries that overlap, the lower-numbered acts (R244). -/
def State.shardActs (s : State) (e : Shard) : Bool :=
  e.valid && !(s.shards.any (fun x => x.hub == e.hub && decide (x.s < e.s) && x.valid && decide (x.lo < e.hi) && decide (e.lo < x.hi)))

/-- The acting shard-table entries whose home region holds a written byte take a version stamp (R235). -/
def State.stampShards (s : State) (hub off len : Nat) (stamp : BitVec 64) : State :=
  { s with shards := s.shards.map (fun e =>
      if e.hub == hub && s.shardActs e && decide (e.lo < off + len) && decide (off < e.hi) then { e with version := stamp } else e) }

/-- The first write to a page of far or CXL memory whose zero-map bit is set zeroes the page and clears the bit (R314). -/
def State.clearZeroBit (s : State) (space off : Nat) : State :=
  let page := memKey space off / 2 ^ 21
  if (space = 1 || space = 2) && !s.zeroClear.contains page then
    { s with zeroClear := page :: s.zeroClear, mem := memClear s.mem (page * 2 ^ 21) (2 ^ 21) }
  else s

/-- Ranges without the `n` keys from `a`. -/
def cutRanges (l : List (Nat × Nat)) (a n : Nat) : List (Nat × Nat) :=
  l.flatMap (fun r => if r.1 + r.2 ≤ a ∨ a + n ≤ r.1 then [r] else
    (if r.1 < a then [(r.1, a - r.1)] else []) ++ (if a + n < r.1 + r.2 then [(a + n, r.1 + r.2 - (a + n))] else []))

/-- Whether no rule gives the byte at a key a value. -/
def State.loose' (s : State) (key : Nat) : Bool := s.indet.any (fun r => decide (r.1 ≤ key) && decide (key < r.1 + r.2))

/-- Whether a key is an output of a command that has started and not written its record, other than that of queue `but` (R384). -/
def State.hidden (s : State) (but : Option (Nat × Nat)) (key : Nat) : Bool :=
  (List.range s.ctxs.length).any (fun c => match s.ctxs[c]? with
    | none => false
    | some x => (List.range x.queues.length).any (fun q => but != some (c, q) && match x.queues[q]? with
      | none => false
      | some y => y.hide.any (fun r => decide (r.1 ≤ key) && decide (key < r.1 + r.2))))

/-- Bytes of one line performed at memory: hint, zero map, poison (a full line clears it, R318), value, version and mirror. -/
def State.writeLine (s : State) (hub part hint space off : Nat) (bs : Bytes) (stamp : BitVec 64) : State :=
  let key := memKey space off
  let s := s.noteWrite hub part hint key
  let s := s.clearZeroBit space off
  let s := { s with mem := memWrite s.mem key bs,
                    poison := if bs.length = 64 then s.poison.filter (· != key / 64) else s.poison,
                    indet := cutRanges s.indet key bs.length }
  if space = 0 then (s.stampShards hub off bs.length stamp).mirrorLine hub off bs else s

/-- A byte string performed at memory in ascending lines (R311, R363); bytes that nothing backs are dropped. -/
def State.store (s : State) (part hint space off : Nat) (bs : Bytes) (stamp : BitVec 64) : State :=
  (lineParts (bs.length + 1) off bs).foldl (fun s (o, b) =>
    match s.hubOf space o with
    | some h => s.writeLine h part hint space o b stamp
    | none => s) s

/-- The bytes a reader other than the writing command sees: a byte that R384 leaves indeterminate is a free value. -/
def State.load (s : State) (space off len : Nat) : Bytes :=
  (List.range len).map (fun i =>
    let k := memKey space (off + i)
    if s.loose' k || s.hidden none k then Config.freeByte s.fresh k else memGet s.mem k)

/-- Whether any line of a range carries a poison mark (R318). -/
def State.poisoned (s : State) (space off len : Nat) : Bool :=
  len != 0 && s.poison.any (fun l => decide (memKey space off / 64 ≤ l) && decide (l ≤ memKey space (off + len - 1) / 64))

/-- A read passes the last-level memory with its hint (R321). -/
def State.readHint (s : State) (part hint space off len : Nat) : State :=
  if hint = 0 || hint = 1 then s else
  (List.range (ceilDiv (off % 64 + len) 64)).foldl (fun s i =>
    let o := off - off % 64 + 64 * i
    match s.hubOf space o with
    | some h => s.noteRead h part hint (memKey space o)
    | none => s) s

/-! ## Page permissions (R325 to R328) -/

/-- Where the permission entry of a page lies in near memory (R326). -/
def State.entryOff (s : State) (hub space off : Nat) : Nat :=
  let sub := match space with
    | 0 => 0
    | 1 => 0x100000
    | _ => 0x300000
  s.cfg (dieAt hub) .prtTableBase 21 27 * 2 ^ 21 + sub + 2 * ((off - s.firstOff hub space) / 2 ^ 21)

/-- Whether a near offset lies in a hub's permission table, whose pages are 6 of 2 MiB (R326). -/
def State.inTable (s : State) (hub space off : Nat) : Bool :=
  let b := s.cfg (dieAt hub) .prtTableBase 21 27
  space == 0 && decide (b ≤ off / 2 ^ 21) && decide (off / 2 ^ 21 < b + 6)

/-- The permission entry of a page; the table's own pages carry partition 0 with R set and W clear (R326). -/
def State.entry (s : State) (space off : Nat) : Nat :=
  match s.hubOf space off with
  | none => 0
  | some hub => if s.inTable hub space off then 0x8010 else leNat (memRead s.mem (memKey 0 (s.entryOff hub space off)) 2)

/-- Step 2 of R327: the page lies in the partition's window, which is valid. -/
def State.inWindow (s : State) (hub p space page : Nat) : Bool :=
  let w := s.live' (dieAt hub) (.prtWin p space)
  fld w 63 1 == 1 && decide (fld w 0 27 ≤ page) && decide (page ≤ fld w 27 27)

/-- Steps 1 to 3 of R327 for one page: `host` takes HOST_R and HOST_W in place of step 3 (R362). -/
def State.pageOk (s : State) (host : Bool) (p : Nat) (wr : Bool) (space off : Nat) : Bool :=
  match s.hubOf space off with
  | none => false
  | some hub =>
    if space = 3 then false else
    let e := s.entry space off
    let p := if host then e % 16 else p
    s.inWindow hub p space (off / 2 ^ 21) && (
      if host then e.testBit 15 && e.testBit (if wr then 7 else 6)
      else e.testBit 15 && ((e % 16 == p && e.testBit (if wr then 5 else 4))
        || (bitsOf e 8 4 == p && e.testBit (if wr then 13 else 12))))

/-- The offsets at which a range meets its pages, and its last byte. -/
def pageStarts (off len : Nat) : List Nat :=
  if len = 0 then [] else
  off :: (off + len - 1) :: (List.range ((off + len - 1) / 2 ^ 21 - off / 2 ^ 21)).map (fun i => (off / 2 ^ 21 + 1 + i) * 2 ^ 21)

/-- Whether an access by partition `p`, or by the host, to a range is allowed (R327). -/
def State.allowed (s : State) (host : Bool) (p : Nat) (wr : Bool) (space off len : Nat) : Bool :=
  (pageStarts off len).all (fun o => s.pageOk host p wr space o)

/-- The partition of a context (R325, R340). -/
def State.ctxPart (s : State) (c : Nat) : Nat := s.cfg (dieAt 8) (.prtCtxMap (c / 16)) (4 * (c % 16)) 4

/-- The partition a remote access of a job is checked as: the lowest that names the job, where its REMOTE_R or REMOTE_W allows the
access (R328, log entry 43). -/
def State.jobPart (s : State) (hub : Nat) (job : BitVec 16) (wr : Bool) : Option Nat :=
  if job = 0#16 then none else
  ((List.range 16).find? (fun p => s.cfg (dieAt hub) (.prtJob p) 0 16 == job.toNat)).filter
    (fun q => (s.live' (dieAt hub) (.prtJob q)).getLsbD (if wr then 17 else 16))

/-- Whether a permission entry shares its page with a partition other than 0 (R326). -/
def sharesPage (e : Nat) : Bool := e.testBit 15 && bitsOf e 12 2 != 0 && bitsOf e 8 4 != 0

/-- A page lies in the owner's partition (R43, log entry 13). -/
def State.ownerPage (s : State) (space off : Nat) : Bool := (s.hubOf space off).isSome && s.entry space off % 16 == 0

/-- A configuration area of a hub lies in the owner's partition and in near memory that the hub controls (R246, R463). -/
def State.ownerArea (s : State) (hub off n : Nat) : Bool :=
  (pageStarts off n).all (fun o => s.ownerPage 0 o && s.hubOf 0 o == some hub)

/-! ## Ductus events (R43 to R48) -/

/-- The ring of a die. -/
def State.ring (s : State) (die : Nat) : Ring := (s.rings[die]?).getD { seq := 0#32, lost := 0, gap := false, held := [], flushed := false }

/-- The state with a die's ring changed. -/
def State.setRing (s : State) (die : Nat) (f : Ring → Ring) : State := { s with rings := modNth s.rings die f }

/-- A ring's length: LOG2_ENTRIES 12 to 24, other values act as 12 (R47). -/
def ringLog (n : Nat) : Nat := if 12 ≤ n ∧ n ≤ 24 then n else 12

/-- Whether the near memory of a hub has been trained (R336, R338). -/
def State.nearTrained (s : State) (hub : Nat) : Bool :=
  (List.range 4).all (fun k => fld (s.reg (dieAt hub) (.nmcStatus k)) 0 1 == 1)

/-- Where a die's ring starts in near memory, in force (R47). -/
def State.ringBase (s : State) (die : Nat) : Nat := s.cfg (dieAt (servingHub die)) (.ducBase die) 21 27 * 2 ^ 21

/-- A page whose entry shares it with a partition other than the owner's, so that a context could be granted access to it (R43, R326). -/
def State.sharedPage (s : State) (space off : Nat) : Bool := sharesPage (s.entry space off)

/-- Whether a die's events are written to its ring (R43, R47, R48; log entry 35); in S2 they are held (R451). -/
def State.ringOn (s : State) (die : Nat) : Bool :=
  s.power.st != .s2 && s.cfg (dieAt (servingHub die)) (.ducCtl die) 0 1 == 1 && s.nearTrained (servingHub die)
    && s.ownerPage 0 (s.ringBase die) && !s.sharedPage 0 (s.ringBase die) && s.hubOf 0 (s.ringBase die) == some (servingHub die)

/-- The 32 bytes of an event record (R44). -/
def eventBytes (e : Event) : Bytes :=
  leBytes 8 e.stamp.toNat ++ leBytes 4 e.seq.toNat ++ leBytes 1 e.die ++ leBytes 1 e.ctx ++ leBytes 2 e.kind ++ leBytes 2 e.unit
    ++ leBytes 1 e.status.toNat ++ leBytes 1 e.flags.toNat ++ sub e.payload 0 12

/-- An event lost: DUC_LOST rises, saturating, and the next record written carries LOST_BEFORE (R48). -/
def State.loseEvent (s : State) (die : Nat) : State :=
  (s.setRing die (fun r => { r with lost := min (r.lost + 1) 0xFFFFFFFF, gap := true })).raise (servingHub die) srcLost

/-- An event written to its slot under the mode in force, or lost (R48). -/
def State.writeEvent (s : State) (die : Nat) (e : Event) : State :=
  let hub := servingHub die
  let log := ringLog (s.cfg (dieAt hub) (.ducSize die) 0 5)
  let off := s.ringBase die + 32 * (e.seq.toNat % 2 ^ log)
  let old := memRead s.mem (memKey 0 off) 32
  let ahead := (num old 8 4 + 2 ^ 32 - fld (s.reg (dieAt hub) (.ducTail die)) 0 32) % 2 ^ 32
  if s.cfg (dieAt hub) (.ducCtl die) 1 1 == 1 && num old 14 2 != 0 && num old 12 1 == die && decide (ahead < 2 ^ 31) then s.loseEvent die
  else
    let e := if (s.ring die).gap then { e with flags := e.flags ||| 2#8 } else e
    (s.setRing die (fun r => { r with gap := false })).store 0 0 0 off (eventBytes e) (s.dieNow hub)

/-- The held events of a die written in sequence order, once its ring is on (R48, R451). -/
def State.flushHeld (s : State) (die : Nat) : State :=
  if (!(s.ring die).flushed || !(s.ring die).held.isEmpty) && s.ringOn die then
    let held := (s.ring die).held
    held.foldl (fun s e => s.writeEvent die e) (s.setRing die (fun r => { r with held := [], flushed := true }))
  else s

/-- The pending ring settings of a die come into force (R47); a base outside the owner's partition records a violation in the
hub's own ring, which the caller passes as an event (R43). -/
def State.ringForce (s : State) (die : Nat) : State := s.force (dieAt (servingHub die)) (.duc die)

/-- An event in a die's ring: it takes a sequence number and is held, written or lost (R46, R48); in S2 it is held (R451). FLAGS bit 0 LATE
is free, for the spec gives no condition for it (log entry 88). -/
def State.event (s : State) (die kind ctx unit : Nat) (status : BitVec 8) (payload : Bytes) : State :=
  let s := (s.ringForce die).flushHeld die
  let r := s.ring die
  let e : Event := { stamp := s.dieNow die, seq := r.seq, die := die, ctx := ctx, kind := kind, unit := unit, status := status,
                     flags := BitVec.ofNat 8 (b2n (Config.lateEvent die kind r.seq.toNat)) ||| (if s.plumb.st == .locked then 0#8 else 4#8),
                     payload := payload }
  let s := s.setRing die (fun r => { r with seq := r.seq + 1#32 })
  if !r.flushed || s.power.st == .s2 then
    if r.held.length < (if s.power.st = .s2 then 1024 else 4096) then
      s.setRing die (fun r => { r with held := r.held ++ [if r.gap then { e with flags := e.flags ||| 2#8 } else e], gap := false })
    else s.loseEvent die
  else if s.ringOn die then s.writeEvent die e
  else s.loseEvent die

/-- The code of R45 for each kind of event. -/
def kRegFault : Nat := 0x0001
def kKilled : Nat := 0x0010
def kFailed : Nat := 0x0011
def kRerun : Nat := 0x0012
def kTornDown : Nat := 0x0013
def kBlot : Nat := 0x0020
def kRetired : Nat := 0x0021
def kLaneDropped : Nat := 0x0030
def kRetrained : Nat := 0x0031
def kAuthFailed : Nat := 0x0032
def kPlumbState : Nat := 0x0040
def kPlumbStep : Nat := 0x0041
def kLatched : Nat := 0x0050
def kDumped : Nat := 0x0051
def kSupply : Nat := 0x0060
def kMediaStopped : Nat := 0x0070
def kViolation : Nat := 0x0080
def kCorrected : Nat := 0x0090

/-- An event that belongs to no context (R44). -/
def noCtx : Nat := 0xFF

/-- A failed partition check: PRT_FAULT of the checking hub, its event source, and a PARTITION_VIOLATION event in its ring
(R327, R328, R45). `p` none: no partition matched. -/
def State.violate (s : State) (unit ctx : Nat) (p : Option Nat) (space off : Nat) : State :=
  let hub := s.hubFor space off
  let v := BitVec.ofNat 64 (off % 2 ^ 48 + (space % 8) * 2 ^ 48 + (p.getD 0) * 2 ^ 51 + 2 ^ 55 + (if p.isNone then 2 ^ 56 else 0))
  let s := (s.setReg (dieAt hub) .prtFault v).raise hub srcPrtFault
  s.event hub kViolation ctx unit 0#8 (leBytes 6 off ++ leBytes 1 space ++ leBytes 1 (p.getD 0xFF))

/-- A hub's check of a configuration area that lies outside the owner's partition, in that hub's own ring (R463). -/
def State.violateArea (s : State) (hub off : Nat) : State :=
  let v := BitVec.ofNat 64 (off % 2 ^ 48 + 2 ^ 55)
  let s := (s.setReg (dieAt hub) .prtFault v).raise hub srcPrtFault
  s.event hub kViolation noCtx 0xFFFF 0#8 (leBytes 6 off ++ [0#8, 0#8])

end Sys2Proof.Machine
end

