-- ==== Sys2Proof/Machine/Events.lean ====
section
/-! DEFINITION. The event controller of each hub (R401 to R405): which source a control core may claim, claim, completion and software
sources. -/

namespace Sys2Proof.Machine

/-- PRIORITY, TARGET, pending, enable and active of a source (R402). -/
def State.evtPrio (s : State) (hub n : Nat) : Nat := fld (s.reg (dieAt hub) (.evtPriority n)) 0 4
def State.evtTarget (s : State) (hub n : Nat) : Nat := fld (s.reg (dieAt hub) (.evtPriority n)) 4 2
def State.evtIsPending (s : State) (hub n : Nat) : Bool := (s.reg (dieAt hub) (.evtPending (n / 64))).getLsbD (n % 64)
def State.evtIsEnabled (s : State) (hub n : Nat) : Bool := (s.reg (dieAt hub) (.evtEnable (n / 64))).getLsbD (n % 64)
def State.evtIsActive (s : State) (hub n : Nat) : Bool := s.claims.any (fun c => c.hub == hub && c.source == n)

/-- Whether core `k` may claim a source (R403). -/
def State.claimable (s : State) (hub k n : Nat) : Bool :=
  s.evtIsPending hub n && s.evtIsEnabled hub n && !s.evtIsActive hub n && s.evtTarget hub n == k
    && decide (s.evtPrio hub n > fld (s.reg (dieAt hub) (.evtThreshold k)) 0 4)

/-- A control core's external interrupt request (R403), and what lets a waiting core resume (R405). -/
def State.interrupt (s : State) (hub k : Nat) : Bool := (List.range 1024).any (s.claimable hub k)
def State.resumes (s : State) (hub k : Nat) : Bool :=
  (List.range 1024).any (fun n => s.evtIsPending hub n && s.evtIsEnabled hub n && s.evtTarget hub n == k)

/-- The claimable source of highest priority, the lowest number among equals; 0 for none (R403). -/
def State.bestSource (s : State) (hub k : Nat) : Nat :=
  (List.range 1024).foldl (fun best n =>
    if s.claimable hub k n && (best == 0 || decide (s.evtPrio hub n > s.evtPrio hub best)) then n else best) 0

/-- A read of EVT_CLAIM[k] (R403). -/
def State.claimAt (s : State) (hub k : Nat) : Nat × State :=
  let n := s.bestSource hub k
  if n = 0 then (0, s) else
  let s := s.setReg (dieAt hub) (.evtPending (n / 64)) (s.reg (dieAt hub) (.evtPending (n / 64)) &&& ~~~(BitVec.ofNat 64 (2 ^ (n % 64))))
  (n, { s with claims := s.claims ++ [{ hub := hub, source := n, core := k }] })

/-- A write to EVT_COMPLETE[k] (R403). -/
def State.completeAt (s : State) (hub k n : Nat) : State :=
  { s with claims := s.claims.filter (fun c => !(c.hub == hub && c.source == n && c.core == k)) }

/-- A write to EVT_RAISE: numbers other than software sources are discarded (R402). -/
def State.raiseAt (s : State) (hub n : Nat) : State := if 768 ≤ n ∧ n ≤ 1023 then s.raise hub n else s

/-- EVT_CLAIM: the claim read by a control core. -/
def execEvtClaim (hub k : Nat) (s : State) : Host.Outcome State Fault Refusal :=
  onUnit (isHub hub && decide (k < 4)) "control core" s <|
    let (n, s) := s.claimAt hub k
    { s with readData := BitVec.ofNat 64 n }

/-- EVT_COMPLETE. -/
def execEvtComplete (hub k n : Nat) (s : State) : Host.Outcome State Fault Refusal :=
  onUnit (isHub hub && decide (k < 4)) "control core" s (s.completeAt hub k n)

/-- EVT_RAISE. -/
def execEvtRaise (hub n : Nat) (s : State) : Host.Outcome State Fault Refusal := onUnit (isHub hub) "hub" s (s.raiseAt hub n)

end Sys2Proof.Machine
end

