-- ==== Sys2Proof/Machine/Numbers.lean ====
section
/-! DEFINITION. Number formats, rounding and IEEE operations (R55 to R61, R73, R74, R78, R85, R86, R89, R92, R93). -/

namespace Sys2Proof.Machine

/-- The formats of R55 by their codes in descriptors (R135). -/
def fFp16 : Nat := 0
def fFp32 : Nat := 1
def fSfp16 : Nat := 2
def fExa : Nat := 3
def fInt16 : Nat := 4
def fInt32 : Nat := 5
def fUint8 : Nat := 6
def fUint16 : Nat := 7

/-- One element as an operation writes it: its code, and which counts of R94 it raises. -/
structure Res where
  bits : Nat
  ovf  : Bool
  unf  : Bool
  sat  : Bool
  inex : Bool
  deriving DecidableEq, Repr, Inhabited

/-- An element that raises no count. -/
def Res.of (n : Nat) : Res := { bits := n, ovf := false, unf := false, sat := false, inex := false }

/-- FP16 (`w` false) or FP32 (`w` true): mantissa bits, exponent maximum, bias (R57). -/
def mantBits (w : Bool) : Nat := if w then 23 else 10
def expMax (w : Bool) : Nat := if w then 255 else 31
def expBias (w : Bool) : Nat := if w then 127 else 15

/-- The canonical NaN (R58), an infinity and a zero of a format. -/
def nanBits (w : Bool) : Nat := if w then 0x7FC00000 else 0x7E00
def infBits (w neg : Bool) : Nat := (expMax w + if neg then expMax w + 1 else 0) * 2 ^ mantBits w
def zeroBits (w neg : Bool) : Nat := if neg then (expMax w + 1) * 2 ^ mantBits w else 0

/-- The value of an FP16 or FP32 code (R57, R58). -/
def fpOf (w : Bool) (n : Nat) : Fp :=
  let m := n % 2 ^ mantBits w
  let e := n / 2 ^ mantBits w % (expMax w + 1)
  let s := n / 2 ^ mantBits w / (expMax w + 1) % 2 == 1
  if e = expMax w then (if m = 0 then .inf s else .nan)
  else if e = 0 then .fin s m (1 - Int.ofNat (expBias w) - Int.ofNat (mantBits w))
  else .fin s (m + 2 ^ mantBits w) (Int.ofNat e - Int.ofNat (expBias w) - Int.ofNat (mantBits w))

/-- Whether a code is a NaN of its format. -/
def isNan (w : Bool) (n : Nat) : Bool := n / 2 ^ mantBits w % (expMax w + 1) == expMax w && n % 2 ^ mantBits w != 0

/-- Whether a code is an infinity of its format. -/
def isInf (w : Bool) (n : Nat) : Bool := n / 2 ^ mantBits w % (expMax w + 1) == expMax w && n % 2 ^ mantBits w == 0

/-- `m` shifted left by a signed number of places, bits below the point dropped. -/
def shl (m : Nat) (k : Int) : Nat := if 0 ≤ k then m * 2 ^ k.toNat else m / 2 ^ (-k).toNat

/-- The rounding of a positive magnitude `m` × 2^`wt` to `p` bits with least exponent `emin` (R73): the kept bits and their weight;
`u` is the word of stochastic rounding, absent for nearest even. -/
def roundMag (p : Nat) (emin : Int) (m : Nat) (wt : Int) (u : Option Nat) : Nat × Int :=
  let e := Int.ofNat m.log2 + wt
  let q := max e emin - (Int.ofNat p - 1)
  let sh := q - wt
  let t :=
    if sh ≤ 0 then m * 2 ^ (-sh).toNat
    else
      let k := sh.toNat
      let t := m / 2 ^ k
      let r := m % 2 ^ k
      match u with
      | none => if 2 * r > 2 ^ k || (2 * r == 2 ^ k && t % 2 == 1) then t + 1 else t
      | some u =>
        let f := if k ≤ 32 then r * 2 ^ (32 - k) else r / 2 ^ (k - 32)
        if f + u ≥ 2 ^ 32 then t + 1 else t
  if t = 2 ^ p then (t / 2, q + 1) else (t, q)

/-- The code of a rounded magnitude: infinity above the range, the zero `zed` when nothing is left (R73, R74, R85). -/
def encMag (w neg : Bool) (zed : Nat) (t : Nat) (q : Int) : Res :=
  let p := mantBits w + 1
  let emax := Int.ofNat (expBias w)
  if q + (Int.ofNat p - 1) > emax then { Res.of (infBits w neg) with ovf := true }
  else if t = 0 then { Res.of zed with unf := true }
  else if t < 2 ^ (p - 1) then Res.of (zeroBits w neg + t)
  else Res.of (zeroBits w neg + ((q + (Int.ofNat p - 1) + emax).toNat) * 2 ^ (p - 1) + (t - 2 ^ (p - 1)))

/-- A non-zero magnitude converted to FP16 or FP32 (R73); `keep` keeps the sign of a result that rounds to zero (R85). -/
def encode' (w keep neg : Bool) (m : Nat) (wt : Int) (u : Option Nat) : Res :=
  let r := roundMag (mantBits w + 1) (1 - Int.ofNat (expBias w)) m wt u
  encMag w neg (zeroBits w (keep && neg)) r.1 r.2

/-- A value rounded to nearest even, the sign of a zero kept (R85). -/
def encFp (w : Bool) : Fp → Res
  | .nan => Res.of (nanBits w)
  | .inf s => Res.of (infBits w s)
  | .fin s m e => if m = 0 then Res.of (zeroBits w s) else encode' w true s m e none

/-- The integer a finite value stands for in units of 2^`u`, when `u` is at most its exponent. -/
def fpInt (u : Int) (s : Bool) (m : Nat) (e : Int) : Int :=
  let v := Int.ofNat (m * 2 ^ (e - u).toNat)
  if s then -v else v

/-- The exact sum (R85): the zero of opposite operands is +0, of equal signs keeps the sign. -/
def fpAdd : Fp → Fp → Fp
  | .nan, _ => .nan
  | _, .nan => .nan
  | .inf a, .inf b => if a = b then .inf a else .nan
  | .inf a, _ => .inf a
  | _, .inf b => .inf b
  | .fin s m e, .fin t n f =>
    if m = 0 && n == 0 then .fin (s && t) 0 0
    else
      let u := min e f
      let v := fpInt u s m e + fpInt u t n f
      .fin (decide (v < 0)) v.natAbs u

/-- The negation of a value. -/
def fpNeg : Fp → Fp
  | .nan => .nan
  | .inf s => .inf (!s)
  | .fin s m e => .fin (!s) m e

/-- The exact product (R59, R85). -/
def fpMul : Fp → Fp → Fp
  | .nan, _ => .nan
  | _, .nan => .nan
  | .inf a, .inf b => .inf (a != b)
  | .inf a, .fin t n _ => if n = 0 then .nan else .inf (a != t)
  | .fin s m _, .inf b => if m = 0 then .nan else .inf (s != b)
  | .fin s m e, .fin t n f => .fin (s != t) (m * n) (e + f)

/-- The quotient with a sticky last bit, enough bits for one rounding to FP32 (R85). -/
def fpDiv : Fp → Fp → Fp
  | .nan, _ => .nan
  | _, .nan => .nan
  | .inf _, .inf _ => .nan
  | .inf a, .fin t _ _ => .inf (a != t)
  | .fin s _ _, .inf b => .fin (s != b) 0 0
  | .fin s m e, .fin t n f =>
    if n = 0 then (if m = 0 then .nan else .inf (s != t))
    else if m = 0 then .fin (s != t) 0 0
    else
      let k := 80 + n.log2
      let q := m * 2 ^ k / n
      let r := m * 2 ^ k % n
      .fin (s != t) (2 * q + b2n (r != 0)) (e - f - Int.ofNat k - 1)

/-- The integer square root, bit by bit from place `k` down. -/
def isqrtFrom : Nat → Nat → Nat → Nat
  | 0, n, r => if (r + 1) * (r + 1) ≤ n then r + 1 else r
  | k + 1, n, r => isqrtFrom k n (if (r + 2 ^ (k + 1)) * (r + 2 ^ (k + 1)) ≤ n then r + 2 ^ (k + 1) else r)

/-- The integer square root. -/
def isqrt (n : Nat) : Nat := isqrtFrom (n.log2 / 2 + 1) n 0

/-- The square root with a sticky last bit (R85). -/
def fpSqrt : Fp → Fp
  | .nan => .nan
  | .inf s => if s then .nan else .inf false
  | .fin s m e =>
    if m = 0 then .fin s 0 0
    else if s then .nan
    else
      let odd := e % 2 != 0
      let n := (if odd then 2 * m else m) * 2 ^ 128
      let f := ((if odd then e - 1 else e) - 128) / 2
      let r := isqrt n
      .fin false (2 * r + b2n (r * r != n)) (f - 1)

/-- An operation of FP32 or FP16 lanes (R85): FP16 lanes compute in FP32 and round once more. An overflow or an underflow of either
rounding counts. -/
def lane (w : Bool) (v : Fp) : Res :=
  let r := encFp true v
  if w then r
  else
    let h := encFp false (fpOf true r.bits)
    { h with ovf := h.ovf || r.ovf, unf := h.unf || r.unf }

/-- Whether `a` is less than `b` by IEEE comparison; false with a NaN (R86). -/
def fpLt : Fp → Fp → Bool
  | .nan, _ => false
  | _, .nan => false
  | .inf a, .inf b => a && !b
  | .inf a, _ => a
  | _, .inf b => !b
  | .fin s m e, .fin t n f =>
    let u := min e f
    decide (fpInt u s m e < fpInt u t n f)

/-- Whether two values are equal by IEEE comparison: −0 equals +0 (R86). -/
def fpEq (a b : Fp) : Bool :=
  match a, b with
  | .nan, _ => false
  | _, .nan => false
  | _, _ => !fpLt a b && !fpLt b a

/-- The sign of a value. -/
def fpSign : Fp → Bool
  | .nan => false
  | .inf s => s
  | .fin s _ _ => s

/-- Minimum and maximum: NaN with a NaN operand, −0 below +0 (R86). -/
def fpMin (a b : Fp) : Fp :=
  match a, b with
  | .nan, _ => .nan
  | _, .nan => .nan
  | _, _ => if fpLt a b then a else if fpLt b a then b else if fpSign a then a else b

def fpMax (a b : Fp) : Fp :=
  match a, b with
  | .nan, _ => .nan
  | _, .nan => .nan
  | _, _ => if fpLt a b then b else if fpLt b a then a else if fpSign a then b else a

/-- An integer as a value. -/
def fpOfInt (i : Int) : Fp := .fin (decide (i < 0)) i.natAbs 0

/-- An integer clamped to `w` bits of two's complement, and whether it saturated (R89 to R92). -/
def satInt (w : Nat) (i : Int) : Int × Bool :=
  if i < -(2 ^ (w - 1) : Int) then (-(2 ^ (w - 1) : Int), true)
  else if i > (2 ^ (w - 1) : Int) - 1 then ((2 ^ (w - 1) : Int) - 1, true)
  else (i, false)

/-- A floating value rounded to nearest even to an integer of `w` bits, saturating; NaN is 0 (R89). -/
def fpToInt (w : Nat) : Fp → Int × Bool
  | .nan => (0, false)
  | .inf s => (if s then -(2 ^ (w - 1) : Int) else (2 ^ (w - 1) : Int) - 1, true)
  | .fin s m e =>
    let r :=
      if 0 ≤ e then m * 2 ^ e.toNat
      else
        let k := (-e).toNat
        let t := m / 2 ^ k
        let r := m % 2 ^ k
        if 2 * r > 2 ^ k || (2 * r == 2 ^ k && t % 2 == 1) then t + 1 else t
    satInt w (if s then -(Int.ofNat r) else Int.ofNat r)

/-- Narrowing of an INT32 to INT16 with shift `s`, truncating or rounding half up (R92). -/
def narrow (s : Nat) (half : Bool) (v : Int) : Int × Bool :=
  satInt 16 ((v + if half && s != 0 then (2 ^ (s - 1) : Int) else 0) / (2 ^ s : Int))

/-- An input sample as INT16 (R93): UINT8 zero-extended, UINT16 above 32767 saturated. -/
def sample16 (wide : Bool) (n : Nat) : Int × Bool :=
  if wide && decide (n > 32767) then (32767, true) else (Int.ofNat n, false)

/-- An INT16 or INT32 code as a result. -/
def intRes (w : Nat) (r : Int × Bool) : Res := { Res.of (unsext w r.1) with sat := r.2 }

/-- Whether an FP32 scale is valid: a positive power of two with biased exponent 1 to 254 (R61). -/
def scaleOk (n : Nat) : Bool := n % 2 ^ 23 == 0 && decide (1 ≤ n / 2 ^ 23) && decide (n / 2 ^ 23 ≤ 254)

/-- The exponent of a valid scale (R61). -/
def scaleExp (n : Nat) : Int := Int.ofNat (n / 2 ^ 23) - 127

/-- The FP32 scale 2^e (R75). -/
def scaleOf (e : Int) : Nat := ((e + 127).toNat) * 2 ^ 23

/-- An SFP16 element: NaN under a scale that is not valid (R60, R61). -/
def sfpOf (elem scale : Nat) : Fp :=
  if !scaleOk scale then .nan
  else match fpOf false elem with
    | .fin s m e => .fin s m (e + scaleExp scale)
    | v => v

end Sys2Proof.Machine
end

