-- ==== Sys2Proof/Machine/Exact.lean ====
section
/-! DEFINITION. Exact accumulation and drains (R62 to R77). -/

namespace Sys2Proof.Machine

/-- The 128 bits of an EXA128 word as a number (R63). -/
def exaNat (x : Exa) : Nat :=
  unsext 112 x.value + b2n x.inexactLow * 2 ^ 112 + b2n x.overflow * 2 ^ 113 + b2n x.nan * 2 ^ 114 + b2n x.posInf * 2 ^ 115
    + b2n x.negInf * 2 ^ 116 + b2n x.blot * 2 ^ 117 + b2n x.empty * 2 ^ 118 + unsext 8 x.anchor * 2 ^ 120

/-- The EXA128 word of 128 bits; bit 119 is ignored (R63). -/
def exaOf (n : Nat) : Exa :=
  { value := sext 112 n, inexactLow := n.testBit 112, overflow := n.testBit 113, nan := n.testBit 114, posInf := n.testBit 115,
    negInf := n.testBit 116, blot := n.testBit 117, empty := n.testBit 118, anchor := sext 8 (n / 2 ^ 120) }

/-- The 16 bytes of a spilled word (R77). -/
def exaBytes (x : Exa) : Bytes := leBytes 16 (exaNat x)

/-- The largest and least VALUE (R68). -/
def exaTop : Int := 2 ^ 111 - 1
def exaBot : Int := -(2 ^ 111)

/-- A magnitude `m` × 2^`e` truncated to a multiple of 2^`u`, in those units, and whether bits were removed (R68). -/
def truncTo (u : Int) (m : Nat) (e : Int) : Nat × Bool :=
  if u ≤ e then (m * 2 ^ (e - u).toNat, false)
  else (m / 2 ^ (u - e).toNat, m % 2 ^ (u - e).toNat != 0)

/-- A cleared word ready for products: anchor 0 for the FP16 class, −128 for a window that chooses its own, a − 8 for a supplied
window anchor a (R64, R66). -/
def Acc.start (anchor : Int) : Acc := { word := Exa.cleared anchor, guard := 0, pend := [], seen := 0 }

/-- A reloaded word: the stored s112 value without guard bits (R64, R68). DESIGN CHOICE (log entry 94): one with ANCHOR −128 counts its
blocks of 32 from the first index of the pass that reloads it; the manual counts them over the whole contraction and gives a pass no way
to know where in it it begins. -/
def Acc.reload (x : Exa) : Acc := { word := x, guard := x.value, pend := [], seen := 0 }

/-- A signed amount added to the guarded sum. Where the amount itself or the sum leaves the guarded range, the accumulator saturates at
once with the sign of the excess (R68, R70). -/
def Acc.addUnits (a : Acc) (t : Int) : Acc :=
  if a.word.overflow then a
  else
    let g := a.guard + t
    if t < -(2 ^ 127) || (g < -(2 ^ 127) && t < 2 ^ 127) then { a with guard := -(2 ^ 127), word := { a.word with overflow := true } }
    else if t ≥ 2 ^ 127 || g ≥ 2 ^ 127 then { a with guard := 2 ^ 127 - 1, word := { a.word with overflow := true } }
    else { a with guard := g }

/-- A product added to a word whose anchor is fixed (R65, R68). -/
def Acc.addFixed (a : Acc) (p : Fp) : Acc :=
  let a := { a with word := { a.word with empty := false } }
  match p with
  | .nan => { a with word := { a.word with nan := true } }
  | .inf s => if s then { a with word := { a.word with negInf := true } } else { a with word := { a.word with posInf := true } }
  | .fin s m e =>
    let t := truncTo (a.word.anchor - 48) m e
    let a := if t.2 then { a with word := { a.word with inexactLow := true } } else a
    a.addUnits (if s then -(Int.ofNat t.1) else Int.ofNat t.1)

/-- floor(log2 |p|) of the finite non-zero products of a block, if any (R67). -/
def blockTop (ps : List Fp) : Option Int :=
  ps.foldl (fun o p =>
    match p with
    | .fin _ m e => if m = 0 then o else
        let t := Int.ofNat m.log2 + e
        some (match o with | none => t | some x => max x t)
    | _ => o) none

/-- The products of a finished block: if it holds a finite non-zero one the window takes a = E + 24, clamped to −119 to 135, and
stores A = a − 8; otherwise only flags are taken (R66, R67). -/
def Acc.closeBlock (a : Acc) : Acc :=
  match blockTop a.pend with
  | some e =>
    let w := max (-119) (min 135 (e + 24))
    let a' := { a with word := { a.word with anchor := w - 8 }, pend := [], seen := 0 }
    a.pend.foldl Acc.addFixed a'
  | none =>
    let a' := { a with pend := [], seen := 0 }
    a.pend.foldl Acc.addFixed a'

/-- The product of the next contraction index (R65 to R68): a window without an anchor waits for its block of 32. -/
def Acc.add (a : Acc) (p : Fp) : Acc :=
  if a.word.anchor ≠ -128 then a.addFixed p
  else
    let a := { a with pend := a.pend ++ [p], seen := a.seen + 1, word := { a.word with empty := false } }
    if a.seen = 32 then a.closeBlock else a

/-- A contraction index that has no product (R199): it counts in its block of 32 all the same (R67). -/
def Acc.pass (a : Acc) : Acc :=
  if a.word.anchor ≠ -128 then a
  else
    let a := { a with seen := a.seen + 1 }
    if a.seen = 32 then a.closeBlock else a

/-- An addend added to a target word (R69, R70): a target without an anchor takes that of the first addend that carries one. -/
def Acc.addExa (a : Acc) (x : Exa) : Acc :=
  let a := if a.word.anchor = -128 && x.anchor ≠ -128 then { a with word := { a.word with anchor := x.anchor } } else a
  let w := a.word
  let w := { w with inexactLow := w.inexactLow || x.inexactLow, nan := w.nan || x.nan, posInf := w.posInf || x.posInf,
                    negInf := w.negInf || x.negInf, blot := w.blot || x.blot, empty := false }
  if x.anchor = -128 then { a with word := { w with overflow := w.overflow || x.overflow } }
  else if w.overflow then { a with word := w }
  else if x.overflow then { a with word := { w with overflow := true }, guard := if x.value < 0 then exaBot else exaTop }
  else
    let t := truncTo (w.anchor - 48) x.value.natAbs (x.anchor - 48)
    let w := if t.2 then { w with inexactLow := true } else w
    Acc.addUnits { a with word := w } (if x.value < 0 then -(Int.ofNat t.1) else Int.ofNat t.1)

/-- The word as a drain, spill or send judges it (R68): a block still open is closed, and a guarded sum outside the s112 range
saturates with OVERFLOW. -/
def Acc.finish (a : Acc) : Exa :=
  let a := if a.pend.isEmpty then a else a.closeBlock
  if a.guard < exaBot then { a.word with value := exaBot, overflow := true }
  else if a.guard > exaTop then { a.word with value := exaTop, overflow := true }
  else { a.word with value := a.guard }

/-- Products summed in logical order from a starting word (R65 to R68). -/
def accumulate (start : Acc) (ps : List Fp) : Acc := ps.foldl Acc.add start

/-- The same where some indices have no product. -/
def accumulateSome (start : Acc) (ps : List (Option Fp)) : Acc :=
  ps.foldl (fun a p => match p with | some p => a.add p | none => a.pass) start

/-- A value as an addend: exact with A = 0 for FP16, shifted by the scale for SFP16 (R70). It is realigned to the target anchor `t`
directly. -/
def Acc.addValue (a : Acc) (v : Fp) : Acc := a.addFixed v

/-- Row of R72 that settles a word: its code, and whether it counts as an overflow; none where VALUE is converted. -/
def settled (w : Bool) (x : Exa) : Option Res :=
  if x.nan || (x.posInf && x.negInf) then some (Res.of (nanBits w))
  else if x.posInf then some (Res.of (infBits w false))
  else if x.negInf then some (Res.of (infBits w true))
  else if x.overflow then some { Res.of (infBits w (decide (x.value < 0))) with ovf := true }
  else if x.empty then some (Res.of 0)
  else if x.value = 0 then some (Res.of 0)
  else none

/-- One element of an FP16 or FP32 drain with exponent offset `sc` (R72, R73). -/
def drainElem (w : Bool) (x : Exa) (sc : Int) (u : Option Nat) : Res :=
  let r := match settled w x with
    | some r => r
    | none => encode' w false (decide (x.value < 0)) x.value.natAbs (x.anchor - 48 + sc) u
  { r with inex := x.inexactLow }

/-- The exact value of a word as a number, when the last row of R72 applies. -/
def exaFp (x : Exa) (sc : Int) : Fp := .fin (decide (x.value < 0)) x.value.natAbs (x.anchor - 48 + sc)

/-- A PAIR drain: hi, and lo of the exact remainder (R76). Counts rise for hi only. -/
def drainPair (x : Exa) (sc : Int) : Res × Res :=
  match settled true x with
  | some r => ({ r with inex := x.inexactLow }, Res.of 0)
  | none =>
    let hi := drainElem true x sc none
    if isInf true hi.bits then (hi, Res.of 0)
    else
      match fpAdd (exaFp x sc) (fpNeg (fpOf true hi.bits)) with
      | .fin s m e => (hi, if m = 0 then Res.of 0 else Res.of (encode' true false s m e none).bits)
      | _ => (hi, Res.of 0)

/-- The group exponent of an SFP16 drain (R75) from the largest magnitude m × 2^w among its unsettled elements. -/
def groupExp (ms : List (Nat × Int)) : Int :=
  match ms with
  | [] => 0
  | _ =>
    let lo : Int := ms.foldl (fun (a : Int) m => min a m.2) ((ms.head?.map Prod.snd).getD 0)
    let top : Nat := ms.foldl (fun (a : Nat) m => max a (m.1 * 2 ^ (m.2 - lo).toNat)) 0
    let f : Int := Int.ofNat top.log2 + lo
    -- m ≤ 65504 × 2^(F − 15)
    let u : Int := min lo (f - 15)
    let e := if top * 2 ^ (lo - u).toNat ≤ 65504 * 2 ^ (f - 15 - u).toNat then f - 15 else f - 14
    max (-126) (min 127 e)

/-- An SFP16 drain of words, each with the number of its group among `n` groups: the elements and the groups' scales (R75). -/
def drainGroups (n : Nat) (xs : List (Nat × Exa)) : List Res × List Nat :=
  let exps := (List.range n).map (fun g => groupExp ((xs.filter (fun x => x.1 == g && (settled false x.2).isNone)).map
    (fun x => (x.2.value.natAbs, x.2.anchor - 48))))
  (xs.map (fun x => drainElem false x.2 (-((exps[x.1]?).getD 0)) none), exps.map scaleOf)

end Sys2Proof.Machine
end

