-- ==== Sys2Proof/Machine/Flags.lean ====
section
/-! DEFINITION. The status codes of commands (R14 to R16), the causes of skipped instructions (R159), and how the counts of outputs sum
and set a status (R95, R96). -/

namespace Sys2Proof.Machine

/-- The skip causes of R159. -/
def cUnknown : Nat := 0x01
def cForm : Nat := 0x02
def cIndex : Nat := 0x03
def cType : Nat := 0x04
def cFormat : Nat := 0x05
def cShape : Nat := 0x06
def cDesc : Nat := 0x07
def cAccess : Nat := 0x08
def cAnchor : Nat := 0x09
def cLcores : Nat := 0x0A
def cNotOut : Nat := 0x0B
def cNoProduct : Nat := 0x0C
def cSync : Nat := 0x0D
def cChain : Nat := 0x0E
def cCompat : Nat := 0x0F
def cReserved : Nat := 0x10
def cKey : Nat := 0x11
def cFused : Nat := 0x12
def cMore : Nat := 0xFF

/-- The status codes of R14. -/
def stOk : Nat := 0x00
def stEmpty : Nat := 0x01
def stSkipped : Nat := 0x02
def stFused : Nat := 0x03
def stDimLimit : Nat := 0x04
def stDamaged : Nat := 0x05
def stBudget : Nat := 0x06
def stStale : Nat := 0x07
def stBlotted : Nat := 0x08
def stLease : Nat := 0x09
def stPartition : Nat := 0x0A
def stPermit : Nat := 0x0B
def stPreempt : Nat := 0x0C
def stKillFill : Nat := 0x0D
def stLink : Nat := 0x0F
def stSaturated : Nat := 0x10
def stOverflow : Nat := 0x11
def stTornDown : Nat := 0x12

/-- A saturating sum of a 32-bit count (R94, R95). -/
def sat32 (a b : Nat) : Nat := min (a + b) 0xFFFFFFFF

/-- The status of a command that commits: the lowest code of 0x01 to 0x06 that applies, else SATURATED, else OVERFLOW_SEEN, else OK
(R15, R96). `fused`: every skip was of a fused-off target. -/
def committedStatus (empty skipped fused dimLimit damaged budget : Bool) (saturated overflow nan : Nat) : Nat :=
  if empty then stEmpty
  else if skipped then (if fused then stFused else stSkipped)
  else if dimLimit then stDimLimit
  else if damaged then stDamaged
  else if budget then stBudget
  else if saturated ≠ 0 then stSaturated
  else if overflow ≠ 0 ∨ nan ≠ 0 then stOverflow
  else stOk

end Sys2Proof.Machine
end

