-- ==== Sys2Proof/Machine/Quill.lean ====
section
/-! DEFINITION. The quill generator (R79 to R84). -/

namespace Sys2Proof.Machine

/-- The round constants and the two rotations of each round (R81). -/
def quillRounds : List (BitVec 32 × Nat × Nat) :=
  [(0x5A3C1E97#32, 16, 12), (0xB4E10C6D#32, 12, 8), (0x2F98D3A1#32, 8, 16), (0xC71B4E58#32, 20, 24), (0x8E4DA23B#32, 24, 20),
   (0x1D7F65C4#32, 16, 12), (0xF0A62B19#32, 12, 8), (0x63C58F0E#32, 8, 16), (0xA9D237B6#32, 20, 24), (0x4B07E9D3#32, 24, 20)]

/-- The four state words of quill. -/
abbrev Quad := BitVec 32 × BitVec 32 × BitVec 32 × BitVec 32

/-- One round (R80). -/
def quillRound (r : BitVec 32 × Nat × Nat) (s : Quad) : Quad :=
  let (a, b, c, d) := s
  let a := (a + b) ^^^ r.1
  let d := (d ^^^ a).rotateLeft r.2.1
  let c := c + d
  let b := (b ^^^ c).rotateLeft r.2.2
  (a, b, c, d)

/-- The state before the first round (R80). -/
def quillStart (k : Quad) (stream : BitVec 32) (index draw : Nat) : Quad :=
  (stream ^^^ k.1, BitVec.ofNat 32 index ^^^ k.2.1,
   BitVec.ofNat 32 (index / 2 ^ 32 % 2 ^ 16 + draw % 2 ^ 16 * 2 ^ 16) ^^^ k.2.2.1, BitVec.ofNat 32 (draw / 2 ^ 16) ^^^ k.2.2.2)

/-- One quill output, word 0 first (R80): the key is injected again after the fifth round and at the end. DEDUCED: of R82's answers it
gives the second (log entry 87). -/
def quill (k : Quad) (stream : BitVec 32) (index draw : Nat) : Quad :=
  let s := (quillRounds.take 5).foldl (fun s r => quillRound r s) (quillStart k stream index draw)
  let s := (s.1 ^^^ k.2.1, s.2.1 ^^^ k.2.2.1, s.2.2.1 ^^^ k.2.2.2, s.2.2.2 ^^^ k.1)
  let s := (quillRounds.drop 5).foldl (fun s r => quillRound r s) s
  (s.1 ^^^ k.1, s.2.1 ^^^ k.2.1, s.2.2.1 ^^^ k.2.2.1, s.2.2.2 ^^^ k.2.2.2)

/-- Word `n` mod 4 of an output. -/
def quadWord (q : Quad) (n : Nat) : BitVec 32 :=
  match n % 4 with
  | 0 => q.1
  | 1 => q.2.1
  | 2 => q.2.2.1
  | _ => q.2.2.2

/-- The key of 16 bytes, k[0] first. -/
def quadOf (b : Bytes) : Quad :=
  (BitVec.ofNat 32 (num b 0 4), BitVec.ofNat 32 (num b 4 4), BitVec.ofNat 32 (num b 8 4), BitVec.ofNat 32 (num b 12 4))

/-- The word for element `n` of a tensor: purpose in bits 31:30, tensor identifier in bits 29:0, index ⌊n / 4⌋ (R79, R83, R84). -/
def quillWord (key : Quad) (purpose ident n draw : Nat) : Nat :=
  (quadWord (quill key (BitVec.ofNat 32 (purpose * 2 ^ 30 + ident % 2 ^ 30)) (n / 4) draw) n).toNat

end Sys2Proof.Machine
end

