-- ==== Sys2Proof/Machine/Operands.lean ====
section
/-! DEFINITION. Quento programs and their operands (R132 to R143): the container, descriptors and their consistency (R134 to
R138), how a command reads and writes memory, cluster memory (R212 to R214) and scratchpad (R107 to R109) with blot tags
(R123, R124), and the intermediates of distributed instructions (R142). -/

namespace Sys2Proof.Machine

/-! ## The container (R132, R139, R141) -/

/-- An instruction word (R141) with its index in the program. -/
structure Word128 where
  ix   : Nat
  op   : Nat
  form : Nat
  a    : Nat
  b    : Nat
  c    : Nat
  mod  : Nat
  lc   : Nat
  imm  : Nat
  deriving DecidableEq, Repr

/-- A command table entry (R139). -/
structure CmdEntry where
  first  : Nat
  count  : Nat
  fcl    : Nat
  ncl    : Nat
  flags  : Nat
  rkey   : Nat
  skey   : Nat
  outs   : List Nat
  deriving DecidableEq, Repr

/-- The program header's fields (R132). -/
def hFlags (p : Bytes) : Nat := num p 6 2
def hTotal (p : Bytes) : Nat := num p 8 4
def hDescOff (p : Bytes) : Nat := num p 12 4
def hDescCount (p : Bytes) : Nat := num p 16 4
def hCmdOff (p : Bytes) : Nat := num p 20 4
def hCmdCount (p : Bytes) : Nat := num p 24 4
def hInstrOff (p : Bytes) : Nat := num p 28 4
def hInstrCount (p : Bytes) : Nat := num p 32 4
def hConstOff (p : Bytes) : Nat := num p 36 4
def hConstBytes (p : Bytes) : Nat := num p 40 4
def hClusters (p : Bytes) : Nat := num p 44 2
def hCores (p : Bytes) : Nat := num p 46 1
def hStaging (p : Bytes) : Nat := num p 48 2
def hProgramId (p : Bytes) : Nat := num p 56 8

/-- "none" in an operand or reference field (R133). -/
def noDesc : Nat := 0xFFFF

/-- The 128 bytes of a descriptor. -/
def descAt (p : Bytes) (k : Nat) : Bytes := sub p (hDescOff p + 128 * k) 128

/-- An instruction word's fields from its 128 bits (R141). -/
def wordOf (n ix : Nat) : Word128 :=
  { ix := ix, op := bitsOf n 0 10, form := bitsOf n 10 4, a := bitsOf n 14 16, b := bitsOf n 30 16, c := bitsOf n 46 16,
    mod := bitsOf n 62 16, lc := bitsOf n 78 16, imm := bitsOf n 94 34 }

/-- Instruction word `i` of a program. -/
def wordAt (p : Bytes) (i : Nat) : Word128 := wordOf (num p (hInstrOff p + 16 * i) 16) i

/-- Command `k` of a program (R139); its output list lies in the constant pool. -/
def cmdAt (p : Bytes) (k : Nat) : CmdEntry :=
  let o := hCmdOff p + 64 * k
  let l := hConstOff p + num p (o + 16) 4
  { first := num p o 4, count := num p (o + 4) 4, fcl := num p (o + 8) 2, ncl := num p (o + 10) 1, flags := num p (o + 11) 1,
    rkey := num p (o + 12) 2, skey := num p (o + 14) 2,
    outs := (List.range (num p (o + 20) 1)).map (fun j => num p (l + 2 * j) 2) }

/-! ## Why an instruction does not have its effect (R159, R327) -/

/-- What stops an instruction: it is skipped with a cause and detail (R159, R160); its command fails with a status, for a failed
partition check at an address (R327); it waits, for nothing the model sends or for bytes of other packages (R347). -/
inductive Stop where
  | skip (cause detail : Nat)
  | fail (status : Nat) (at' : Option (Nat × Nat))
  | wait (reqs : List (Nat × Nat))
  deriving DecidableEq, Repr

/-- Why an instruction stopped, and the state as it stood then: what was read until then has been read (R124, R163). -/
structure Halt where
  why  : Stop
  held : State
  deriving DecidableEq, Repr

/-- The effect of an instruction on one target. -/
abbrev Act (α : Type) := StateT State (Except Halt) α

/-- An instruction stopped. -/
def halt {α : Type} (e : Stop) : Act α := fun s => .error { why := e, held := s }

/-- An instruction skipped. -/
def skip {α : Type} (cause detail : Nat) : Act α := halt (Stop.skip cause detail)

/-- A skip unless a condition holds. -/
def need (b : Bool) (cause detail : Nat) : Act Unit := if b then pure () else halt (Stop.skip cause detail)

/-- The instruction waits (R128). -/
def hold {α : Type} : Act α := halt (Stop.wait [])

/-- One target of an instruction (R142): its command's lead cluster, the word, the command's table entry, program image and
arguments, and, when pinned, the target's place among the named cores, its logical cluster and its logical core. -/
structure Here where
  lead : Nat
  w    : Word128
  cmd  : CmdEntry
  prog : Bytes
  args : List Nat
  pin  : Option (Nat × Nat × Nat)
  deriving DecidableEq, Repr

/-- The command on a lead cluster. -/
def State.runOf (s : State) (lead : Nat) : Option Run := s.runs.find? (fun r => r.lead == lead)

/-- A command that no record describes: used where none runs. -/
def Run.blank : Run :=
  { lead := 0, clusters := [], ctx := 0, queue := 0, entry := 0#32, fill := false, prog := 0, cmd := 0, step := 0, args := [],
    flags := 0#8, notify := 0#64, started := 0#64, piece := 0, pieces := 1, rerun := false, takes := [], next := 0, ahead := [], issued := [],
    overlay := [], outTags := [], hints := [], scatter := [], scatterTags := [], fetched := [], fetchBad := [], virts := [], products := [], chain := .none, badChain := .none, lastStage := 255,
    counts := [], skips := [], moreSkips := 0, skipped := [], gen := .none, roots := [], stalls := List.replicate 11 0,
    leases := [], halos := [], reads := [], media := [], loose := [], dimLimit := false, damaged := false, budget := false, wrote := false,
    stamp := .none, struck := Struck.none, blotCores := [], failed := .none, sending := false, remSent := false, mirrored := [], mortarSince := .none, sendBufs := [] }

/-- A lease that has been granted (R240). -/
def LeaseUse.granted (u : LeaseUse) : Bool := u.phase != .bar && u.phase != .asked

/-- A lease instruction that was skipped (R240). -/
def LeaseUse.barred (u : LeaseUse) : Bool := u.phase == .bar

/-- The state with the command on a lead cluster changed. -/
def State.setRun (s : State) (lead : Nat) (f : Run → Run) : State :=
  { s with runs := s.runs.map (fun r => if r.lead == lead then f r else r) }

/-- The program of a command. -/
def State.progOf (s : State) (uid : Nat) : Option Program := s.programs.find? (fun p => p.uid == uid)

/-- The image of a command's program. -/
def State.image (s : State) (r : Run) : Bytes := ((s.progOf r.prog).map (fun p => p.image)).getD []

/-- An argument word (R138). -/
def Here.arg (h : Here) (k : Nat) : Nat := (h.args[k]?).getD 0

/-- The running command of a target. -/
def getRun (h : Here) : Act Run := fun s => .ok ((s.runOf h.lead).getD Run.blank, s)

/-- The running command of a target changed. -/
def putRun (h : Here) (f : Run → Run) : Act Unit := fun s => .ok ((), s.setRun h.lead f)

/-! ## Descriptors (R133 to R138) -/

/-- The element sizes of the formats (R134). -/
def elemSize (f : Nat) : Nat := match f with
  | 0 => 2 | 1 => 4 | 2 => 2 | 3 => 16 | 4 => 2 | 5 => 4 | 6 => 1 | _ => 2

/-- A TENSOR descriptor with its arguments bound (R134, R138). -/
structure Ten where
  fmt    : Nat
  access : Nat
  ident  : Nat
  base   : Nat
  dims   : List Nat
  steps  : List Int
  sbase  : Nat
  axis   : Nat
  log2g  : Nat
  count  : Nat
  deriving DecidableEq, Repr

/-- The number of elements of a shape. -/
def volume (dims : List Nat) : Nat := dims.foldl (· * ·) 1

/-- An argument-index field that takes 0 to 7 (R138). -/
def argOk (k : Nat) : Bool := decide (k < 8)

/-- A field that selects one argument word, or 0xFF for the value as written (R138): the value, or none where it is inconsistent. -/
def pickArg (args : List Nat) (field written : Nat) : Option Nat :=
  if field = 0xFF then some written else if field < 8 then some ((args[field]?).getD 0) else none

/-- A field that selects a pair of argument words, or 0xFF (R138). -/
def pickPair (args : List Nat) (field written : Nat) : Option Nat :=
  if field = 0xFF then some written
  else if field < 4 then some ((args[2 * field + 1]?).getD 0 * 2 ^ 32 + (args[2 * field]?).getD 0) else none

/-- The lowest and highest element offsets relative to the base, in elements (R135). -/
def reach (dims : List Nat) (steps : List Int) : Int × Int :=
  (dims.zip steps).foldl (fun r x =>
    let d := Int.ofNat (x.1 - 1) * x.2
    if d < 0 then (r.1 + d, r.2) else (r.1, r.2 + d)) (0, 0)

/-- Axes sorted by the magnitude of their step, smaller first. -/
def insertAxis (x : Nat × Nat) : List (Nat × Nat) → List (Nat × Nat)
  | [] => [x]
  | y :: t => if x.1 ≤ y.1 then x :: y :: t else y :: insertAxis x t

/-- The sufficient condition of R135 that no two indices of a written tensor map to one element. -/
def apart (dims : List Nat) (steps : List Int) : Bool :=
  let ax := ((dims.zip steps).filter (fun x => decide (x.1 > 1))).map (fun x => (x.2.natAbs, x.1))
  let so := ax.foldl (fun l x => insertAxis x l) []
  so.all (fun x => x.1 != 0) && (so.zip (so.drop 1)).all (fun p => decide (p.2.1 ≥ p.1.1 * p.1.2))

/-- A TENSOR descriptor bound and checked by R135 and R138; none where it is inconsistent. -/
def parseTen (d : Bytes) (args : List Nat) : Option Ten := do
  let fmt := num d 1 1
  let rank := num d 2 1
  let acc := num d 3 1
  let darg := num d 76 1
  if fmt > 7 || rank > 6 || acc ≥ 8 || num d 4 4 ≥ 2 ^ 30 || !allZero (sub d 78 50) || darg / 2 ^ rank != 0 then none
  else
    let base ← pickPair args (num d 77 1) (num d 8 8)
    let dims ← (List.range rank).mapM (fun k =>
      let v := num d (16 + 4 * k) 4
      if darg.testBit k then (if argOk v then some ((args[v]?).getD 0) else none) else some v)
    let steps := (List.range rank).map (fun k => sext 32 (num d (40 + 4 * k) 4))
    let es := elemSize fmt
    let r := reach dims steps
    let off := Int.ofNat (base % 2 ^ 48)
    if dims.any (fun x => decide (x > 2 ^ 31)) || (range' rank (6 - rank)).any (fun k => decide (num d (16 + 4 * k) 4 > 2 ^ 31)) then none
    else if volume dims != 0 && (decide (off + r.1 * es < 0) || decide (off + (r.2 + 1) * es > 2 ^ 48)) then none
    else if acc / 2 != 0 && !apart dims steps then none
    else if fmt = 2 && (decide (num d 72 1 ≥ rank) || decide (num d 73 1 < 5) || decide (num d 73 1 > 12)) then none
    else if fmt != 2 && num d 64 8 != 0 then none
    else some { fmt := fmt, access := acc, ident := num d 4 4, base := base, dims := dims, steps := steps, sbase := num d 64 8,
                axis := num d 72 1, log2g := num d 73 1, count := num d 74 2 }

/-- A REGION descriptor (R136). -/
structure Area where
  access : Nat
  fmt    : Nat
  slots  : Nat
  base   : Nat
  len    : Nat
  rows   : Nat
  cols   : Nat
  pitch  : Nat
  ident  : Nat
  deriving DecidableEq, Repr

/-- The bytes of one slot of a region: all of it, or a hand-over slot (R136). -/
def Area.room (a : Area) : Nat := if a.slots = 0 then a.len else a.len / a.slots

/-- A REGION descriptor checked by R136; none where it is inconsistent. -/
def parseArea (d : Bytes) : Option Area :=
  let a : Area := { access := num d 1 1, fmt := num d 2 1, slots := num d 3 1, base := num d 4 4, len := num d 8 4, rows := num d 12 4,
                    cols := num d 16 4, pitch := num d 20 4, ident := num d 24 4 }
  if a.access ≥ 4 || a.fmt > 7 || a.slots > 4 || a.ident ≥ 2 ^ 30 || !allZero (sub d 28 100) then none
  else if a.base + a.len > 0x300000 || a.pitch < a.cols * elemSize a.fmt then none
  else if a.slots != 0 && a.len % a.slots != 0 then none
  else if a.fmt = 2 && (decide (a.cols > 4096) || decide (a.room < a.rows * a.pitch + 4 * a.rows)) then none
  else some a

/-- A KEY descriptor's 16 key bytes and purpose (R137); none where a reserved byte is set. -/
def parseKey (d : Bytes) : Option (Bytes × Nat) :=
  if num d 0 1 = 4 && decide (num d 1 1 < 4) && allZero (sub d 2 14) && allZero (sub d 32 96) then some (sub d 16 16, num d 1 1) else none

/-- A COUNT_BLOCK descriptor's address (R137). -/
def parseCount (d : Bytes) : Option Nat :=
  if num d 0 1 = 6 && num d 8 8 % 32 = 0 && allZero (sub d 1 7) && allZero (sub d 16 112) then some (num d 8 8) else none

/-- A STAGING descriptor's address and size (R137). -/
def parseStaging (d : Bytes) : Option (Nat × Nat) :=
  if num d 0 1 = 0x0A && num d 8 8 % 2 ^ 21 = 0 && num d 8 8 / 2 ^ 48 % 8 = 0 && allZero (sub d 1 7) && allZero (sub d 24 104)
  then some (num d 8 8, num d 16 8) else none

/-! ## Element order -/

/-- For every index tuple, innermost fastest, the sum of `f k i` over the axes (R134). -/
def sums {β : Type} [Add β] (zero : β) (f : Nat → Nat → β) : Nat → List Nat → List β
  | _, [] => [zero]
  | k, d :: t => (sums zero f (k + 1) t).flatMap (fun o => (List.range d).map (fun i => f k i + o))

/-- Element offsets of a tensor in elements, in element order (R134). -/
def Ten.offs (t : Ten) : List Int := sums (0 : Int) (fun k i => Int.ofNat i * (t.steps[k]?).getD 0) 0 t.dims

/-- The extents of the scale vector (R134). -/
def groupDims (dims : List Nat) (axis g : Nat) : List Nat := dims.mapIdx (fun k d => if k = axis then ceilDiv d g else d)

/-- The scale group of each element in element order (R134). -/
def groups (dims : List Nat) (axis g : Nat) : List Nat :=
  let gd := groupDims dims axis g
  sums (0 : Nat) (fun k i => (if k = axis then i / g else i) * volume (gd.take k)) 0 dims

/-- An operand's elements in element order with their blot tags, and the scales of SFP16 groups of `group` along `axis` (R60). -/
structure Arr where
  fmt    : Nat
  dims   : List Nat
  elems  : List Nat
  tags   : List Nat
  scales : List Nat
  axis   : Nat
  group  : Nat
  deriving DecidableEq, Repr

/-- An array of one format without scales. -/
def Arr.of (fmt : Nat) (dims elems tags : List Nat) : Arr :=
  { fmt := fmt, dims := dims, elems := elems, tags := tags, scales := [], axis := 0, group := 32 }

/-- The FP32 scale that goes with each element; 0 where there is none (R60). -/
def Arr.scaleList (a : Arr) : List Nat := (groups a.dims a.axis a.group).map (fun g => (a.scales[g]?).getD 0)

/-- The values of a floating operand: SFP16 elements with their scale (R60, R61), integers exactly. -/
def Arr.vals (a : Arr) : List Fp :=
  if a.fmt = fSfp16 then a.elems.zipWith sfpOf a.scaleList
  else a.elems.map (fun n =>
    if a.fmt = fFp16 then fpOf false n
    else if a.fmt = fFp32 then fpOf true n
    else if a.fmt = fInt16 then fpOfInt (sext 16 n)
    else if a.fmt = fInt32 then fpOfInt (sext 32 n)
    else fpOfInt (Int.ofNat n))

/-- The elements as integers. -/
def Arr.ints (a : Arr) : List Int := a.elems.map (fun n =>
  if a.fmt = fInt16 then sext 16 n else if a.fmt = fInt32 then sext 32 n else Int.ofNat n)

/-- The OR of two blot tags. -/
def tagOr (a b : Nat) : Nat := a ||| b

/-- The OR of many. -/
def tagAll (l : List Nat) : Nat := l.foldl tagOr 0

/-- The OR of the tags of each of `n` groups, of elements given with their group's number. -/
def groupTags (n : Nat) (xs : List (Nat × Nat)) : List Nat :=
  (List.range n).map (fun g => tagAll ((xs.filter (fun x => x.1 == g)).map (·.2)))

/-- The tags of elements with those of their groups' scales (R123). -/
def withScaleTags (gs tags scaleTags : List Nat) : List Nat := gs.zipWith (fun g t => tagOr t ((scaleTags[g]?).getD 0)) tags

/-! ## Where a command's bytes lie -/

/-- A byte of another package is keyed above every key of this one. -/
def remoteKey (pkg space off : Nat) : Nat := (pkg + 1) * 2 ^ 52 + space * 2 ^ 48 + off

/-- A grant of a cluster memory in force (R213): none where it acts as invalid by its own fields. -/
def State.grantAt (s : State) (k g : Nat) : Option (Nat × Nat × Nat × Nat) :=
  let v := s.live' (cluAt k) (.clmGrant g)
  if fld v 0 1 = 1 && decide (0x40 ≤ fld v 16 8) && decide (fld v 16 8 ≤ fld v 24 8)
  then some (fld v 1 6, fld v 7 4, fld v 16 8, fld v 24 8) else none

/-- The grants of a cluster that act, with their numbers: one that overlaps a lower-numbered grant is invalid (R213). -/
def State.actGrants (s : State) (k : Nat) : List (Nat × (Nat × Nat × Nat × Nat)) :=
  (List.range 4).foldl (fun l g =>
    match s.grantAt k g with
    | some x => if l.any (fun y => decide (x.2.2.1 ≤ y.2.2.2.2) && decide (y.2.2.2.1 ≤ x.2.2.2)) then l else l ++ [(g, x)]
    | none => l) []

/-- The grants of a cluster that act (R213). -/
def State.grants (s : State) (k : Nat) : List (Nat × Nat × Nat × Nat) := (s.actGrants k).map (·.2)

/-- Whether bytes `lo` to `hi` of a cluster memory lie in one grant of a context and queue (R214). -/
def State.granted (s : State) (k ctx q lo hi : Nat) : Bool :=
  (s.grants k).any (fun g => g.1 == ctx && g.2.1 == q && decide (g.2.2.1 ≤ lo / 65536) && decide (hi / 65536 ≤ g.2.2.2))

/-- Whether an offset of space 3 lies in the cluster-memory window (R212). -/
def inCluWindow (off : Nat) : Bool := off / 2 ^ 44 == 1

/-- The key of one byte that a command names by package, space and offset (R9, R212); `slot` is the operand's slot for a cluster
that is not the command's. -/
def keyOf (s : State) (h : Here) (slot pkg space off : Nat) : Except Stop Nat :=
  if pkg ≠ s.sec.pkg then .ok (remoteKey pkg space off)
  else if space = 3 && inCluWindow off then
    let lc := bitsOf off 24 8
    let cl := ((s.runOf h.lead).map (fun r => r.clusters)).getD []
    if bitsOf off 32 12 != 0 || decide (lc < h.cmd.fcl) then .error (.skip cDesc slot)
    else match cl[lc - h.cmd.fcl]? with
      | some k => .ok (cluKey k (bitsOf off 0 24))
      | none => .error (.skip cDesc slot)
  else .ok (memKey space off)

/-- Whether a key names a byte of another package. -/
def isRemote (key : Nat) : Bool := decide (key ≥ 2 ^ 52)

/-- Whether a key names a byte of a cluster memory. -/
def isClu (key : Nat) : Bool := key / 2 ^ 44 == 3 * 16 + 1

/-- Whether a key names the working area of a cluster memory (R213). -/
def isWorking (key : Nat) : Bool := isClu key && decide (key % 2 ^ 24 < 0x400000)

/-- Step by step, the checks of R214 and R327 on the bytes that one operand touches, by page or 64 KiB block. -/
def checkKeys (s : State) (r : Run) (wr : Bool) (keys : List Nat) : Except Stop Unit :=
  let p := s.ctxPart r.ctx
  let here := keys.filter (fun k => !isRemote k && !isWorking k)
  let clu := here.filter isClu
  let mem := here.filter (fun k => !isClu k)
  let badPage := ((mem.map (fun k => k / 2 ^ 21)).eraseDups).find? (fun pg =>
    !(s.pageOk false p wr (pg * 2 ^ 21 / 2 ^ 48) (pg * 2 ^ 21 % 2 ^ 48)))
  let unbacked := mem.find? (fun k => (s.hubOf (k / 2 ^ 48) (k % 2 ^ 48)).isNone)
  match unbacked with
  | some k => .error (.fail stPartition (some (k / 2 ^ 48, k % 2 ^ 48)))
  | none =>
    match badPage with
    | some pg =>
      let k := (mem.find? (fun k => k / 2 ^ 21 == pg)).getD 0
      .error (.fail stPartition (some (k / 2 ^ 48, k % 2 ^ 48)))
    | none =>
      let ks := (clu.map (fun k => k / 2 ^ 24 % 64)).eraseDups
      match ks.find? (fun k =>
        let mine := (clu.filter (fun x => x / 2 ^ 24 % 64 == k)).map (fun x => x % 2 ^ 24)
        !(s.granted k r.ctx r.queue (mine.foldl min 0xFFFFFF) (mine.foldl max 0))) with
      | some k => .error (.fail stPartition (some (3, 2 ^ 44 + k * 2 ^ 24 + 0x400000)))
      | none => .ok ()

/-- The byte a command reads at a key: what it has written itself, bytes fetched from other packages, the working area as the
command left it (0 unwritten, R213), or memory as it stands. -/
def State.byteFor (s : State) (r : Run) (key : Nat) : Nat :=
  match kvGet r.overlay key with
  | some b => b.toNat
  | none =>
    if isRemote key then ((kvGet r.fetched key).map (·.toNat)).getD 0
    else if isWorking key then 0
    else if s.loose' key || s.hidden (some (r.ctx, r.queue)) key then (Config.freeByte s.fresh key).toNat
    else (memGet s.mem key).toNat

/-- The blot tag of a byte's granule: the command's own, cluster memory's, or PARITY for a poisoned line (R123, R216, R318). -/
def State.tagFor (s : State) (r : Run) (key : Nat) : Nat :=
  match kvGet r.outTags (key / 32) with
  | some t => t.toNat
  | none =>
    if isRemote key then (if r.fetchBad.contains (key / 64) then 1 else 0)
    else tagOr (((kvGet s.memTags (key / 32)).map (·.toNat)).getD 0) (if s.poison.contains (key / 64) then 1 else 0)

/-- Sorted keys. -/
def insertNat (x : Nat) : List Nat → List Nat
  | [] => [x]
  | y :: t => if x ≤ y then x :: y :: t else y :: insertNat x t

/-- Runs of consecutive keys of at most 4096 bytes, as first key and length. -/
def keyRuns : List Nat → List (Nat × Nat)
  | [] => []
  | k :: t =>
    match keyRuns t with
    | [] => [(k, 1)]
    | (a, n) :: l => if a = k + 1 && decide (n < 4096) then (k, n + 1) :: l else if a = k then (a, n) :: l else (k, 1) :: (a, n) :: l

/-- The keys of a run of bytes named by a global address. -/
def spanKeys (s : State) (h : Here) (slot base off n : Nat) : Except Stop (List Nat) :=
  (List.range n).mapM (fun i => keyOf s h slot (gPkg (BitVec.ofNat 64 base)) (gSpace (BitVec.ofNat 64 base)) (off + i))

/-- A granule of cluster memory read: one that cannot be corrected is tagged PARITY, in the memory and in what the command has written,
sets UNCORRECTABLE and records BLOT_RAISED for the cluster; a corrected one changes nothing (R216, log entry 98). -/
def State.cluGranule (s : State) (lead ctx g : Nat) : State :=
  if !((s.runOf lead).getD Run.blank).struck.clu.contains g then s else
  let k := 32 * g / 2 ^ 24 % 64
  let s := s.setRun lead (fun r => { r with outTags := match kvGet r.outTags g with
    | some t => kvSet r.outTags g (t ||| 1#2)
    | none => r.outTags })
  let s : State := { s with memTags := kvSet s.memTags g (((kvGet s.memTags g).getD 0#2) ||| 1#2) }
  let s := (s.setBits (cluAt k) .clmFaults 2).keyEvent k
  s.event (k / 8) kBlot ctx (0x8000 + k) 0#8 (leBytes 4 (32 * g % 2 ^ 24))

/-- A line of last-level memory read: one that a hub in cache mode cannot correct is poisoned as a line of memory is, with UNIT 0x90FF, and
sets UNCORRECTABLE (R318, R338, log entry 105). -/
def State.llmLine (s : State) (line : Nat) : State :=
  let space := line * 64 / 2 ^ 48
  let off := line * 64 % 2 ^ 48
  match s.hubOf space off with
  | some hub =>
    if (s.llm hub).cache && !s.poison.contains line then
      let s : State := { s with poison := line :: s.poison }
      ((s.setBits (dieAt hub) .llmStatus 8).raise hub srcLlm).event hub kBlot noCtx 0x90FF 0#8 (leBytes 6 off ++ leBytes 1 space)
    else s
  | none => s

/-- Whether bytes at a global address lie in a home region whose take was skipped before an instruction (R240). -/
def leaseBarAt (s : State) (h : Here) (a n : Nat) : Bool :=
  match s.runOf h.lead with
  | none => false
  | some r => r.leases.any (fun u => u.barred && decide (u.index < h.w.ix)
      && decide (u.home.toNat / 2 ^ 48 = a / 2 ^ 48) && decide (u.home.toNat % 2 ^ 48 < a % 2 ^ 48 + n)
      && decide (a % 2 ^ 48 < u.home.toNat % 2 ^ 48 + u.bytes))

/-- Bytes at keys, checked, with their tags; bytes of other packages must have been fetched (R347). -/
def readKeys (h : Here) (keys : List Nat) : Act (List (Nat × Nat)) := do
  let s ← get
  let r ← getRun h
  match checkKeys s r false keys with
  | .error e => halt e
  | .ok _ =>
    let miss := keys.filter (fun k => isRemote k && (kvGet r.overlay k).isNone && (kvGet r.fetched k).isNone)
    if !miss.isEmpty then halt (Stop.wait (keyRuns (miss.foldl (fun l k => insertNat k l) [])))
    else do
      let t := (((keys.filter isClu).map (· / 32)).eraseDups).foldl (fun t g => t.cluGranule h.lead r.ctx g) s
      let t := (r.struck.llm.filter (fun l => keys.any (fun k => !isRemote k && !isClu k && k / 64 == l))).foldl State.llmLine t
      set t
      let r' ← getRun h
      pure (keys.map (fun k => (s.byteFor r k, t.tagFor r' k)))

/-- The number in consecutive bytes, and the OR of their tags. -/
def joinBytes : List (Nat × Nat) → Nat × Nat
  | [] => (0, 0)
  | (b, t) :: l => let r := joinBytes l; (b + 256 * r.1, tagOr t r.2)

/-- A list cut into pieces of `n`; `fuel` pieces at most. -/
def chunks {α : Type} : Nat → Nat → List α → List (List α)
  | 0, _, _ => []
  | fuel + 1, n, l => if l.isEmpty then [] else l.take n :: chunks fuel n (l.drop n)

/-- Bytes at a global address that a command reads. -/
def readBytes (h : Here) (slot base n : Nat) : Act (Bytes × Nat) := do
  let s ← get
  need (!leaseBarAt s h base n) cDesc slot
  match spanKeys s h slot base (base % 2 ^ 48) n with
  | .error e => halt e
  | .ok ks =>
    let bs ← readKeys h ks
    pure (bs.map (fun x => BitVec.ofNat 8 x.1), tagAll (bs.map (·.2)))

/-- The byte keys of a tensor's elements, in element order. -/
def tenKeys (s : State) (h : Here) (slot : Nat) (t : Ten) : Except Stop (List Nat) :=
  let es := elemSize t.fmt
  let p := gPkg (BitVec.ofNat 64 t.base)
  let sp := gSpace (BitVec.ofNat 64 t.base)
  (t.offs.flatMap (fun o => (List.range es).map (fun i => (Int.ofNat (t.base % 2 ^ 48) + o * es).toNat + i))).mapM
    (fun o => keyOf s h slot p sp o)

/-- The number of scale groups of a tensor (R134). -/
def Ten.groups (t : Ten) : Nat := if t.fmt = 2 then volume (groupDims t.dims t.axis (2 ^ t.log2g)) else 0

/-- A tensor read from memory (R134, R60). -/
def readTen (h : Here) (slot : Nat) (t : Ten) : Act Arr := do
  let s ← get
  let es := elemSize t.fmt
  match tenKeys s h slot t with
  | .error e => halt e
  | .ok ks =>
    let bs ← readKeys h ks
    let xs := (chunks (bs.length + 1) es bs).map joinBytes
    let sc ← if t.fmt = 2 then do
        match spanKeys s h slot t.sbase (t.sbase % 2 ^ 48) (4 * t.groups) with
        | .error e => halt e
        | .ok k2 => readKeys h k2
      else pure []
    let scs := (chunks (sc.length + 1) 4 sc).map joinBytes
    let tags := xs.map (·.2)
    pure { fmt := t.fmt, dims := t.dims, elems := xs.map (·.1), scales := scs.map (·.1), axis := t.axis, group := 2 ^ t.log2g,
           tags := if t.fmt = 2 then withScaleTags (groups t.dims t.axis (2 ^ t.log2g)) tags (scs.map (·.2)) else tags }

/-- The command's overlay with bytes written, each with its tag. Granules that the instruction covers whole take the OR of its
tags, others OR it into the tag they hold (R123). -/
def writeKeys (h : Here) (cells : List (Nat × Nat × Nat)) : Act Unit := do
  let s ← get
  let r ← getRun h
  match checkKeys s r true (cells.map (·.1)) with
  | .error e => halt e
  | .ok _ =>
    let grans := (cells.map (fun c => c.1 / 32)).eraseDups
    let tags := grans.foldl (fun l g =>
      let mine := cells.filter (fun c => c.1 / 32 == g)
      let t := tagAll (mine.map (fun c => c.2.2))
      let whole := ((mine.map (fun c => c.1)).eraseDups).length == 32
      let old := s.tagFor r (g * 32)
      kvSet l g (BitVec.ofNat 2 (if whole then t else tagOr old t))) r.outTags
    putRun h (fun r => { r with overlay := cells.foldl (fun l c => kvSet l c.1 (BitVec.ofNat 8 c.2.1)) r.overlay, outTags := tags })

/-- Element bytes with keys and tags. -/
def elemCells (es : Nat) (keys : List Nat) (elems tags : List Nat) : List (Nat × Nat × Nat) :=
  (keys.zip ((elems.zip tags).flatMap (fun x => (List.range es).map (fun i => (x.1 / 256 ^ i % 256, x.2))))).map
    (fun x => (x.1, x.2.1, x.2.2))

/-- A tensor's elements, and the scales of its groups, written to memory. -/
def writeTen (h : Here) (slot : Nat) (t : Ten) (a : Arr) : Act Unit := do
  let s ← get
  match tenKeys s h slot t with
  | .error e => halt e
  | .ok ks =>
    let sk ← if t.fmt = 2 && !a.scales.isEmpty then do
        match spanKeys s h slot t.sbase (t.sbase % 2 ^ 48) (4 * t.groups) with
        | .error e => halt e
        | .ok k2 => pure k2
      else pure []
    writeKeys h (elemCells (elemSize t.fmt) ks a.elems a.tags
      ++ elemCells 4 sk a.scales (groupTags a.scales.length ((groups t.dims t.axis (2 ^ t.log2g)).zip a.tags)))

/-! ## Scratchpad (R107 to R109, R123, R124) -/

/-- The slot of a logical core's scratchpad (log entry 14). -/
def slotOf (lead j l : Nat) : Nat := 128 * lead + 16 * j + l

/-- The unretired cores of a physical cluster (R127, R130). -/
def State.liveCores (s : State) (k : Nat) : List Nat :=
  if !s.present k then [] else
  (List.range 16).filter (fun c => !(((s.keystones[k]?).map (fun x => x.retired)).getD []).contains c)

/-- The physical core of a cluster that hosts logical core `l` of `L` (R154): lower-numbered cores take the larger share. -/
def hostCore (cores : List Nat) (L l : Nat) : Nat :=
  let u := cores.length
  if u = 0 then 0
  else if L ≤ u then (cores[l]?).getD 0
  else
    let big := L % u
    let n := L / u
    if l < big * (n + 1) then (cores[l / (n + 1)]?).getD 0 else (cores[big + (l - big * (n + 1)) / n]?).getD 0

/-- Whether a scratchpad offset lies in the range of a distributed tensor. -/
def Virt.covers (v : Virt) (o : Nat) : Bool := decide (v.base ≤ o) && decide (o < v.base + v.len)

/-- Whether the range of a distributed tensor meets a byte range. -/
def Virt.meets (v : Virt) (base len : Nat) : Bool := decide (v.base < base + len) && decide (base < v.base + v.len)

/-- The distributed tensor whose share a core holds at an offset: the one that was written last. -/
def Run.shareAt (r : Run) (o : Nat) : Option Virt := r.virts.find? (fun v => v.covers o)

/-- A byte of a core's scratchpad with its tag (R108): what pinned instructions and multicasts have written; where a distributed instruction
keeps its share, the translator's choice (log entry 69); zero in a granule that is not valid. -/
def scratchByte (h : Here) (r : Run) (s : State) (j l o : Nat) : Nat × Nat :=
  let slot := slotOf h.lead j l
  match kvGet s.scratchG (slot * 2 ^ 17 + o / 32) with
  | some t => ((memGet s.scratch (slot * 2 ^ 22 + o)).toNat, t.toNat)
  | none =>
    match r.shareAt o with
    | some v => ((Config.shareByte h.prog v.desc v.elems (16 * j + l) o).toNat, tagAll v.tags)
    | none => (0, 0)

/-- An armed injection of a bank strikes the first valid granule of it among those that a core reads: the granule is tagged PARITY, or the
tensor whose share it holds, and BLOT_RAISED names the core (R124, R130). -/
def State.strikeBank (s : State) (h : Here) (j l k core : Nat) (grans : List Nat) (bank : Nat) : State :=
  match s.runOf h.lead with
  | none => s
  | some r =>
    let slot := slotOf h.lead j l
    match grans.find? (fun g => g / 2 % 16 == bank && ((kvGet s.scratchG (slot * 2 ^ 17 + g)).isSome || (r.shareAt (32 * g)).isSome)) with
    | none => s
    | some g =>
      let no := 16 * k + core
      let s : State := { s with keystones := modNth s.keystones k (fun x => { x with inject := x.inject.filter (· != (core, bank)) }) }
      let s := match kvGet s.scratchG (slot * 2 ^ 17 + g) with
        | some old => { s with scratchG := kvSet s.scratchG (slot * 2 ^ 17 + g) (old ||| 1#2) }
        | none => s.setRun h.lead (fun r => { r with virts := r.virts.map (fun (v : Virt) =>
            if v.covers (32 * g) then { v with tags := v.tags.map (tagOr 1) } else v) })
      let s := s.setRun h.lead (fun r => { r with blotCores := if r.blotCores.contains no then r.blotCores else no :: r.blotCores })
      let s := s.count 1 (k / 8) no 15 1
      s.event (k / 8) kBlot r.ctx no 0#8 (leBytes 4 (32 * g))

/-- A read of scratchpad granules by their owner core: every armed injection of a bank that it touches strikes (R124, R130). -/
def strike (h : Here) (j l : Nat) (grans : List Nat) : Act Unit := fun s =>
  match s.runOf h.lead with
  | none => .ok ((), s)
  | some r =>
    let k := (r.clusters[j]?).getD h.lead
    let core := hostCore (s.liveCores k) (hCores h.prog) l
    let armed := ((((s.keystones[k]?).getD Keystone.reset).inject.filter (fun x => x.1 == core)).map (·.2)).eraseDups
    .ok ((), armed.foldl (fun s b => s.strikeBank h j l k core grans b) s)

/-- Scratchpad bytes of a logical core with their tags; an invalid granule reads as zeros, untagged (R108). -/
def readScratch (h : Here) (j l : Nat) (offs : List Nat) : Act (List (Nat × Nat)) := do
  strike h j l ((offs.map (· / 32)).eraseDups)
  let s ← get
  let r ← getRun h
  pure (offs.map (scratchByte h r s j l))

/-- Scratchpad bytes of a logical core written with tags (R108, R123). The tensors of distributed instructions that lie there are whole no
more. -/
def writeScratch (h : Here) (j l : Nat) (cells : List (Nat × Nat × Nat)) : Act Unit := fun s =>
  let slot := slotOf h.lead j l
  let r := (s.runOf h.lead).getD Run.blank
  let grans := (cells.map (fun c => c.1 / 32)).eraseDups
  let gs := grans.foldl (fun l' g =>
    let mine := cells.filter (fun c => c.1 / 32 == g)
    let t := tagAll (mine.map (fun c => c.2.2))
    let whole := ((mine.map (fun c => c.1)).eraseDups).length == 32
    kvSet l' (slot * 2 ^ 17 + g) (BitVec.ofNat 2 (if whole then t else tagOr (scratchByte h r s j l (32 * g)).2 t))) s.scratchG
  let fresh := grans.filter (fun g => (kvGet s.scratchG (slot * 2 ^ 17 + g)).isNone)
  let m := fresh.foldl (fun m g => (range' (32 * g) 32).foldl (fun m o =>
    memSet m (slot * 2 ^ 22 + o) (BitVec.ofNat 8 (scratchByte h r s j l o).1)) m) s.scratch
  let m := cells.foldl (fun m c => memSet m (slot * 2 ^ 22 + c.1) (BitVec.ofNat 8 c.2.1)) m
  let s : State := { s with scratch := m, scratchG := gs }
  .ok ((), s.setRun h.lead (fun r => { r with virts := r.virts.map (fun (v : Virt) =>
    if cells.any (fun c => v.covers c.1) then { v with live := false } else v) }))

/-- The byte offsets of a region's elements in row order; an element outside the region's slot stops with its offset (R109). -/
def Area.offs (a : Area) : Except Nat (List Nat) :=
  let es := elemSize a.fmt
  let os := (List.range a.rows).flatMap (fun r => (List.range a.cols).map (fun c => a.base + r * a.pitch + c * es))
  match os.find? (fun o => decide (o + es > a.base + a.room)) with
  | some o => .error o
  | none => .ok os

/-- The group that an SFP16 region's rows form: the whole row (R136). -/
def rowGroup (cols : Nat) : Nat := max 32 cols

/-- A region of a core read (R136). -/
def readArea (h : Here) (j l : Nat) (a : Area) : Act Arr := do
  match a.offs with
  | .error o => skip cAccess o
  | .ok os =>
    let es := elemSize a.fmt
    let bs ← readScratch h j l (os.flatMap (fun o => (List.range es).map (o + ·)))
    let xs := (chunks (bs.length + 1) es bs).map joinBytes
    let sb ← if a.fmt = 2 then readScratch h j l (range' (a.base + a.rows * a.pitch) (4 * a.rows)) else pure []
    let scs := (chunks (sb.length + 1) 4 sb).map joinBytes
    let tags := xs.map (·.2)
    pure { fmt := a.fmt, dims := [a.cols, a.rows], elems := xs.map (·.1), scales := scs.map (·.1), axis := 0, group := rowGroup a.cols,
           tags := if a.fmt = 2 then withScaleTags (groups [a.cols, a.rows] 0 (rowGroup a.cols)) tags (scs.map (·.2)) else tags }

/-- A region of a core written (R136). -/
def writeArea (h : Here) (j l : Nat) (a : Area) (v : Arr) : Act Unit := do
  match a.offs with
  | .error o => skip cAccess o
  | .ok os =>
    let es := elemSize a.fmt
    let ks := os.flatMap (fun o => (List.range es).map (o + ·))
    let sk := if a.fmt = 2 && !v.scales.isEmpty then range' (a.base + a.rows * a.pitch) (4 * a.rows) else []
    writeScratch h j l (elemCells es ks v.elems v.tags
      ++ elemCells 4 sk v.scales (groupTags v.scales.length ((groups [a.cols, a.rows] 0 (rowGroup a.cols)).zip v.tags)))

/-! ## Operands (R133, R140, R142, R143) -/

/-- Where an operand lies. -/
inductive Loc where
  | ten (t : Ten)
  | area (a : Area)
  deriving DecidableEq, Repr

/-- A resolved operand: descriptor index, slot in the word (A 0, B 1, C 2), place. -/
structure Opnd where
  ix   : Nat
  slot : Nat
  loc  : Loc
  deriving DecidableEq, Repr

/-- The descriptor index in a slot of a word. -/
def Word128.opnd (w : Word128) (slot : Nat) : Nat := if slot = 0 then w.a else if slot = 1 then w.b else w.c

/-- A descriptor that a word names, or the skip of R159. -/
def descOf (h : Here) (ix slot : Nat) : Act Bytes :=
  if ix = noDesc then skip cType slot
  else if ix ≥ hDescCount h.prog then skip cIndex slot
  else pure (descAt h.prog ix)

/-- Classes whose pinned instructions may name data in memory: MOVE, REDUCE, MEDIA with LEGACY (R142). -/
def pinsMemory (op : Nat) : Bool := op / 64 == 0 || op / 64 == 8 || op / 64 == 9

/-- The descriptor type of a tensor, and so on (R133). -/
def dtTensor : Nat := 1
def dtRegion : Nat := 2
def dtPages : Nat := 3
def dtKey : Nat := 4
def dtStream : Nat := 5
def dtCount : Nat := 6
def dtReduction : Nat := 7
def dtShard : Nat := 8
def dtSlotMap : Nat := 9
def dtStaging : Nat := 10

/-- The byte span of a tensor, lowest and one past the highest offset; empty for an empty tensor. -/
def Ten.span (t : Ten) : Nat × Nat :=
  if volume t.dims = 0 then (0, 0) else
  let r := reach t.dims t.steps
  let o := Int.ofNat (t.base % 2 ^ 48)
  ((o + r.1 * elemSize t.fmt).toNat, (o + (r.2 + 1) * elemSize t.fmt).toNat)

/-- Which slot of an opcode is its output in the sense of R143: A 0, B 1, C 2; none where it writes no operand. -/
def outSlot (op : Nat) : Option Nat :=
  if op = 0x000 then some 1
  else if op / 64 = 3 then some 2
  else if op / 64 = 4 then some 2
  else if op / 64 = 6 then some 2
  else if op = 0x1C0 then some 0
  else if op = 0x201 || op = 0x202 then some 0
  else if op / 64 = 9 then some 1
  else if op = 0x280 then some 0
  else if op / 64 = 14 then some 0
  else none

/-- The descriptors that a word names as data, each with whether it is read and whether it is written: the slots of R143, with the argmax of
POOL.MAX in OP_B (R208), the scales of a DRAIN in OP_C (R145), the prior content of VEC.FMA's output and of an ATTEND merge (R85, R180),
and what ATTEND names in its modifier and immediate (R179, R186). -/
def Word128.uses (w : Word128) : List (Nat × Bool × Bool) :=
  let slot := fun (sl : Nat) =>
    let wr := outSlot w.op == some sl || (w.op == 0x0C0 && sl == 1) || (w.op == 0x1C0 && sl == 2)
    let both := sl == 2 && (w.op == 0x181 || (w.op == 0x100 && w.form == 2))
    (w.opnd sl, !wr || both, wr)
  let more := if w.op = 0x101 then [(w.mod, true, false), (w.imm % 2 ^ 16, true, false), (w.imm / 2 ^ 16, false, true)]
    else if w.op = 0x100 || w.op = 0x102 then [(w.mod, false, true)] else []
  ([slot 0, slot 1, slot 2] ++ more).filter (fun x => x.1 != noDesc)

/-- Whether bytes of space 3 lie in the cluster-memory window above its working area (R212, R213). -/
def inResident (t : Ten) : Bool :=
  gSpace (BitVec.ofNat 64 t.base) == 3 && inCluWindow t.span.1 && decide (t.span.2 % 2 ^ 24 > 0x400000 ∨ t.span.2 % 2 ^ 24 = 0)

/-- Whether a written resident map overlaps one that the command reads (R214). -/
def overlapsRead (h : Here) (t : Ten) : Bool :=
  inResident t &&
  (List.range h.cmd.count).any (fun k =>
    (wordAt h.prog (h.cmd.first + k)).uses.any (fun x =>
      x.2.1 && decide (x.1 < hDescCount h.prog) && num (descAt h.prog x.1) 0 1 == dtTensor &&
      match parseTen (descAt h.prog x.1) h.args with
      | some u => inResident u && u.base / 2 ^ 48 == t.base / 2 ^ 48 && decide (u.span.1 < t.span.2) && decide (t.span.1 < u.span.2)
      | none => false))

/-- Whether a tensor lies in such a region, with its elements or its scales. -/
def leaseBars (s : State) (h : Here) (t : Ten) : Bool :=
  leaseBarAt s h (t.base / 2 ^ 48 * 2 ^ 48 + t.span.1) (t.span.2 - t.span.1) || (t.fmt == 2 && leaseBarAt s h t.sbase (4 * t.groups))

/-- An operand resolved under R133, R135, R136, R138, R140 and R142. -/
def opndAt (h : Here) (ix slot : Nat) (wr : Bool) : Act Opnd := do
  let d ← descOf h ix slot
  if num d 0 1 = dtTensor then
    need (h.pin.isNone || pinsMemory h.w.op) cType slot
    match parseTen d h.args with
    | none => skip cDesc slot
    | some t => do
      let s ← get
      need (!leaseBars s h t) cDesc slot
      if wr then
        need (h.cmd.outs.contains ix && t.access.testBit 2) cNotOut slot
        need (!overlapsRead h t) cDesc slot
        pure { ix := ix, slot := slot, loc := .ten t }
      else pure { ix := ix, slot := slot, loc := .ten t }
  else if num d 0 1 = dtRegion then
    match parseArea d with
    | none => skip cDesc slot
    | some a => do
      need (a.access.testBit (if wr then 1 else 0)) cAccess a.base
      pure { ix := ix, slot := slot, loc := .area a }
  else skip cType slot

/-- The operand in a slot of the word. -/
def opnd (h : Here) (slot : Nat) (wr : Bool) : Act Opnd := opndAt h (h.w.opnd slot) slot wr

/-- An optional operand. -/
def opndOpt (h : Here) (slot : Nat) : Act (Option Opnd) :=
  if h.w.opnd slot = noDesc then pure none else do
    let o ← opnd h slot false
    pure (some o)

/-- The format of an operand. -/
def Opnd.fmt (o : Opnd) : Nat := match o.loc with
  | .ten t => t.fmt
  | .area a => a.fmt

/-- The tensor identifier that keys draws (R79, R134, R136). -/
def Opnd.ident (o : Opnd) : Nat := match o.loc with
  | .ten t => t.ident % 2 ^ 30
  | .area a => a.ident % 2 ^ 30

/-- Where a destination keeps its scales: axis and group. -/
def Opnd.grouping (o : Opnd) (dims : List Nat) : Nat × Nat :=
  match o.loc with
  | .ten t => (t.axis, 2 ^ t.log2g)
  | .area _ => (0, rowGroup ((dims[0]?).getD 1))

/-- Whether an operand is a REGION. -/
def Opnd.isArea (o : Opnd) : Bool := match o.loc with
  | .ten _ => false
  | .area _ => true

/-- The whole tensor that distributed instructions keep in the byte range of a REGION, if nothing has been written over it (R142, R149). -/
def Run.virt (r : Run) (a : Area) : Option Virt :=
  r.virts.find? (fun v => v.live && v.base == a.base && v.len == a.len && v.format == a.fmt)

/-- Every logical core of a command, as logical cluster and core. -/
def Here.allCores (h : Here) : List (Nat × Nat) :=
  (List.range h.cmd.ncl).flatMap (fun j => (List.range (hCores h.prog)).map (fun l => (j, l)))

/-- The bytes and tensors that stand in the range of a REGION on the command's cores. -/
def rangeContents (h : Here) (r : Run) (s : State) (a : Area) : List Nat :=
  (r.virts.filter (fun v => v.meets a.base a.len)).flatMap (fun v => v.elems ++ v.scales)
    ++ h.allCores.flatMap (fun x =>
      let lo := slotOf h.lead x.1 x.2 * 2 ^ 22 + a.base
      (s.scratch.filter (fun c => decide (lo ≤ c.1) && decide (c.1 < lo + a.len))).flatMap (fun c => [c.1 - lo, c.2.toNat]))

/-- The tags of what stands in the range of a REGION on the command's cores; none where no granule of it is valid. -/
def rangeTags (h : Here) (r : Run) (s : State) (a : Area) : List Nat :=
  (r.virts.filter (fun v => v.meets a.base a.len)).map (fun v => tagAll v.tags)
    ++ h.allCores.flatMap (fun x =>
      let lo := slotOf h.lead x.1 x.2 * 2 ^ 17
      (s.scratchG.filter (fun g => decide (lo + a.base / 32 ≤ g.1) && decide (32 * (g.1 - lo) < a.base + a.len))).map (fun g => g.2.toNat))

/-- A REGION read by a distributed instruction (R108, R109, R124, R142): the whole tensor kept in its range; zeros in its own view where
nothing has been written; otherwise a free value for every element (log entry 69). Every core of the command reads its part. -/
def fetchSpread (h : Here) (ix : Nat) (a : Area) : Act Arr := do
  for x in h.allCores do
    strike h x.1 x.2 (range' (a.base / 32) (ceilDiv (a.base % 32 + a.len) 32))
  let s ← get
  let r ← getRun h
  match r.virt a with
  | some v => pure { fmt := v.format, dims := v.shape, elems := v.elems, tags := v.tags, scales := v.scales, axis := v.axis, group := v.group }
  | none =>
    match a.offs with
    | .error o => skip cAccess o
    | .ok _ =>
      let n := a.cols * a.rows
      let tags := rangeTags h r s a
      let all := rangeContents h r s a
      let elem := fun (size k : Nat) => if tags.isEmpty then 0 else Config.regionElem h.prog ix all k % 256 ^ size
      pure { fmt := a.fmt, dims := [a.cols, a.rows], elems := (List.range n).map (elem (elemSize a.fmt)),
             tags := List.replicate n (tagAll tags), scales := if a.fmt = 2 then (List.range a.rows).map (fun k => elem 4 (n + k)) else [],
             axis := 0, group := rowGroup a.cols }

/-- A tensor kept as a whole in the byte range of a REGION (R142): nothing else stands there whole any more. -/
def keepSpread (h : Here) (ix : Nat) (a : Area) (v : Arr) : Act Unit :=
  putRun h (fun r =>
    let rest := (r.virts.filter (fun x => !(x.base == a.base && x.len == a.len))).map (fun x =>
      if x.meets a.base a.len then { x with live := false } else x)
    { r with virts := { desc := ix, base := a.base, len := a.len, live := true, format := v.fmt, shape := v.dims, elems := v.elems,
                        scales := v.scales, axis := v.axis, group := v.group, tags := v.tags } :: rest })

/-- A REGION written by a distributed instruction (R109, R142): the tensor must fit the declared bytes of the command's cores, a hand-over
region taking it tile by tile; each core's own bytes there are its share from now on. -/
def storeSpread (h : Here) (ix : Nat) (a : Area) (v : Arr) : Act Unit := do
  need (a.slots != 0 || decide (v.elems.length * elemSize v.fmt + 4 * v.scales.length ≤ a.len * h.allCores.length)) cAccess (a.base + a.len)
  modify (fun s => { s with scratchG := s.scratchG.filter (fun g =>
    !(g.1 / 2 ^ 24 == h.lead && decide (a.base / 32 ≤ g.1 % 2 ^ 17) && decide (32 * (g.1 % 2 ^ 17 + 1) ≤ a.base + a.len))) })
  keepSpread h ix a v

/-- The shape of an operand: a tensor's, a region's view, or in distributed form that of the whole tensor kept under it. -/
def dimsOf (h : Here) (o : Opnd) : Act (List Nat) := do
  match o.loc with
  | .ten t => pure t.dims
  | .area a =>
    if h.pin.isSome then pure [a.cols, a.rows] else do
      let r ← getRun h
      pure (((r.virt a).map (fun v => v.shape)).getD [a.cols, a.rows])

/-- An operand read. -/
def fetch (h : Here) (o : Opnd) : Act Arr := do
  match o.loc with
  | .ten t => readTen h o.slot t
  | .area a =>
    match h.pin with
    | some (_, j, l) => readArea h j l a
    | none => fetchSpread h o.ix a

/-- The shape an output has before it is written: for a distributed REGION the shape of what comes. -/
def outDims (h : Here) (o : Opnd) (coming : List Nat) : List Nat :=
  match o.loc with
  | .ten t => t.dims
  | .area a => if h.pin.isSome then [a.cols, a.rows] else coming

/-- An operand written, in element order. -/
def store (h : Here) (o : Opnd) (a : Arr) : Act Unit :=
  match o.loc with
  | .ten t => writeTen h o.slot t a
  | .area r =>
    match h.pin with
    | some (_, j, l) => writeArea h j l r a
    | none => storeSpread h o.ix r a

/-! ## Counts (R94) -/

/-- The counts of one output descriptor raised. -/
def bumpAt (h : Here) (ix : Nat) (f : Counts → Counts) : Act Unit :=
  putRun h (fun r =>
    if r.counts.any (fun c => c.desc == ix) then { r with counts := r.counts.map (fun c => if c.desc == ix then f c else c) }
    else { r with counts := r.counts ++ [f { desc := ix, overflow := 0, underflow := 0, nan := 0, saturated := 0, emptyRows := 0,
                                             inexactLow := 0, elements := 0 }] })

/-- The counts of an output operand raised. -/
def bump (h : Here) (o : Opnd) (f : Counts → Counts) : Act Unit := bumpAt h o.ix f

/-- Elements written to an output (R95). -/
def bumpElements (h : Here) (ix n : Nat) : Act Unit := bumpAt h ix (fun c => { c with elements := sat32 c.elements n })

/-- How many elements of results raise a count. -/
def tally (l : List Res) (p : Res → Bool) : Nat := (l.filter p).length

/-- The counts of floating or integer results of a format (R94): NaN by the code written. -/
def bumpRes (h : Here) (o : Opnd) (rs : List Res) : Act Unit :=
  let w := o.fmt == fFp32
  let isN := fun (r : Res) => (o.fmt == fFp16 || o.fmt == fFp32 || o.fmt == fSfp16) && isNan w r.bits
  bump h o (fun c => { c with overflow := sat32 c.overflow (tally rs (·.ovf)), underflow := sat32 c.underflow (tally rs (·.unf)),
                              nan := sat32 c.nan (tally rs isN), saturated := sat32 c.saturated (tally rs (·.sat)),
                              inexactLow := sat32 c.inexactLow (tally rs (·.inex)), elements := sat32 c.elements rs.length })

/-- Results written to an output, with their counts. -/
def storeRes (h : Here) (o : Opnd) (dims : List Nat) (rs : List Res) (tags : List Nat) : Act Unit := do
  store h o (Arr.of o.fmt dims (rs.map (·.bits)) tags)
  bumpRes h o rs

/-! ## Keys (R137, R145, R147) -/

/-- The quill key of a KEY descriptor, or the skip KEY_MISSING where none is named (R159). -/
def keyAt (h : Here) (ix slot : Nat) : Act Quad :=
  if ix = noDesc then skip cKey 0
  else if ix ≥ hDescCount h.prog then skip cIndex slot
  else
    let d := descAt h.prog ix
    if num d 0 1 ≠ dtKey then skip cType slot
    else match parseKey d with
      | none => skip cDesc slot
      | some (k, _) => pure (quadOf k)

/-- The words for the elements of an output under a key and purpose (R79, R83): a REGION counts its elements from the place of its
core among the named ones, and in distributed form it is skipped with LCORES. -/
def draws (h : Here) (key : Quad) (purpose : Nat) (o : Opnd) (n : Nat) : Act (List Nat) := do
  let r ← getRun h
  match o.loc, h.pin with
  | .area _, none => skip cLcores 0
  | .area a, some (p, _, _) =>
    pure ((List.range n).map (fun e => quillWord key purpose o.ident (p * (a.rows * a.cols) + e) r.step))
  | .ten _, _ => pure ((List.range n).map (fun e => quillWord key purpose o.ident e r.step))

end Sys2Proof.Machine
end

