-- ==== Sys2Proof/Machine/Scoreboard.lean ====
section
/-! DEFINITION. The region scoreboard (R109 to R111): the regions that a word declares, when a word may issue, and in which order words that
have issued have their effects where R110 leaves it to other rules. -/

namespace Sys2Proof.Machine

/-! ## Words by kind -/

/-- Words that order the whole command: SYNC and CHAIN. -/
def Word128.orders (w : Word128) : Bool := w.op == 0x2C0 || w.op / 64 == 12

/-- LEASE words. -/
def Word128.leases (w : Word128) : Bool := w.op / 64 == 13

/-- MEDIA and LEGACY words, which act once for their command (R283). -/
def Word128.isMedia (w : Word128) : Bool := w.op / 64 == 9

/-- Words that write or read accumulators: MATMUL, CONV, ATTEND and DRAIN (R145). -/
def Word128.accumulates (w : Word128) : Bool := w.op / 64 == 1 || w.op / 64 == 2 || w.op / 64 == 4 || w.op == 0x1C0

/-- A multicast MOVE (R116). -/
def Word128.casts (w : Word128) : Bool := w.op == 0x000 && w.form == 1

/-- Whether a descriptor that a word names lies outside the scratchpad. -/
def outsideCore (p : Bytes) (ix : Nat) : Bool := decide (ix < hDescCount p) && num (descAt p ix) 0 1 != dtRegion

/-- Whether an operand of a word names something outside the scratchpad. -/
def touchesMemory (p : Bytes) (w : Word128) : Bool := w.uses.any (fun x => outsideCore p x.1)

/-- Whether an output of a word lies outside the scratchpad; of a word without an output slot, whatever it names. -/
def writesMemory (p : Bytes) (w : Word128) : Bool :=
  w.uses.any (fun x => (x.2.2 || (outSlot w.op).isNone || w.isMedia) && outsideCore p x.1)

/-! ## Regions (R109, R111) -/

/-- Mask of logical cores of a command: `per` in each logical cluster that `clu` names. -/
def coreMask (ncl clu per : Nat) : Nat :=
  (List.range ncl).foldl (fun n j => if clu.testBit j then n + per % 65536 * 2 ^ (16 * j) else n) 0

/-- The logical cores that a word runs on: all in distributed form, the named ones of each cluster when pinned (R142). -/
def coresOf (cmd : CmdEntry) (w : Word128) : Nat := coreMask cmd.ncl (2 ^ cmd.ncl - 1) (if w.lc = 0 then 0xFFFF else w.lc)

/-- The logical cores whose scratchpad an operand of a word names: those it runs on; for what a multicast writes, those it reaches (R116). -/
def reachedBy (cmd : CmdEntry) (w : Word128) (written : Bool) : Nat :=
  if w.casts && written && w.lc != 0 then coreMask cmd.ncl (w.imm / 2 ^ 16) w.imm else coresOf cmd w

/-- The hand-over regions of the chain that a word lies in: its descriptors, between the CHAIN.BEGIN before it and the CHAIN.END after it
(R113). -/
def chainDescs (p : Bytes) (cmd : CmdEntry) (ix : Nat) : List Nat :=
  let ops := fun (l : List Nat) => l.map (fun k => (wordAt p k).op)
  let before := ops (range' cmd.first (ix - cmd.first))
  let after := ops (range' ix (cmd.first + cmd.count - ix))
  if before.contains 0x300 && !before.contains 0x302 && after.contains 0x302 then
    (List.range cmd.count).filterMap (fun k =>
      let w := wordAt p (cmd.first + k)
      if w.op = 0x301 ∧ w.b ≠ noDesc then some w.b else none)
  else []

/-- The region of a descriptor that is one, with its bytes (R109). -/
def regionAt (p : Bytes) (ix cores : Nat) (written : Bool) : Option Region :=
  if ix < hDescCount p ∧ num (descAt p ix) 0 1 = dtRegion then
    (parseArea (descAt p ix)).map (fun a => { base := a.base, len := a.len, written := written, cores := cores })
  else none

/-- Regions with those of the same bytes taken together: one that is read and written is one entry, marked written (R111). -/
def joinRegions (l : List Region) : List Region :=
  l.foldl (fun acc g =>
    if acc.any (fun x => x.base == g.base && x.len == g.len) then
      acc.map (fun x => if x.base == g.base && x.len == g.len then { x with written := x.written || g.written, cores := x.cores ||| g.cores } else x)
    else acc ++ [g]) []

/-- The regions that a word declares (R109): a region of length 0 takes no entry (R111); a hand-over region is its chain's, declared by the
chain's CHAIN.BEGIN (R113). -/
def regionsOf (p : Bytes) (cmd : CmdEntry) (w : Word128) : List Region :=
  let mine := chainDescs p cmd w.ix
  let own := if w.op = 0x300 then (chainDescs p cmd (w.ix + 1)).filterMap (fun ix => regionAt p ix (coresOf cmd w) true)
    else w.uses.filterMap (fun x => if mine.contains x.1 then none else regionAt p x.1 (reachedBy cmd w x.2.2) x.2.2)
  joinRegions (own.filter (fun g => g.len != 0))

/-! ## Issue (R110, R111) -/

/-- Two regions conflict: on a core of both they share a byte, and one of them is written (R110). -/
def regionsClash (p q : Region) : Bool :=
  decide (p.base < q.base + q.len) && decide (q.base < p.base + p.len) && (p.written || q.written) && p.cores &&& q.cores != 0

/-- Whether an instruction must wait for an earlier running one, by the regions of the two (R110). -/
def mustWait (i j : List Region) : Bool := i.any (fun p => j.any (fun q => regionsClash p q))

/-- Whether regions fit among the 64 live ones of each of their cores (R111). -/
def regionsFit (live : List Region) (new : List Region) : Bool :=
  (List.range 128).all (fun k =>
    let on := fun (l : List Region) => (l.filter (fun g => g.cores.testBit k)).length
    on new == 0 || decide (on live + on new ≤ 64))

/-- The live regions of a command: those of its running instructions, and the hand-over regions of its open chain (R110, R113). -/
def Run.live (r : Run) (p : Bytes) (cmd : CmdEntry) : List Region :=
  r.issued.flatMap (·.regions) ++ (match r.chain with
    | some c => (c.regions.filterMap (fun x => regionAt p x.desc (coresOf cmd (wordAt p c.begin)) true)).filter (fun g => g.len != 0)
    | none => [])

/-- Whether the scoreboard lets a word issue (R110, R111). A word of the open chain is not held by the chain's own regions (R113). -/
def Run.mayIssue (r : Run) (p : Bytes) (cmd : CmdEntry) (w : Word128) : Bool :=
  let new := regionsOf p cmd w
  let live := r.live p cmd
  let held := if (chainDescs p cmd w.ix).isEmpty then live else r.issued.flatMap (·.regions)
  !mustWait held new && regionsFit live new

/-- The first word of a list, in program order, that may issue: one is held behind every held word before it that runs on one of its cores
(R110). `held` are the cores of held words. -/
def Run.firstFree (r : Run) (p : Bytes) (cmd : CmdEntry) : Nat → List Nat → Option Nat
  | _, [] => none
  | held, k :: t =>
    let c := coresOf cmd (wordAt p k)
    if c &&& held = 0 ∧ r.mayIssue p cmd (wordAt p k) then some k else r.firstFree p cmd (held ||| c) t

/-- The instructions of a command that have not issued. -/
def Run.unissued (r : Run) (cmd : CmdEntry) : List Nat :=
  (range' r.next (cmd.first + cmd.count - r.next)).filter (fun k => !r.ahead.contains k)

/-- The first index from `n` on that a list does not hold. -/
def skipPast (l : List Nat) : Nat → Nat → Nat
  | 0, n => n
  | f + 1, n => if l.contains n then skipPast l f (n + 1) else n

/-- The command after an instruction has issued. -/
def Run.passed (r : Run) (k : Nat) : Run :=
  let l := k :: r.ahead
  let n := skipPast l l.length r.next
  { r with next := n, ahead := l.filter (fun x => decide (n ≤ x)) }

/-! ## Order beside the scoreboard -/

/-- Whether word `j` has its effect only after the earlier word `i`: SYNC and CHAIN order their whole command (R148, R149); an access to
memory follows the LEASE words before it (R240), and media words and memory accesses each other where one of them writes (log entry 28); a
distributed instruction reads what the distributed ones before it wrote (R142); a core's accumulators are filled and drained in program
order (R102, R103, R145). -/
def mustFollow (p : Bytes) (i j : Word128) : Bool :=
  if i.orders || j.orders then true
  else if j.leases then i.leases && i.a == j.a
  else if i.leases then touchesMemory p j
  else if i.isMedia || j.isMedia then (i.isMedia || touchesMemory p i) && (j.isMedia || touchesMemory p j)
  else
    (i.lc == 0 && j.lc == 0)
      || (i.accumulates && j.accumulates && (i.lc == 0 || j.lc == 0 || i.lc &&& j.lc != 0))
      || (touchesMemory p i && touchesMemory p j && (writesMemory p i || writesMemory p j))

/-- The instructions before one that have not completed. -/
def Run.before (r : Run) (i : Nat) : List Nat :=
  (r.issued.map (·.index)).filter (fun k => decide (k < i)) ++ (range' r.next (i - r.next)).filter (fun k => !r.ahead.contains k)

/-- Whether an instruction waits for one before it that has not completed (R142, R145, R149, R240). -/
def Run.follows (r : Run) (p : Bytes) (i : Nat) : Bool := (r.before i).any (fun k => mustFollow p (wordAt p k) (wordAt p i))

end Sys2Proof.Machine
end

