-- ==== Sys2Proof/Machine/Estimate.lean ====
section
/-! DEFINITION. The translator's estimate of a command's busy time and the pieces that it cuts a command into (R156, log entry 10). -/

namespace Sys2Proof.Machine

/-- The arguments that the translator reckons with: an extent that an argument binds has no value at load (log entry 10). -/
def assumedArgs (p : Bytes) (cmd : Nat) : List Nat := (List.range 8).map (fun k => (Config.assumedArg p cmd k).toNat)

/-- The format and extents of what a descriptor names; nothing where there is no data. -/
def extentsOf (p : Bytes) (args : List Nat) (ix : Nat) : Nat × List Nat :=
  if ix ≥ hDescCount p then (0, [])
  else if num (descAt p ix) 0 1 = dtTensor then ((parseTen (descAt p ix) args).map (fun t => (t.fmt, t.dims))).getD (0, [])
  else if num (descAt p ix) 0 1 = dtRegion then ((parseArea (descAt p ix)).map (fun a => (a.fmt, [a.cols, a.rows]))).getD (0, [])
  else (0, [])

/-- The elements of what a descriptor names, and its bytes. -/
def elemsOf (p : Bytes) (args : List Nat) (ix : Nat) : Nat :=
  let x := extentsOf p args ix
  if x.2.isEmpty then 0 else volume x.2

def bytesOf (p : Bytes) (args : List Nat) (ix : Nat) : Nat := elemsOf p args ix * elemSize (extentsOf p args ix).1

/-- Output blocks of 64 × 64 (R99). -/
def quadBlocks (rows cols : Nat) : Nat := ceilDiv rows 64 * ceilDiv cols 64

/-- Engine beats of a contraction index: 4 in an FP32 class (R98). -/
def indexBeats (form : Nat) : Nat := if form = 1 then 4 else 1

/-- MATMUL: whole output blocks over the cores, each contracting over K, or reloading a spilled set of 256 beats where that takes longer
(R98, R99, R104). -/
def matmulBeats (p : Bytes) (args : List Nat) (n : Nat) (w : Word128) : Nat :=
  let a := (extentsOf p args w.a).2
  let b := (extentsOf p args w.b).2
  let at' := fun (l : List Nat) (k : Nat) => if l.isEmpty then 0 else (l[k]?).getD 1
  let (k, m) := if w.mod.testBit 1 then (at' a 1, at' a 0) else (at' a 0, at' a 1)
  let cols := if w.mod.testBit 2 then at' b 1 else at' b 0
  ceilDiv (quadBlocks m cols) n * max (k * indexBeats w.form) (if w.c = noDesc then 0 else 256)

/-- Width, height and images of a map's extents in a layout (R192). -/
def mapExtent (layout : Nat) (d : List Nat) : Nat × Nat × Nat :=
  let at' := fun (k : Nat) => (d[k]?).getD 1
  match layout with
  | 0 => (at' 0, at' 1, at' 3)
  | 1 => (at' 1, at' 2, at' 3)
  | _ => (at' 1, at' 2, at' 4)

/-- The channels of a map's extents in a layout, all lanes of a blocked one (R192). -/
def mapChans (layout : Nat) (d : List Nat) : Nat :=
  let at' := fun (k : Nat) => (d[k]?).getD 1
  match layout with
  | 0 => at' 2
  | 1 => at' 0
  | _ => at' 0 * at' 3

/-- CONV: as a product of its positions by its channels; minimal filtering multiplies 16 points for 4 outputs, or 36 for 16, and takes the
general port's time for its transforms where that is longer (R98, R99, R107, R197, R205). -/
def convBeats (p : Bytes) (args : List Nat) (n : Nat) (w : Word128) : Nat :=
  let pass := w.mod % 4
  let g := fun (o k : Nat) => num (sub p (hConstOff p + w.imm + o) k) 0 k
  let (mw, mh, ms) := mapExtent (w.mod / 4 % 4) (extentsOf p args w.a).2
  let f := if pass = 2 then
      [mapChans (w.mod / 4 % 4) (extentsOf p args w.a).2, g 13 1, g 12 1, mapChans (w.mod / 16 % 4) (extentsOf p args w.b).2]
    else (extentsOf p args w.b).2
  let at' := fun (k : Nat) => if f.isEmpty then 0 else (f[k]?).getD 1
  let taps := at' 1 * at' 2
  let out := ms * ((mw + 2 * g 6 2) / max 1 (g 1 1)) * ((mh + 2 * g 4 2) / max 1 (g 0 1))
  let small := if w.op = 0x081 then 4 else if w.op = 0x082 then 16 else 0
  if small ≠ 0 ∧ pass ≠ 2 then
    let engine := ceilDiv (quadBlocks (ceilDiv out small) (at' 3)) n * (if small = 4 then 16 else 36) * at' 0
    let port := ceilDiv (out * (if small = 4 then 16 * at' 0 + 18 * at' 3 else 9 * at' 0 + 11 * at' 3)) (128 * n)
    max engine port
  else
    let beats := match pass with
      | 0 => ceilDiv (quadBlocks out (at' 3)) n * (at' 0 * taps)
      | 1 => ceilDiv (quadBlocks (ms * g 16 4 * g 20 4) (at' 0)) n * (at' 3 * taps)
      | _ => ceilDiv (quadBlocks (at' 3) (at' 0 * taps)) n * out
    beats * indexBeats w.form

/-- DRAIN: the accumulator port's beats for each block (R104). -/
def drainBeats (p : Bytes) (args : List Nat) (n : Nat) (w : Word128) : Nat :=
  let d := (extentsOf p args w.a).2
  let at' := fun (k : Nat) => if d.isEmpty then 0 else (d[k]?).getD 1
  ceilDiv (quadBlocks (volume (d.drop 1)) (at' 0)) n * (match w.form with | 0 => 32 | 1 => 64 | 2 => 64 | 3 => 128 | _ => 256)

/-- The elements that a vector operation processes in a beat (R112). -/
def vecRate (w : Word128) (fmt : Nat) : Nat :=
  match w.op with
  | 0x180 => if w.form = 5 then 16 else if fmt = fFp16 then 128 else 64
  | 0x182 => if w.form = 12 then 16 else 32
  | 0x184 => 64
  | 0x185 => 128
  | _ => if fmt = fFp16 then 128 else 64

/-- A vector operation: its unit's beats, or the general port's where they are more (R107, R112). -/
def vecBeats (p : Bytes) (args : List Nat) (n : Nat) (w : Word128) : Nat :=
  let l := [w.a, w.b, w.c].filter (· != noDesc)
  let elems := (l.map (elemsOf p args)).foldl max 0
  let bytes := (l.map (bytesOf p args)).foldl (· + ·) 0
  max (ceilDiv elems (vecRate w (extentsOf p args w.a).1 * n)) (ceilDiv bytes (128 * n))

/-- The beats of an instruction's busiest unit (R156). CHAIN, SYNC and LEASE words and media words are no core beats (R288); what passes the
general port takes its time there at least; for transfers and the units whose rate no rule gives the count is open (log entry 10). -/
def wordBeats (p : Bytes) (cmd : Nat) (w : Word128) : Nat :=
  let e := cmdAt p cmd
  let args := assumedArgs p cmd
  let n := if w.lc = 0 then max 1 (e.ncl * hCores p) else 1
  if w.orders || w.leases || w.isMedia then 0
  else if w.op = 0x040 then matmulBeats p args n w
  else if w.op / 64 = 2 then convBeats p args n w
  else if w.op = 0x1C0 then drainBeats p args n w
  else if w.op / 8 = 0x30 then vecBeats p args n w
  else if w.op = 0x000 ∨ w.op = 0x280 then
    max (ceilDiv (max (bytesOf p args w.a) (bytesOf p args w.b)) (128 * n)) (Config.unitBeats p cmd w.ix)
  else Config.unitBeats p cmd w.ix

/-- The estimate over a command's words: instructions one after the other, the stages of a chain beside each other, so that its busiest
counts (R113, R156). -/
def beatsFrom (p : Bytes) (cmd : Nat) : Option Nat → List Nat → Nat
  | open', [] => open'.getD 0
  | none, k :: t =>
    let w := wordAt p k
    if w.op = 0x300 then beatsFrom p cmd (some 0) t else wordBeats p cmd w + beatsFrom p cmd none t
  | some m, k :: t =>
    let w := wordAt p k
    if w.op = 0x302 then m + beatsFrom p cmd none t else beatsFrom p cmd (some (max m (wordBeats p cmd w))) t

/-- The translator's estimate of a command in beats (R156). -/
def estimate (p : Bytes) (cmd : Nat) : Nat :=
  let e := cmdAt p cmd
  beatsFrom p cmd none (range' e.first e.count)

/-- How many pieces the translator cuts a command into (R156): the fewest that each stay within 184000 beats, which is a whole number of the
32-beat blocks between which it may cut. -/
def piecesOf (p : Bytes) (cmd : Nat) : Nat := max 1 (ceilDiv (estimate p cmd) 184000)

/-- The page-table roots that a command keeps (R163): one of each PAGE_TABLE that its words name, for ATTEND.MIXED one of each batch entry. -/
def rootsKept (p : Bytes) (cmd : Nat) : Nat :=
  let e := cmdAt p cmd
  let args := assumedArgs p cmd
  let l := ((range' e.first e.count).filterMap (fun k =>
    let w := wordAt p k
    let ix := if w.op = 0x140 then w.c else w.b
    if (w.op / 64 = 4 ∨ w.op = 0x140) ∧ ix < hDescCount p ∧ num (descAt p ix) 0 1 = dtPages then some (ix, w.op == 0x102) else none)).eraseDups
  (l.map (fun x => if x.2 then bytesOf p args (num (descAt p x.1) 14 2) / 32 else 1)).foldl (· + ·) 0

/-- The bytes of the rows that a command's SCATTER_KV words hold until it commits (R185). -/
def rowsHeld (p : Bytes) (cmd : Nat) : Nat :=
  let e := cmdAt p cmd
  ((range' e.first e.count).map (fun k => if (wordAt p k).op = 0x140 then bytesOf p (assumedArgs p cmd) (wordAt p k).a else 0)).foldl (· + ·) 0

/-- A split command's need of staging (R157). -/
def stagingNeed (p : Bytes) (cmd : Nat) : Nat :=
  if piecesOf p cmd = 1 then 0 else
    96 + 32 * (cmdAt p cmd).outs.length + 8 * rootsKept p cmd + 16 * Config.carriedWords p cmd + rowsHeld p cmd

end Sys2Proof.Machine
end

