-- ==== Sys2Proof/WellFormed.lean ====
section
/-! DEFINITION. Which commands name units that the package has (R9, R17, R18, R22, R54, R373). A meaning makes the same checks
itself and stops with `noSuchUnit` where one fails. -/

namespace Sys2Proof

/-- Physical clusters 0 to 63 (R18). -/
def clusterOk (k : Nat) : Bool := decide (k < 64)
/-- Tensor engines 0 to 4095 (R17). -/
def engineOk (e : Nat) : Bool := decide (e < 4096)
/-- Hub dies 8 and 9 (R9). -/
def hubOk (h : Nat) : Bool := h == 8 || h == 9
/-- Dies 0 to 9 (R9). -/
def dieOk (d : Nat) : Bool := decide (d < 10)
/-- Lintel ports 0 to 29 (R22). -/
def portOk (n : Nat) : Bool := decide (n < 30)
/-- Contexts 0 to 63 (R373). -/
def ctxOk (c : Nat) : Bool := decide (c < 64)

/-- The counted units of a die (R54): class and unit number. Core and cluster numbers count through the package (R18), far-memory
controllers are 4 to 11 of their hub (R317), ports 0 to 29, four mortar units and ten media engines on each hub. -/
def unitOk (u : UnitId) : Bool :=
  match u.cls with
  | 1 => decide (u.die < 8) && u.idx / 128 == u.die
  | 2 => decide (u.die < 8) && u.idx / 8 == u.die
  | 3 => hubOk u.die && decide (u.idx < 4)
  | 4 => hubOk u.die && decide (4 ≤ u.idx) && decide (u.idx < 12)
  | 5 => hubOk u.die && u.idx / 15 == u.die - 8
  | 6 => hubOk u.die && decide (u.idx < 4)
  | 7 => hubOk u.die && decide (u.idx < 10)
  | _ => false

/-- The die-to-die links: column and row pairs and hub ports (R20, R23). -/
def d2dPairs : List (Nat × Nat) :=
  [(0, 1), (2, 3), (4, 5), (6, 7), (0, 2), (2, 4), (4, 6), (1, 3), (3, 5), (5, 7), (0, 8), (1, 8), (2, 8), (3, 8), (4, 9), (5, 9), (6, 9), (7, 9)]
/-- Whether a master exists: control cores 0 to 3 of the hubs. -/
def masterOk : Master → Bool
  | .core hub k => hubOk hub && decide (k < 4)
  | _ => true
/-- Whether a command names only units that exist. -/
def Instr.wf : Instr → Bool
  | .move c _ => clusterOk c
  | .moveMulticast c _ => clusterOk c
  | .moveFill c _ => clusterOk c
  | .matmul c _ => clusterOk c
  | .convDirect c _ => clusterOk c
  | .convMin2 c _ => clusterOk c
  | .convMin4 c _ => clusterOk c
  | .convS2c c _ => clusterOk c
  | .convC2s c _ => clusterOk c
  | .poolMax c _ => clusterOk c
  | .poolAvg c _ => clusterOk c
  | .poolMaxBwd c _ => clusterOk c
  | .poolAvgBwd c _ => clusterOk c
  | .attendFwd c _ => clusterOk c
  | .attendBwd c _ => clusterOk c
  | .attendMixed c _ => clusterOk c
  | .scatterKv c _ => clusterOk c
  | .vecBinary c _ => clusterOk c
  | .vecFma c _ => clusterOk c
  | .vecUnary c _ => clusterOk c
  | .vecReduce c _ => clusterOk c
  | .vecConvert c _ => clusterOk c
  | .vecImac c _ => clusterOk c
  | .vecNarrow c _ => clusterOk c
  | .vecCompare c _ => clusterOk c
  | .drain c _ => clusterOk c
  | .reduceSend c _ => clusterOk c
  | .reduceRead c _ => clusterOk c
  | .reduceStats c _ => clusterOk c
  | .mediaDecode c _ => clusterOk c
  | .mediaEncode c _ => clusterOk c
  | .mediaPyramid c _ => clusterOk c
  | .mediaCrop c _ => clusterOk c
  | .mediaPack c _ => clusterOk c
  | .legacyCrop c _ => clusterOk c
  | .legacyResize c _ => clusterOk c
  | .legacyFlip c _ => clusterOk c
  | .legacyRotate c _ => clusterOk c
  | .rand c _ => clusterOk c
  | .sync c _ => clusterOk c
  | .chainBegin c _ => clusterOk c
  | .chainStage c _ => clusterOk c
  | .chainEnd c _ => clusterOk c
  | .leaseTakeRead c _ => clusterOk c
  | .leaseTakeCompare c _ => clusterOk c
  | .leaseTakeWrite c _ => clusterOk c
  | .leaseRelease c _ => clusterOk c
  | .leaseCheck c _ => clusterOk c
  | .statTime c _ => clusterOk c
  | .statStep c _ => clusterOk c
  | .statCores c _ => clusterOk c
  | .engineBeat e _ => engineOk e
  | .shadowSwitch x => engineOk x.engine
  | .drainBegin e _ => engineOk e
  | .instructionIssue c => clusterOk c
  | .haloCopy c _ _ => clusterOk c
  | .queueTailWrite _ => true
  | .commandStart k => clusterOk k
  | .mark ctx _ => ctxOk ctx
  | .fillCommandStart k => clusterOk k
  | .commandCommit c => clusterOk c
  | .noticeTimeout _ => true
  | .pieceEnd c => clusterOk c
  | .commandKill c => clusterOk c
  | .loadRequest ctx => ctxOk ctx
  | .retranslation k => clusterOk k
  | .keyApply k => clusterOk k
  | .imemLoadStart k => clusterOk k
  | .imemLoadDone k => clusterOk k
  | .keyInject k _ => clusterOk k
  | .keySchedApply k => clusterOk k
  | .keySchedPreempt k => clusterOk k
  | .wlkApply k => clusterOk k
  | .clmApply k => clusterOk k
  | .contextRun ctx => ctxOk ctx
  | .contextSuspend ctx => ctxOk ctx
  | .suspendComplete ctx => ctxOk ctx
  | .contextTeardown ctx => ctxOk ctx
  | .contextAbsent ctx => ctxOk ctx
  | .plbApply hub => hubOk hub
  | .syncExchange => true
  | .plumbSync port _ => portOk port
  | .exchangeMissed => true
  | .holdoverTimeout => true
  | .beatRateWindow die => decide (die < 8)
  | .governorSupply => true
  | .ducApply hub _ => hubOk hub
  | .ductusHeldFlush die => dieOk die
  | .cntCaptureAt _ => true
  | .captureArmReceived u => unitOk u
  | .captureLatch u => unitOk u
  | .captureDump hub => hubOk hub
  | .cntCaptureCancel _ => true
  | .cntApply hub _ => hubOk hub
  | .registerWrite m _ _ _ => masterOk m
  | .accumulate hub port _ _ => hubOk hub && (port.getD 0 < 30)
  | .windowClose hub r => hubOk hub && decide (r < 512)
  | .slotClearDone hub r => hubOk hub && decide (r < 512)
  | .accumulateReply _ _ => true
  | .accumulateRetransmit _ => true
  | .accumulateRetry _ => true
  | .mortarTimeout c => clusterOk c
  | .morApply hub => hubOk hub
  | .morShardApply hub => hubOk hub
  | .morLeaseDrop hub _ => hubOk hub
  | .morRcptSel hub _ => hubOk hub
  | .leaseRequest hub _ _ => hubOk hub
  | .leaseGrant hub _ => hubOk hub
  | .leaseReply _ _ => true
  | .leaseTimeout hub _ => hubOk hub
  | .linkFrame port _ => portOk port
  | .laneDrop port lane _ => portOk port && decide (lane < 8)
  | .laneRetrainDone port _ => portOk port
  | .portTrainingDone port _ _ _ _ => portOk port
  | .sessionHello port _ _ => portOk port
  | .sessionKemKey port _ => portOk port
  | .sessionKemCiphertext port _ => portOk port
  | .sessionSignature port _ _ => portOk port
  | .sessionRenewal port => portOk port
  | .heartbeatSend port => portOk port
  | .heartbeat port _ _ => portOk port
  | .heartbeatMissed port => portOk port
  | .portFailedRetry port => portOk port
  | .portOff port => portOk port
  | .fullModeRestored port _ => portOk port
  | .lnkApply hub => hubOk hub
  | .lnkFlowsReset hub => hubOk hub
  | .packetForward port _ => portOk port
  | .routeTimeout hub _ => hubOk hub
  | .readRequest port _ => portOk port
  | .readCompletion port _ => portOk port
  | .write port _ => portOk port
  | .writeReply port _ => portOk port
  | .remoteAccessTimeout _ => true
  | .wake port => portOk port
  | .faultReport port _ => portOk port
  | .d2dLaneRepair a b _ => d2dPairs.contains (min a b, max a b)
  | .hostWindowRead _ _ _ => true
  | .hostWindowWrite _ _ _ => true
  | .endpointReset => true
  | .doeColophon _ => true
  | .doeRecoveryImage _ => true
  | .entdaa _ => true
  | .identify _ => true
  | .regRead _ _ => true
  | .regWrite _ _ _ => true
  | .telemetry _ _ => true
  | .health _ => true
  | .mgmtFaultReport _ => true
  | .colophon _ _ _ => true
  | .recoveryChunk _ _ => true
  | .norWriteDone => true
  | .bypass => true
  | .idcode => true
  | .samplePreload => true
  | .extest => true
  | .extestPulse => true
  | .extestTrain => true
  | .clamp => true
  | .highz => true
  | .privateScanInstruction _ => true
  | .prtGrantGo hub _ => hubOk hub
  | .memApply hub => hubOk hub
  | .llmCacheMode hub => hubOk hub
  | .llmScratchpadMode hub => hubOk hub
  | .llmSwitchDone hub => hubOk hub
  | .llmFlush hub part => hubOk hub && decide (part < 16)
  | .llmReleaseKept hub part => hubOk hub && decide (part < 16)
  | .patrolScrub hub ctrl _ _ _ => hubOk hub && decide (ctrl < 14)
  | .regulatorRefill hub => hubOk hub
  | .accessAdmit hub part res => hubOk hub && decide (part < 16) && decide (res < 5)
  | .enrol _ => true
  | .ownerRelease _ => true
  | .debugUnlock _ => true
  | .keyLoadFresh => true
  | .keyLoadSealed => true
  | .secKeyErase _ => true
  | .powerGood _ => true
  | .selfTestDone _ => true
  | .inputRise _ => true
  | .inputUndervoltage _ => true
  | .inputOvervoltage _ => true
  | .enableLow => true
  | .enableHigh => true
  | .pwrApply => true
  | .requestS0 => true
  | .requestS1 => true
  | .requestS2 => true
  | .wakePin => true
  | .wakeTimer => true
  | .s2ExitDone => true
  | .clusterGate k => clusterOk k
  | .governorGrant die => dieOk die
  | .nullBeatRelease e => engineOk e
  | .thermalWarn die _ => dieOk die
  | .thermalTrip die _ => dieOk die
  | .tripRailsOff => true
  | .coolantLow _ _ _ _ => true
  | .mirApply hub => hubOk hub
  | .mirResync hub _ => hubOk hub
  | .resyncDone hub m => hubOk hub && decide (m < 8)
  | .mirrorMark hub m _ _ => hubOk hub && decide (m < 8)
  | .mirrorBreak hub m _ => hubOk hub && decide (m < 8)
  | .streamOpen c _ _ => clusterOk c
  | .streamSwitch hub e => hubOk hub && decide (e < 10)
  | .pictureDecode c _ _ => clusterOk c
  | .audioDecode c _ _ => clusterOk c
  | .medApply hub => hubOk hub
  | .evtClaim hub k => hubOk hub && decide (k < 4)
  | .evtComplete hub k _ => hubOk hub && decide (k < 4)
  | .evtRaise hub _ => hubOk hub
  | .wholeDieFault (.hubDie hub) => hubOk hub
  | .wholeDieFault (.computeDie die) => decide (die < 8)
  | .wholeDieFault .rowRoutes => true
  | .s2EntryDone => true
  | .inputOvervoltageClear _ => true

end Sys2Proof
end

