-- ==== Sys2Proof/Machine/Running.lean ====
section
/-! DEFINITION. How an instruction of a running command runs: its targets (R142, R154), skip and log (R125, R159, R160), waiting for
bytes of other packages (R347, R349), and the failure of its command (R327). -/

namespace Sys2Proof.Machine

/-! ## Skip and log (R125, R159, R160) -/

/-- The canonical element that fills an unwritten output (R58, R125). -/
def fillCode (f : Nat) : Nat :=
  if f = fFp16 || f = fSfp16 then 0x7E00
  else if f = fFp32 then 0x7FC00000
  else if f = fExa then exaNat (Exa.cleared 0)
  else 0

/-- The SKIP tag (R123). -/
def tagSkip : Nat := 2
/-- The PARITY tag (R123). -/
def tagParity : Nat := 1

/-- An output filled and tagged SKIP (R125, R159): a region of a core as far as its slot reaches, a distributed region in the shape
that would have come, a tensor whole. Scales receive nothing. What it writes counts in no count, ELEMENTS among them (DESIGN CHOICE, log
entry 96). -/
def fillOpnd (h : Here) (o : Opnd) (coming : List Nat) : Act Unit :=
  let put := fun (f : Nat) (dims : List Nat) =>
    store h o (Arr.of f dims (List.replicate (volume dims) (fillCode f)) (List.replicate (volume dims) tagSkip))
  match o.loc with
  | .ten t => put t.fmt t.dims
  | .area a =>
    match h.pin with
    | none => put a.fmt coming
    | some (_, j, l) =>
      let es := elemSize a.fmt
      let os := ((List.range a.rows).flatMap (fun r => (List.range a.cols).map (fun c => a.base + r * a.pitch + c * es))).filter
        (fun x => decide (x + es ≤ a.base + a.room))
      writeScratch h j l (elemCells es (os.flatMap (fun x => (List.range es).map (x + ·))) (os.map (fun _ => fillCode a.fmt))
        (os.map (fun _ => tagSkip)))

/-- The output in a slot filled when its descriptor still names something that may be written (R159). -/
def fillAt (h : Here) (ix slot : Nat) (coming : List Nat) : Act Unit := fun s =>
  match opndAt h ix slot true s with
  | .ok (o, s') =>
    match fillOpnd h o (if coming.isEmpty then (match o.loc with | .ten t => t.dims | .area a => [a.cols, a.rows]) else coming) s' with
    | .ok r => .ok r
    | .error _ => .ok ((), s)
  | .error _ => .ok ((), s)

/-- The fill of an opcode whose one output stands in the slot of R143; a distributed region takes the shape of the first operand
that is read, where it can be read. -/
def fillOut (h : Here) : Act Unit := fun s =>
  match outSlot h.w.op with
  | none => .ok ((), s)
  | some sl =>
    let coming := match (do let o ← opnd h (if sl = 0 then 1 else 0) false; dimsOf h o) s with
      | .ok (d, _) => d
      | .error _ => []
    fillAt h (h.w.opnd sl) sl coming s

/-- How many tiles of the hand-over a skipped instruction of a distributed chain would have met (R149, R160). -/
def Run.tiles (r : Run) (p : Bytes) : Nat :=
  match r.chain with
  | none => 1
  | some c =>
    let n := (c.regions.filterMap (fun x =>
      match parseArea (descAt p x.desc), (parseArea (descAt p x.desc)).bind r.virt with
      | some a, some v => if a.cols = 0 || a.rows = 0 then none
          else some (ceilDiv ((v.shape[0]?).getD 1) a.cols * ceilDiv (volume (v.shape.drop 1)) a.rows)
      | _, _ => none)).foldl max 1
    n

/-- An entry put among others in the order of their instructions. -/
def putEntry (e : SkipEntry) : List SkipEntry → List SkipEntry
  | [] => [e]
  | x :: t => if e.index < x.index then e :: x :: t else x :: putEntry e t

/-- One more skip of an instruction in the command's list: one entry for each instruction, in their order, at most 63, further ones only
counted (R160, log entry 15). -/
def Run.logSkip (r : Run) (ix cause lcore cluster detail reps : Nat) : Run :=
  if r.skips.any (fun e => e.index == ix) then
    { r with skips := r.skips.map (fun e => if e.index == ix then { e with repeats := min (e.repeats + reps) 0xFFFF } else e) }
  else if r.skipped.contains ix then r
  else
    let r := { r with skipped := ix :: r.skipped }
    if r.skips.length < 63 then
      { r with skips := putEntry { index := ix, cause := cause, lcore := lcore, cluster := cluster, repeats := min reps 0xFFFF,
                                     detail := detail } r.skips }
    else { r with moreSkips := r.moreSkips + 1 }

/-- A fault of a cluster's walker (R190, R401). -/
def State.walkerFault (s : State) (k bits : Nat) : State := (s.setBits (cluAt k) .wlkFaults bits).keyEvent k

/-- A skip of a target logged: 0xFF as the core of a distributed instruction, with the command's first cluster (R160, log entry 15).
Above bit 31 the detail carries the walker faults that go with the skip (R190). -/
def logAt (h : Here) (cause detail : Nat) (s : State) : State :=
  let s := s.count 2 (h.lead / 8) h.lead 3 1
  let s := if detail / 2 ^ 32 = 0 then s else s.walkerFault h.lead (detail / 2 ^ 32)
  let detail := detail % 2 ^ 32
  s.setRun h.lead (fun r =>
    match h.pin with
    | none => r.logSkip h.w.ix cause 0xFF h.cmd.fcl detail (r.tiles h.prog)
    | some (_, j, l) => r.logSkip h.w.ix cause l (h.cmd.fcl + j) detail 1)

/-- A stopped instruction has no effect, but what it read has been read: the walker's readings stand (R163, R169), and the granules that
injections struck stay tagged (R124). -/
def State.keepReads (s t : State) (lead : Nat) : State :=
  let read := (t.runOf lead).getD Run.blank
  let kept : State := { t with runs := s.runs, scratch := s.scratch, sends := s.sends, streams := s.streams, remotes := s.remotes,
                               sentOut := s.sentOut, medBusy := s.medBusy,
                               scratchG := s.scratchG.map (fun g => (g.1, g.2 ||| ((kvGet t.scratchG g.1).getD 0#2 &&& 1#2))) }
  let tagged := fun (v : Virt) => ((read.virts.find? (fun x => x.desc == v.desc && x.base == v.base && x.elems == v.elems)).map
    (fun x => { v with tags := x.tags })).getD v
  kept.setRun lead (fun r =>
    { r with
      roots := read.roots
      gen := read.gen
      blotCores := read.blotCores
      outTags := r.outTags.map (fun g => (g.1, g.2 ||| ((kvGet read.outTags g.1).getD 0#2 &&& 1#2)))
      virts := r.virts.map tagged })

/-- What an instruction of one target does: its effect, or its skip with the fill in place of its effect. -/
def runOne (body fill : Here → Act Unit) (h : Here) (s : State) : Except Halt State :=
  match body h s with
  | .ok (_, t) => .ok t
  | .error e =>
    match e.why with
    | .skip c d =>
      let s := s.keepReads e.held h.lead
      match fill h s with
      | .ok (_, t) => .ok (logAt h c d t)
      | .error f =>
        match f.why with
        | .skip _ _ => .ok (logAt h c d (s.keepReads f.held h.lead))
        | _ => .error f
    | _ => .error e

/-! ## Targets (R142, R154) -/

/-- The logical cores that a mask names, cluster by cluster in logical order, with their places. -/
def pins (ncl cores lc : Nat) : List (Nat × Nat × Nat) :=
  let l := (List.range ncl).flatMap (fun j => ((List.range cores).filter (fun k => lc.testBit k)).map (fun k => (j, k)))
  l.mapIdx (fun p x => (p, x.1, x.2))

/-- The places that a word names, logical cores that the program does not have among them (R160). -/
def namedAt (h : Here) : List Here :=
  if h.w.lc = 0 then [h] else (pins h.cmd.ncl 16 h.w.lc).map (fun p => { h with pin := some p })

/-- A skip logged for every place that a word names (R160). -/
def logNamed (h : Here) (cause : Nat) (s : State) : State := (namedAt h).foldl (fun s t => logAt t cause 0 s) s

/-- The targets of a word: itself in distributed form, each named logical core when pinned (R142). -/
def targets (h : Here) : List Here :=
  if h.w.lc = 0 then [h] else (pins h.cmd.ncl (hCores h.prog) h.w.lc).map (fun p => { h with pin := some p })

/-- The effect on every target in order. -/
def runEach (body fill : Here → Act Unit) : List Here → State → Except Halt State
  | [], s => .ok s
  | h :: t, s =>
    match runOne body fill h s with
    | .ok s' => runEach body fill t s'
    | .error e => .error e

/-- The fills of a skipped word's targets in order, which log nothing. -/
def fillEach (fill : Here → Act Unit) : List Here → State → Except Halt State
  | [], s => .ok s
  | h :: t, s =>
    match fill h s with
    | .ok (_, s') => fillEach fill t s'
    | .error e =>
      match e.why with
      | .skip _ _ => fillEach fill t (s.keepReads e.held h.lead)
      | _ => .error e

/-- The target of word `i` of the command on a lead cluster, before it is divided. -/
def State.hereAt (s : State) (r : Run) (i : Nat) : Here :=
  let p := s.image r
  { lead := r.lead, w := wordAt p i, cmd := cmdAt p r.cmd, prog := p, args := r.args.map (·.toNat), pin := none }

/-! ## Reads of other packages (R347, R349) -/

/-- The cut class of a command's access to another package (R349). -/
def State.cutClass (s : State) (r : Run) (pkg space off : Nat) : Nat :=
  let a := gAddr pkg space off
  if r.leases.any (fun u => u.granted && decide (u.home.toNat ≤ a.toNat) && decide (a.toNat < u.home.toNat + u.bytes)) then 3
  else
    let hub := servingHub (r.lead / 8)
    let win := fun w => s.live' (dieAt hub) (.lnkClassWin r.ctx w)
    match (List.range 4).find? (fun w => fld (win w) 32 1 == 1 && decide (fld (win w) 0 13 ≤ pkg) && decide (pkg ≤ fld (win w) 13 13)
        && fld (win w) 26 3 == space) with
    | some w => if fld (win w) 29 3 ≥ 6 then 0 else fld (win w) 29 3
    | none => 0

/-- READ_REQUESTs for bytes that an instruction waits for. -/
def State.askRemote (s : State) (r : Run) (reqs : List (Nat × Nat)) : State :=
  let job := ((s.ctxs[r.ctx]?).map (·.job)).getD 0#16
  reqs.foldl (fun (s : State) q =>
    let pkg := q.1 / 2 ^ 52 - 1
    let space := q.1 / 2 ^ 48 % 16
    let off := q.1 % 2 ^ 48
    let (tag, s) := s.newTag
    let a := gAddr pkg space off
    let s : State := { s with remotes := s.remotes ++ [{ tag := tag, use := .command r.lead, addr := a, bytes := q.2, since := s.plumb.now }] }
    s.sendBy (servingHub (r.lead / 8)) (s.packet pkg (s.cutClass r pkg space off) job (.readRequest a tag q.2))) s

/-- Whether an access of a command to another package is without an answer. -/
def State.asking (s : State) (lead : Nat) : Bool := s.remotes.any (fun x => x.use == .command lead)

/-! ## The instruction as the keystone runs it -/

/-- A completed instruction leaves the scoreboard (R110). -/
def State.finish (s : State) (lead i : Nat) : State :=
  s.setRun lead (fun r => { r with issued := r.issued.filter (fun x => x.index != i), fetched := [], fetchBad := [] })

/-- The command fails with a status; a failed partition check is recorded for its lead cluster (R327, R463), and as a walker fault
when 16 stands above the space (R190). -/
def State.failRun (s : State) (r : Run) (status : Nat) (at' : Option (Nat × Nat)) : State :=
  let s := match at' with
    | some (space, off) =>
      let s := if space / 16 = 0 then s else s.walkerFault r.lead 4
      s.violate (0x200 + r.lead) r.ctx (some (s.ctxPart r.ctx)) (space % 16) off
    | none => s
  s.setRun r.lead (fun x => { x with failed := some (BitVec.ofNat 8 status) })

/-- The command of an instruction that stopped without an effect: it fails as `fail` says, or waits, asking for the bytes of other packages
that the instruction is without (R327, R347). -/
def State.halted (s : State) (r : Run) (fail : State → Run → Nat → Option (Nat × Nat) → State) (e : Halt) : State :=
  let s := s.keepReads e.held r.lead
  match e.why with
  | .fail st a => fail s r st a
  | .wait q => if q.isEmpty || s.asking r.lead then s else s.askRemote r q
  | .skip _ _ => s

/-- The image that firmware loaded into the pages of a command on a cluster; none where the translator's own stands there (R120, R122). -/
def State.firmwareImage (s : State) (r : Run) (k : Nat) : Option Bytes :=
  match ((s.progOf r.prog).bind (fun p => p.pages[r.cmd]?)).bind (fun x => (s.keystones[k]?).bind (fun y => y.pages[x.1]?)) with
  | some y => if y.loaded && y.prog.isNone && y.owner == r.ctx then some y.image else none
  | none => none

/-- Whether the native instruction that stands for a target's word names no present core of the target's clusters (R118, R119). The
translator never makes such an instruction. -/
def State.fusedOut (s : State) (h : Here) : Bool :=
  match s.runOf h.lead with
  | none => false
  | some r =>
    let none' := fun (k : Nat) => match s.firmwareImage r k with
      | some im => (s.liveCores k).all (fun c => !(Config.nativeMask im h.w.ix).getLsbD c)
      | none => false
    match h.pin with
    | some (_, j, _) => none' ((r.clusters[j]?).getD h.lead)
    | none => !r.clusters.isEmpty && r.clusters.all none'

/-- How a class may be placed (R142): in either form, pinned only, distributed only, or once for the whole command. -/
inductive Placing where
  | either | pinned | spread | once
  deriving DecidableEq, Repr

/-- The effect of a word on its targets under its placing; an LCORES bit at or above LOGICAL_CORES, or a placing the class does not
have, is skipped with LCORES (R142, R159), and a native instruction that names no present core with FUSED_TARGET (R119). -/
def runTargets (pl : Placing) (body fill : Here → Act Unit) (h : Here) (s : State) : Except Halt State :=
  if h.w.lc / 2 ^ hCores h.prog != 0 then
    (fillEach fill (targets h) s).map (logNamed h cLcores)
  else
  let body := fun (x : Here) => if s.fusedOut x then skip cFused 0 else body x
  if pl = .once then runEach body fill [h] s
  else if (h.w.lc != 0 && pl == .spread) || (h.w.lc == 0 && pl == .pinned) then
    runEach (fun _ => skip cLcores 0) fill (targets h) s
  else runEach body fill (targets h) s

/-- Whether instruction `i` of the command on a lead cluster is in flight and of a kind, and waits for none before it (R110). -/
def State.inFlight (s : State) (is : Word128 → Bool) (lead i : Nat) : Bool :=
  match s.runOf lead with
  | none => false
  | some r => r.failed.isNone && r.issued.any (fun x => x.index == i) && is (s.hereAt r i).w && !r.follows (s.image r) i

/-- Instruction `i` of the command on lead cluster `lead`: when it has issued and is of the kind `is`, it has its effect on each
target and completes, fails its command, or waits. -/
def runWord (is : Word128 → Bool) (pl : Placing) (body fill : Here → Act Unit) (lead i : Nat) (s : State) : State :=
  match s.runOf lead with
  | none => s
  | some r =>
    if !s.inFlight is lead i then s else
    match runTargets pl body fill (s.hereAt r i) s with
    | .ok t => t.finish lead i
    | .error e => s.halted r State.failRun e

/-- Reserved modifier or immediate bits of a word: those outside the two masks must be 0 (R159). -/
def needFields (h : Here) (modMask immMask : Nat) : Act Unit :=
  need (h.w.mod &&& modMask == h.w.mod && h.w.imm &&& immMask == h.w.imm) cReserved 0

/-- An operand slot that must be empty. -/
def needNone (h : Here) (slot : Nat) : Act Unit := need (h.w.opnd slot == noDesc) cType slot

/-- The first axis on which two shapes differ (R160). -/
def axisOf (a b : List Nat) : Nat :=
  ((List.range (max a.length b.length)).find? (fun k => (a[k]?).getD 1 != (b[k]?).getD 1)).getD 0

/-- A shape without its outer extents of 1. -/
def trimDims (d : List Nat) : List Nat := (d.reverse.dropWhile (· == 1)).reverse

/-- Extents that must agree, outer extents of 1 apart (R159). -/
def needShape (a b : List Nat) : Act Unit := need (trimDims a == trimDims b) cShape (axisOf a b)

end Sys2Proof.Machine
end

