-- ==== Sys2Proof/Machine/Contexts.lean ====
section
/-! DEFINITION. The context table and the states of a context (R373 to R377), queues, entries and tail words (R378, R379), records, status
lines and notices (R380, R385 to R388). -/

namespace Sys2Proof.Machine

/-! ## The context table (R373 to R376) -/

/-- A context. -/
def State.ctx (s : State) (c : Nat) : Ctx := (s.ctxs[c]?).getD Ctx.reset

/-- The state with a context changed. -/
def State.setCtx (s : State) (c : Nat) (f : Ctx → Ctx) : State := { s with ctxs := modNth s.ctxs c f }

/-- The state with a queue changed. -/
def State.setQueue (s : State) (c q : Nat) (f : Queue → Queue) : State := s.setCtx c (fun x => { x with queues := modNth x.queues q f })

/-- The table base in force at the keystone of a cluster (R389). -/
def State.tableAt (s : State) (k : Nat) : Nat := s.cfg (cluAt k) .keyCtxTable 21 27

/-- Where the context table lies: the base in force at the lowest-numbered present cluster whose base is not 0, the value of reset
(R373, R389, log entry 29). -/
def State.tableBase (s : State) : Nat :=
  s.tableAt (((List.range 64).find? (fun k => s.present k && s.tableAt k != 0)).getD 0) * 2 ^ 21

/-- Where entry `c` lies. -/
def State.entryBase (s : State) (c : Nat) : Nat := s.tableBase + 0x800 * c

/-- Whether the table lies in pages of partition 0 controlled by hub die 8 (R373). -/
def State.tableOk (s : State) : Bool := s.ownerArea 8 s.tableBase 0x20000

/-- Whether requests are acted on: once the control cores watch queues (R417), in S0 and S1 (R450). -/
def State.actsOnRequests (s : State) : Bool := s.sec.watching && s.power.st != .s2 && s.power.moving != some .s2

/-- REQUEST of an entry (R374). -/
def State.request (s : State) (c : Nat) : Nat := if !s.actsOnRequests then 4 else num (s.load 0 (s.entryBase c) 8) 0 8 % 4

/-- The code of a state (R376). -/
def CtxSt.code : CtxSt → Nat
  | .absent => 0
  | .running => 1
  | .suspending => 2
  | .suspended => 3
  | .tearing => 4
  | .tornDown => 5

/-- A context changes STATE: STATUS and CHANGED are written, source 96 + c and vector c rise (R376, R388). -/
def State.ctxMove (s : State) (c : Nat) (st : CtxSt) (cause : BitVec 8) : State :=
  let now := s.dieNow 8
  let s := s.setCtx c (fun x => { x with st := st, cause := cause, changed := now })
  let s := s.store 0 0 0 (s.entryBase c + 8) (leBytes 8 (st.code + 256 * cause.toNat) ++ leBytes 8 now.toNat) now
  (s.raise 8 (96 + c)).vector c

/-- A queue descriptor as an entry holds it (R375). -/
def parseQueue (d : Bytes) : Queue :=
  { valid := num d 0 1 % 2 == 1, prio := num d 0 1 / 2 % 4, log2 := num d 1 1, ilogLog2 := num d 2 1, records := BitVec.ofNat 32 (num d 4 4),
    ring := BitVec.ofNat 64 (num d 8 8), tail := BitVec.ofNat 64 (num d 16 8), recRing := BitVec.ofNat 64 (num d 24 8),
    ilog := BitVec.ofNat 64 (num d 32 8), status := BitVec.ofNat 64 (num d 40 8), ilogCount := BitVec.ofNat 32 (num d 48 4),
    tailSeen := 0#32, lastStamp := 0#64, lost := false, stopped := false, killed := false, staged := none, rerun := false, prog := none,
    hide := [], fillKill := 0, takes := [] }

/-- The ranges of a valid queue descriptor's fields (R375). -/
def queueRanges (d : Bytes) : Bool :=
  let q := parseQueue d
  num d 0 1 < 8 && decide (4 ≤ q.log2) && decide (q.log2 ≤ 16) && decide (6 ≤ q.ilogLog2) && decide (q.ilogLog2 ≤ 16) && num d 3 1 == 0
    && q.ring.toNat % 128 == 0 && q.tail.toNat % 8 == 0 && q.recRing.toNat % 64 == 0 && q.ilog.toNat % 32 == 0 && q.status.toNat % 64 == 0
    && allZero (sub d 52 12)

/-- The ranges of an entry's header (R374). -/
def headRanges (e : Bytes) : Bool :=
  num e 0 8 < 4 && (num e 26 1 == 8 || num e 26 1 == 9) && allZero (sub e 27 5) && num e 32 8 % 64 == 0 && decide (4 ≤ num e 40 1)
    && decide (num e 40 1 ≤ 12) && allZero (sub e 41 7) && num e 48 8 % 8 == 0 && allZero (sub e 60 196)

/-- An address of an entry: global, in space 0 of this package, in pages of the context's partition (R374). -/
def State.entryAddr (s : State) (c : Nat) (a n : Nat) (wr : Bool) : Bool :=
  let v := BitVec.ofNat 64 a
  gPkg v == s.sec.pkg && gSpace v == 0 && s.allowed false (s.ctxPart c) wr 0 (gOff v) n

/-- The addresses of a valid queue descriptor with their lengths, and whether they are written (R374, R375). -/
def queueAddrs (q : Queue) : List (Nat × Nat × Bool) :=
  [(q.ring.toNat, 128 * 2 ^ min q.log2 16, false), (q.tail.toNat, 8, false), (q.recRing.toNat, 64 * 2 ^ min q.log2 16, true),
   (q.ilog.toNat, 32 * 2 ^ min q.ilogLog2 16, true), (q.status.toNat, 64, true)]

/-- The addresses of an entry and of its valid queue descriptors (R374, R375). -/
def entryAddrs (e : Bytes) : List (Nat × Nat × Bool) :=
  (num e 32 8, 64 * 2 ^ min (num e 40 1) 12, false) :: (num e 48 8, 8, false)
    :: (List.range 16).flatMap (fun q =>
      let q := parseQueue (sub e (256 + 64 * q) 64)
      if q.valid then queueAddrs q else [])

/-- The failed check of an entry's address recorded for a control core of its translator's hub, which of the four is free (R327, R463,
log entry 29). -/
def State.entryViolation (s : State) (c : Nat) (e : Bytes) (a : Nat) : State :=
  let (k, s) := s.draw
  let v := BitVec.ofNat 64 a
  s.violate (0x100 + 4 * ((num e 26 1 - 8) % 2) + k % 4) c (some (s.ctxPart c)) (gSpace v) (gOff v)

/-- The tail word of an address in near memory (R379). -/
def State.tailWord (s : State) (a : BitVec 64) : BitVec 32 := BitVec.ofNat 32 (num (s.load 0 (gOff a) 4) 0 4)

/-- ABSENT to RUNNING: the entry is read and checked (R376, R377). A context that stays ABSENT reports why in STATUS. -/
def State.ctxEnter (s : State) (c : Nat) : State :=
  let e := s.load 0 (s.entryBase c) 2048
  let ds := (List.range 16).map (fun q => sub e (256 + 64 * q) 64)
  let qs := ds.map parseQueue
  let bad := (entryAddrs e).find? (fun x => !s.entryAddr c x.1 x.2.1 x.2.2)
  let ranges := headRanges e && ds.all (fun d => !(parseQueue d).valid || queueRanges d)
  let stay := fun (s : State) (cause : Nat) =>
    (s.setCtx c (fun x => { x with cause := BitVec.ofNat 8 cause })).store 0 0 0 (s.entryBase c + 8) (leBytes 8 (256 * cause)) (s.dieNow 8)
  match bad with
  | some x => stay (s.entryViolation c e x.1) stPartition
  | none =>
  if !ranges then stay s stPermit
  else
    let s := s.setCtx c (fun x =>
      { x with job := BitVec.ofNat 16 (num e 24 2), translator := num e 26 1, loadRing := BitVec.ofNat 64 (num e 32 8),
               loadLog2 := num e 40 1, loadTail := BitVec.ofNat 64 (num e 48 8), loadHead := BitVec.ofNat 32 (num e 56 4),
               queues := qs.map (fun q => { q with tailSeen := if q.valid then s.tailWord q.tail else 0#32 }) })
    s.ctxMove c .running 0#8

/-- CONTEXT_RUN: REQUEST reads RUN (R376). -/
def execContextRun (ctx : Nat) (s : State) : Host.Outcome State Fault Refusal :=
  onUnit (decide (ctx < 64)) "context" s
    (if !s.actsOnRequests || s.power.halted || s.sec.debug then s
     else if !s.tableOk then s.violateArea 8 s.tableBase
     else if s.request ctx ≠ 1 then s
     else match (s.ctx ctx).st with
       | .absent => s.ctxEnter ctx
       | .suspended => s.ctxMove ctx .running 0#8
       | _ => s)

/-- CONTEXT_ABSENT: REQUEST reads ABSENT in TORN_DOWN (R376). -/
def execContextAbsent (ctx : Nat) (s : State) : Host.Outcome State Fault Refusal :=
  onUnit (decide (ctx < 64)) "context" s
    (if s.tableOk && s.request ctx == 0 && (s.ctx ctx).st == .tornDown then
       (s.ctxMove ctx .absent 0#8).setCtx ctx (fun x => { x with queues := [] })
     else s)

/-- A context begins to be torn down (R395, R396): from RUNNING, SUSPENDING or SUSPENDED it becomes TEARING. -/
def State.beginTeardown (s : State) (c : Nat) (cause : Nat) : State :=
  match (s.ctx c).st with
  | .running | .suspending | .suspended => s.ctxMove c .tearing (BitVec.ofNat 8 cause)
  | _ => s

/-! ## Tail words (R379, R401) -/

/-- QUEUE_TAIL_WRITE: the tails on a watched line are read again; a load tail rings its translator (R379, R401). -/
def execQueueTailWrite (addr : BitVec 64) (s : State) : Host.Outcome State Fault Refusal :=
  done s ((List.range 64).foldl (fun s c =>
    let x := s.ctx c
    if x.st = .absent ∨ x.st = .tornDown then s else
    let same := fun (a : BitVec 64) => a.toNat / 64 == addr.toNat / 64
    let s := s.setCtx c (fun x => { x with queues := x.queues.map (fun q =>
      if q.valid && same q.tail then { q with tailSeen := s.tailWord q.tail } else q) })
    if same x.loadTail then s.raise x.translator (32 + c) else s) s)

/-! ## Queue entries (R378) -/

/-- A queue entry. -/
structure QEntry where
  handle : Nat
  cmd    : Nat
  step   : Nat
  kind   : Nat
  flags  : Nat
  args   : List (BitVec 32)
  notify : Nat
  waitAt : Nat
  waitTo : Nat
  deriving DecidableEq, Repr

/-- The 128 bytes of a queue entry read. -/
def parseEntry (b : Bytes) : QEntry :=
  { handle := num b 0 4, cmd := num b 4 4, step := num b 8 6, kind := num b 14 1, flags := num b 15 1,
    args := (List.range 8).map (fun k => BitVec.ofNat 32 (num b (16 + 4 * k) 4)), notify := num b 48 8, waitAt := num b 56 8,
    waitTo := num b 64 4 }

/-- A queue of a context. -/
def State.queue (s : State) (c q : Nat) : Option Queue := (s.ctx c).queues[q]?

/-- The entries of a queue that are pending (R379). -/
def Queue.waiting (q : Queue) : Nat := (q.tailSeen - q.records).toNat

/-- An entry of a queue by its number (R378). -/
def State.entryOf (s : State) (q : Queue) (n : Nat) : QEntry :=
  parseEntry (s.load 0 (gOff q.ring + 128 * (n % 2 ^ q.log2)) 128)

/-- The next entry of a queue of a running context. -/
def State.nextEntry (s : State) (c q : Nat) : Option (Queue × QEntry) :=
  match s.queue c q with
  | none => none
  | some x => if (s.ctx c).st = .running ∧ x.valid ∧ x.waiting ≠ 0 then some (x, s.entryOf x x.records.toNat) else none

/-- The program that an entry starts: that of a started command, else the one loaded under its handle (R153, R378). -/
def State.entryProg (s : State) (c : Nat) (x : Queue) (e : QEntry) : Option Program :=
  match x.prog with
  | some u => s.progOf u
  | none => s.programs.find? (fun p => p.ctx == c && p.handle.toNat == e.handle && !p.replaced)

/-- Why an entry cannot start a command: the DETAIL of its instruction entry (R378). -/
def State.entryReject (s : State) (c : Nat) (x : Queue) (e : QEntry) : Option Nat :=
  if e.kind > 1 ∨ e.flags > 7 then some 0
  else if e.kind = 1 then none
  else match s.entryProg c x e with
    | none => some 1
    | some p => if e.cmd ≥ hCmdCount p.image then some 2 else none

/-- Whether WAIT_ADDR is one that the context may read (R381). -/
def State.waitAllowed (s : State) (c : Nat) (e : QEntry) : Bool :=
  let v := BitVec.ofNat 64 e.waitAt
  gPkg v == s.sec.pkg && s.allowed false (s.ctxPart c) false (gSpace v) (gOff v) 8

/-- Whether an entry's WAIT is reached (R381). -/
def State.waitDone (s : State) (e : QEntry) : Bool :=
  let v := BitVec.ofNat 64 e.waitAt
  e.flags / 4 % 2 == 0 || decide ((num (s.load (gSpace v) (gOff v) 4) 0 4 + 2 ^ 32 - e.waitTo) % 2 ^ 30 < 2 ^ 29)

/-! ## Records, status lines and notices (R160, R380, R385 to R388) -/

/-- The queue's status line (R380). -/
def State.statusLine (s : State) (c q : Nat) : State :=
  match s.queue c q with
  | none => s
  | some x =>
    s.store (s.ctxPart c) 0 0 (gOff x.status)
      (leBytes 4 x.records.toNat ++ leBytes 4 x.ilogCount.toNat ++ leBytes 8 x.lastStamp.toNat ++ leBytes 1 (s.ctx c).st.code
        ++ leBytes 1 (b2n x.lost + 2 * b2n x.stopped) ++ leBytes 46 0) (s.dieNow 8)

/-- What a record tells (R385). -/
structure RecordArgs where
  stamp   : BitVec 64
  status  : Nat
  ovf     : Nat
  udf     : Nat
  nans    : Nat
  sat     : Nat
  empties : Nat
  gen     : Option (BitVec 16)
  blots   : Nat
  stalls  : List Nat
  cause   : Nat
  deriving DecidableEq, Repr

/-- A record with a status and nothing else to tell. -/
def RecordArgs.plain (stamp : BitVec 64) (status cause : Nat) : RecordArgs :=
  { stamp := stamp, status := status, ovf := 0, udf := 0, nans := 0, sat := 0, empties := 0, gen := none, blots := 0,
    stalls := List.replicate 11 0, cause := cause }

/-- The 64 bytes of a record (R385). -/
def recordBytes (c q entry n : Nat) (r : RecordArgs) : Bytes :=
  leBytes 8 r.stamp.toNat ++ leBytes 1 c ++ leBytes 1 q ++ leBytes 1 r.status ++ leBytes 1 (b2n r.gen.isSome) ++ leBytes 4 entry
    ++ leBytes 4 r.ovf ++ leBytes 4 r.udf ++ leBytes 4 r.nans ++ leBytes 4 r.sat ++ leBytes 4 r.empties
    ++ leBytes 2 ((r.gen.map (·.toNat)).getD 0) ++ leBytes 2 (min r.blots 0xFFFF)
    ++ ((List.range 11).map (fun k => leBytes 2 (min ((r.stalls[k]?).getD 0 / 4096) 0xFFFF))).flatten ++ leBytes 1 n ++ leBytes 1 r.cause

/-- The instruction entry of a skip (R160); its native index is a free value (log entry 10). -/
def skipBytes (stamp : BitVec 64) (entry q : Nat) (e : SkipEntry) (quento native : Nat) : Bytes :=
  leBytes 8 stamp.toNat ++ leBytes 4 entry ++ leBytes 1 q ++ leBytes 1 (if e.cause = cFused then 3 else 2) ++ leBytes 1 e.cause
    ++ leBytes 1 e.lcore ++ leBytes 4 quento ++ leBytes 4 native ++ leBytes 2 e.cluster ++ leBytes 2 e.repeats ++ leBytes 4 e.detail

/-- Step 7 of the commit (R383, R386): the instruction entries, the record, RECORDS and ILOG_COUNT, and the status line. The queue's next
entry is then another command. -/
def State.putRecord (s : State) (c q : Nat) (r : RecordArgs) (entries : List Bytes) : State :=
  match s.queue c q with
  | none => s
  | some x =>
    let part := s.ctxPart c
    let now := s.dieNow 8
    let n := entries.length
    let s := (entries.zip (List.range n)).foldl (fun s e =>
      s.store part 0 0 (gOff x.ilog + 32 * ((x.ilogCount.toNat + e.2) % 2 ^ x.ilogLog2)) e.1 now) s
    let s := s.store part 0 0 (gOff x.recRing + 64 * (x.records.toNat % 2 ^ x.log2)) (recordBytes c q x.records.toNat n r) now
    let s := s.setQueue c q (fun y => { y with records := y.records + 1#32, ilogCount := y.ilogCount + BitVec.ofNat 32 n, lastStamp := r.stamp,
                                               killed := false, staged := none, rerun := false, prog := none, hide := [], fillKill := 0, takes := [] })
    let d := s.entryBase c + 256 + 64 * q
    let s := s.store 0 0 0 (d + 4) (leBytes 4 (x.records + 1#32).toNat) now
    let s := s.store 0 0 0 (d + 48) (leBytes 4 (x.ilogCount + BitVec.ofNat 32 n).toNat) now
    s.statusLine c q

/-- A notice that is lost (R387, R388). -/
def State.noticeLost (s : State) (c q : Nat) : State :=
  ((s.setQueue c q (fun y => { y with lost := true })).statusLine c q).vector c

/-- Step 8 of the commit (R383, R387, R388): the commit notice, and vector c when IRQ is set. `unit` is the lead cluster. -/
def State.notice (s : State) (c q lead flags addr status : Nat) : State :=
  let s := if flags / 2 % 2 = 0 then s else
    let v := BitVec.ofNat 64 addr
    let bs := leBytes 4 (((s.queue c q).map (fun x => x.records.toNat)).getD 0) ++ leBytes 1 status ++ leBytes 3 0
    if gPkg v = s.sec.pkg then
      if s.allowed false (s.ctxPart c) true (gSpace v) (gOff v) 8 then s.store (s.ctxPart c) 0 (gSpace v) (gOff v) bs (s.dieNow 8)
      else (s.violate (0x200 + lead) c (some (s.ctxPart c)) (gSpace v) (gOff v)).noticeLost c q
    else
      let (tag, s) := s.newTag
      let x : Remote := { tag := tag, use := .notice (servingHub (lead / 8)) c q, addr := v, bytes := 8, since := s.plumb.now }
      let s : State := { s with remotes := s.remotes ++ [x] }
      s.sendBy (servingHub (lead / 8)) (s.packet (gPkg v) (s.cutClass { Run.blank with ctx := c } (gPkg v) (gSpace v) (gOff v)) (s.ctx c).job
        (.write v tag bs))
  if flags % 2 = 1 then s.vector c else s

/-- LNK_CFG.TIMEOUT of a hub, in units of 4096 ticks (R359). -/
def State.linkTimeout (s : State) (hub : Nat) : Nat := s.cfg (dieAt hub) .lnkCfg 16 32

/-- NOTICE_TIMEOUT: a notice to another package has had no reply within LNK_CFG.TIMEOUT (R387). -/
def execNoticeTimeout (tag : Nat) (s : State) : Host.Outcome State Fault Refusal :=
  done s <|
    match s.remotes.find? (fun x => x.tag == tag) with
    | some x =>
      match x.use with
      | .notice hub c q =>
        if s.elapsed x.since (s.linkTimeout hub) then
          ({ s with remotes := s.remotes.filter (fun y => y.tag != tag) } : State).noticeLost c q
        else s
      | _ => s
    | none => s

end Sys2Proof.Machine
end

