-- ==== Sys2Proof/Machine/Functions.lean ====
section
/-! DEFINITION. The vector unit's functions as correctly rounded FP32 results (R87): each value is enclosed between two dyadic
numbers at a working precision, and the enclosure is narrowed until both ends round alike. -/

namespace Sys2Proof.Machine

/-- An enclosure of a real number: `lo` × 2^−`w` to `hi` × 2^−`w`. -/
structure Encl where
  lo : Int
  hi : Int
  w  : Nat
  deriving Repr

/-- The width of the error allowed for in an enclosure, in units of its last place: far above what the short sums below can lose. -/
def slack : Int := 2 ^ 40

/-- Σ z^(2k+1) / (2k+1), or with alternating signs: `t` is the present power, `k` the present denominator, at scale 2^w. -/
def oddSum : Nat → Nat → Bool → Int → Int → Nat → Int
  | 0, _, _, _, _, _ => 0
  | fuel + 1, w, alt, t, z2, k =>
    t / Int.ofNat k + oddSum fuel w alt (if alt then -(t * z2 / 2 ^ w) else t * z2 / 2 ^ w) z2 (k + 2)

/-- ln 2 = 2 atanh(1/3) at scale 2^w. -/
def ln2At (w : Nat) : Int := 2 * oddSum w w false (2 ^ w / 3) (2 ^ w / 9) 1

/-- π = 16 atan(1/5) − 4 atan(1/239) at scale 2^w. -/
def piAt (w : Nat) : Int :=
  16 * oddSum w w true (2 ^ w / 5) (2 ^ w / 25) 1 - 4 * oddSum w w true (2 ^ w / 239) (2 ^ w / 57121) 1

/-- Σ of the terms t, t·r/k, t·r²/(k(k+1)), … at scale 2^w. -/
def expSum : Nat → Nat → Int → Int → Nat → Int
  | 0, _, _, _, _ => 0
  | fuel + 1, w, t, r, k => t + expSum fuel w (t * r / 2 ^ w / Int.ofNat k) r (k + 1)

/-- e^x at scale 2^w for x = `x` × 2^−w with |x| below 256. -/
def expAt (w : Nat) (x : Int) : Int :=
  let l := ln2At w
  let k := x / l
  let e := expSum (w / 2 + 8) w (2 ^ w) (x - k * l) 1
  if 0 ≤ k then e * 2 ^ k.toNat else e / 2 ^ (-k).toNat

/-- ln y at scale 2^w for y = `y` × 2^−w above 0. -/
def lnAt (w : Nat) (y : Int) : Int :=
  let k := Int.ofNat y.toNat.log2 - Int.ofNat w
  -- m = y / 2^k lies in [1, 2)
  let m := if 0 ≤ k then y / 2 ^ k.toNat else y * 2 ^ (-k).toNat
  let z := (m - 2 ^ w) * 2 ^ w / (m + 2 ^ w)
  2 * oddSum w w false z (z * z / 2 ^ w) 1 + k * ln2At w

/-- x − x³/3! + …, or 1 − x²/2! + …, from the term `t` with denominators from `k`. -/
def trigSum : Nat → Nat → Int → Int → Nat → Int
  | 0, _, _, _, _ => 0
  | fuel + 1, w, t, x2, k => t + trigSum fuel w (-(t * x2 / 2 ^ w) / Int.ofNat (k * (k + 1))) x2 (k + 2)

/-- The sine (or, a quarter turn on, the cosine) of `x` × 2^−w. -/
def sinAt (w : Nat) (x : Int) (quarter : Int) : Int :=
  let h := piAt w / 2
  let q := (x + h / 2) / h
  let r := x - q * h
  let r2 := r * r / 2 ^ w
  let s := trigSum (w / 4 + 8) w r r2 2
  let c := trigSum (w / 4 + 8) w (2 ^ w) r2 1
  match (q + quarter) % 4 with
  | 0 => s
  | 1 => c
  | 2 => -s
  | _ => -c

/-- Σ (−1)^n x^(2n+1) / (n! (2n+1)) at scale 2^w, the series of erf without its factor 2/√π. -/
def erfSum : Nat → Nat → Int → Int → Nat → Int
  | 0, _, _, _, _ => 0
  | fuel + 1, w, t, x2, n => t / Int.ofNat (2 * n + 1) + erfSum fuel w (-(t * x2 / 2 ^ w) / Int.ofNat (n + 1)) x2 (n + 1)

/-- The functions of R87 by their codes in VEC.UNARY (R143). -/
def fnRecip : Nat := 9
def fnRsqrt : Nat := 8
def fnExp : Nat := 0
def fnExp2 : Nat := 1
def fnLog : Nat := 2
def fnLog2 : Nat := 3
def fnTanh : Nat := 4
def fnErf : Nat := 5
def fnSigmoid : Nat := 6
def fnSoftplus : Nat := 7
def fnSin : Nat := 10
def fnCos : Nat := 11

/-- An enclosure around a computed value. -/
def around (w : Nat) (v : Int) : Encl := { lo := v - slack, hi := v + slack, w := w }

/-- The part of `v` between 0 and 1 that is left out, far below every rounding step. -/
def tiny (w : Nat) : Encl := { lo := 1, hi := 2 ^ (w - 260), w := w }

/-- The enclosure of a function at the non-zero finite argument ±m × 2^e, at working precision w. -/
def enclose (f w : Nat) (s : Bool) (m : Nat) (e : Int) : Encl :=
  let x0 : Int := Int.ofNat (shl m (e + Int.ofNat w))
  let x : Int := if s then -x0 else x0
  let one : Int := 2 ^ w
  let big : Bool := decide (x0 ≥ 200 * one)
  if f = fnExp then (if big then (if s then tiny w else { lo := one * 2 ^ 200, hi := one * 2 ^ 200, w := w }) else around w (expAt w x))
  else if f = fnExp2 then
    (if big then (if s then tiny w else { lo := one * 2 ^ 200, hi := one * 2 ^ 200, w := w })
     else around w (expAt w (x * ln2At w / one)))
  else if f = fnLog then around w (lnAt w x)
  else if f = fnLog2 then around w (lnAt w x * one / ln2At w)
  else if f = fnTanh then
    (if x0 ≥ 20 * one then (if s then { lo := -one, hi := -one + 2 ^ (w - 50), w := w } else { lo := one - 2 ^ (w - 50), hi := one, w := w })
     else
       let g := expAt w (2 * x)
       around w ((g - one) * one / (g + one)))
  else if f = fnErf then
    (if x0 ≥ 4 * one then (if s then { lo := -one, hi := -one + 2 ^ (w - 25) - 2 ^ (w - 27), w := w }
        else { lo := one - 2 ^ (w - 25) + 2 ^ (w - 27), hi := one, w := w })
     else
       let r := Int.ofNat (isqrt ((piAt w) * one).toNat)
       around w (2 * erfSum (w + 64) w x (x * x / one) 0 * one / r))
  else if f = fnSigmoid then
    (if big then (if s then tiny w else { lo := one - 2 ^ (w - 60), hi := one, w := w })
     else
       let g := expAt w (-x0)
       around w (if s then g * one / (one + g) else one * one / (one + g)))
  else if f = fnSoftplus then
    (if big then (if s then tiny w else { lo := x0, hi := x0 + 2 ^ (w - 260), w := w })
     else
       let g := expAt w (-x0)
       around w ((if s then 0 else x0) + lnAt w (one + g)))
  else if f = fnSin then around w (sinAt w x 0)
  else around w (sinAt w x 1)

/-- One end of an enclosure rounded to FP32. -/
def roundEnd (v : Int) (w : Nat) : Res := encode' true true (decide (v < 0)) v.natAbs (-(Int.ofNat w)) none

/-- The result both ends of an enclosure round to, at growing precision; the exact cases never come here, so the precision is
enough long before the fuel ends. -/
def narrowTo : Nat → Nat → Nat → Bool → Nat → Int → Res
  | 0, f, w, s, m, e => roundEnd (enclose f w s m e).lo w
  | fuel + 1, f, w, s, m, e =>
    let c := enclose f w s m e
    let a := roundEnd c.lo w
    let b := roundEnd c.hi w
    if a.bits = b.bits && c.lo != 0 then b else narrowTo fuel f (w + 256) s m e

/-- Whether ±m × 2^e is an integer, and which. -/
def asInt (s : Bool) (m : Nat) (e : Int) : Option Int :=
  if 0 ≤ e then some (let v := Int.ofNat (m * 2 ^ e.toNat); if s then -v else v)
  else if m % 2 ^ (-e).toNat = 0 then some (let v := Int.ofNat (m / 2 ^ (-e).toNat); if s then -v else v)
  else none

/-- Whether m is a power of two. -/
def isPow2 (m : Nat) : Bool := m != 0 && m == 2 ^ m.log2

/-- A function of R87 at an FP32 value: the FP32 result. -/
def vecFn (f : Nat) (v : Fp) : Res :=
  let nan := Res.of (nanBits true)
  let inf := fun s => Res.of (infBits true s)
  let oneR := fun s => encFp true (.fin s 1 0)
  match v with
  | .nan => nan
  | .inf s =>
    if f = fnRecip then Res.of (zeroBits true s)
    else if f = fnRsqrt then (if s then nan else Res.of 0)
    else if f = fnExp || f = fnExp2 then (if s then Res.of 0 else inf false)
    else if f = fnLog || f = fnLog2 then (if s then nan else inf false)
    else if f = fnTanh || f = fnErf then oneR s
    else if f = fnSigmoid then (if s then Res.of 0 else oneR false)
    else if f = fnSoftplus then (if s then Res.of 0 else inf false)
    else nan
  | .fin s m e =>
    if m = 0 then
      if f = fnRecip || f = fnRsqrt then inf s
      else if f = fnExp || f = fnExp2 || f = fnCos then oneR false
      else if f = fnLog || f = fnLog2 then inf true
      else if f = fnSigmoid then encFp true (.fin false 1 (-1))
      else if f = fnSoftplus then narrowTo 8 fnLog 512 false 2 0
      else Res.of (zeroBits true s)
    else if f = fnRecip then encFp true (fpDiv (.fin false 1 0) v)
    else if f = fnRsqrt then
      if s then nan
      else
        let odd := e % 2 != 0
        let n := 2 ^ 400 / (if odd then 2 * m else m)
        let r := isqrt n
        let exact := r * r == n && 2 ^ 400 % (if odd then 2 * m else m) == 0
        encFp true (.fin false (2 * r + b2n (!exact)) (-200 - (if odd then e - 1 else e) / 2 - 1))
    else if f = fnExp2 then
      match asInt s m e with
      | some i => if i.natAbs > 400 then narrowTo 8 f 512 s m e else encFp true (.fin false 1 i)
      | none => narrowTo 8 f 512 s m e
    else if f = fnLog || f = fnLog2 then
      if s then nan
      else if isPow2 m then
        let k := Int.ofNat m.log2 + e
        if f = fnLog2 then encFp true (fpOfInt k)
        else if k = 0 then Res.of 0 else narrowTo 8 f 512 s m e
      else narrowTo 8 f 512 s m e
    else if f = fnSin || f = fnCos then
      if fpLt (.fin false 1 16) (.fin false m e) then nan else narrowTo 8 f 512 s m e
    else narrowTo 8 f 512 s m e

end Sys2Proof.Machine
end

