-- ==== Sys2Proof/Machine/Moves.lean ====
section
/-! DEFINITION. MOVE (R115 to R117, R146), RAND (R84, R147), SYNC (R148), CHAIN (R113, R149) and STAT (R150). -/

namespace Sys2Proof.Machine

/-! ## MOVE -/

/-- The lines of a tensor's bytes, for the access hints of R321. -/
def tenLines (s : State) (h : Here) (t : Ten) : List Nat :=
  match tenKeys s h 0 t with
  | .ok ks => ((ks.filter (fun k => !isRemote k && !isClu k)).map (· / 64)).eraseDups
  | .error _ => []

/-- The source of a MOVE read under its hint (R321, R322). -/
def hintRead (h : Here) (o : Opnd) (hint : Nat) : Act Unit := fun s =>
  match o.loc, s.runOf h.lead with
  | .ten t, some r =>
    if hint = 0 || hint = 1 then .ok ((), s) else
    .ok ((), (tenLines s h t).foldl (fun s l =>
      match s.hubOf (l * 64 / 2 ^ 48) (l * 64 % 2 ^ 48) with
      | some hub => s.noteRead hub (s.ctxPart r.ctx) hint (l * 64)
      | none => s) s)
  | _, _ => .ok ((), s)

/-- The destination's lines keep the hint for the commit (R321). -/
def hintWrite (h : Here) (o : Opnd) (hint : Nat) : Act Unit := fun s =>
  match o.loc with
  | .ten t =>
    let ls := tenLines s h t
    .ok ((), s.setRun h.lead (fun r => { r with hints := (ls.map (fun l => (l, hint))) ++ r.hints.filter (fun e => !ls.contains e.1) }))
  | .area _ => .ok ((), s)

/-- The scales of a copy (R61): each destination group takes the valid scale that its elements carry. Where they carry different ones, or
none, the manual says only that the scale written is valid: which it is is free (log entry 16). -/
def copyScales (src : Arr) (dims : List Nat) (axis g : Nat) : List Nat :=
  let all := (groups dims axis g).zip (src.elems.zip src.scaleList)
  (List.range (volume (groupDims dims axis g))).map (fun k =>
    let mine := (all.filter (fun p => p.1 == k)).map (·.2)
    match (mine.map (·.2)).filter scaleOk with
    | x :: t => if t.all (· == x) then x else scaleOf (Int.ofNat (Config.mixedScale mine).val - 126)
    | [] => scaleOf (Int.ofNat (Config.mixedScale mine).val - 126))

/-- The array that a copy writes to a destination of given dims: an element under a scale that is not valid is read as NaN (R61). -/
def copyArr (src : Arr) (o : Opnd) (dims : List Nat) : Arr :=
  let gr := o.grouping dims
  let sfp := src.fmt == fSfp16
  { fmt := src.fmt, dims := dims, tags := src.tags, axis := gr.1, group := gr.2,
    elems := if sfp then src.elems.zipWith (fun n x => if scaleOk x then n else nanBits false) src.scaleList else src.elems,
    scales := if sfp then copyScales src dims gr.1 gr.2 else [] }

/-- MOVE form 0: the source copied element by element, tags and scales with it (R123, R146). -/
def moveCopy (h : Here) : Act Unit := do
  need (decide (h.w.form < 3)) cForm 0
  needFields h 0xF 0
  needNone h 2
  let src ← opnd h 0 false
  let dst ← opnd h 1 true
  let a ← fetch h src
  need (src.fmt == dst.fmt) cFormat 1
  let dims := outDims h dst a.dims
  need (volume dims == a.elems.length) cShape 0
  hintRead h src (h.w.mod % 4)
  store h dst (copyArr a dst dims)
  hintWrite h dst (h.w.mod / 4 % 4)
  bump h dst (fun c => { c with elements := sat32 c.elements a.elems.length })

/-- The logical cores a multicast reaches (R116, R146). -/
def castTo (h : Here) : List (Nat × Nat) :=
  let cores := hCores h.prog
  (List.range h.cmd.ncl).flatMap (fun j =>
    if h.pin.isNone || h.w.imm.testBit (16 + j) then
      ((List.range cores).filter (fun l => h.pin.isNone || h.w.imm.testBit l)).map (fun l => (j, l))
    else [])

/-- An array written to the same region of many logical cores. -/
def castArea (h : Here) (a : Area) (v : Arr) : List (Nat × Nat) → Act Unit
  | [] => pure ()
  | (j, l) :: t => do
    writeArea h j l a v
    castArea h a v t

/-- A destination that must be a REGION of the cores it reaches (R116, R150). -/
def regionOf (h : Here) (slot : Nat) : Act (Opnd × Area) := do
  let o ← opnd h slot true
  match o.loc with
  | .area a => pure (o, a)
  | .ten _ => skip cType slot

/-- MOVE form 1: the source read once and written to the same offset of every named core (R116, R146). -/
def moveCast (h : Here) : Act Unit := do
  needFields h 0xF (if h.pin.isSome then 0xFFFFFF else 0)
  needNone h 2
  let src ← opnd h 0 false
  let (o, a) ← regionOf h 1
  let v ← fetch h src
  need (src.fmt == a.fmt) cFormat 1
  need (v.elems.length == a.cols * a.rows || h.pin.isNone) cShape 0
  hintRead h src (h.w.mod % 4)
  let dims := if v.elems.length = a.cols * a.rows then [a.cols, a.rows] else v.dims
  let w := copyArr v o dims
  if v.elems.length = a.cols * a.rows then castArea h a w (castTo h) else pure ()
  if h.pin.isNone then keepSpread h o.ix a w else pure ()

/-- MOVE form 2: the 32-bit pattern written to every 4-byte unit of the destination (R146): the elements of a TENSOR in element order; all
the bytes of a REGION or of its slot, whatever its view leaves between rows or holds as scales; the elements and scales of a whole
tensor that distributed instructions keep under a REGION. -/
def moveFill (h : Here) : Act Unit := do
  needFields h 0xF 0xFFFFFFFF
  needNone h 0
  needNone h 2
  let dst ← opnd h 1 true
  let dims ← dimsOf h dst
  let es := elemSize dst.fmt
  let n := volume dims
  let pat := h.w.imm % 2 ^ 32
  let code := fun i => if es = 16 then pat * (1 + 2 ^ 32 + 2 ^ 64 + 2 ^ 96) else pat / 256 ^ (i * es % 4) % 256 ^ es
  let whole := Arr.of dst.fmt dims ((List.range n).map code) (List.replicate n 0)
  match dst.loc, h.pin with
  | .ten _, _ => do
    need (n * es % 4 == 0) cDesc 1
    store h dst whole
  | .area a, some (_, j, l) => do
    need (a.room % 4 == 0) cDesc 1
    writeScratch h j l ((List.range a.room).map (fun i => (a.base + i, pat / 256 ^ (i % 4) % 256, 0)))
  | .area a, none => do
    need (a.room % 4 == 0) cDesc 1
    let gr := dst.grouping dims
    store h dst { whole with scales := if dst.fmt = fSfp16 then List.replicate (volume (groupDims dims gr.1 gr.2)) pat else [],
                             axis := gr.1, group := gr.2 }
  hintWrite h dst (h.w.mod / 4 % 4)
  bump h dst (fun c => { c with elements := sat32 c.elements n })

/-- The fill of a skipped multicast: the region of every core it would have reached (R125). -/
def castFill (h : Here) : Act Unit := fun s =>
  match regionOf h 1 s with
  | .error _ => .ok ((), s)
  | .ok ((o, a), s) =>
    let n := a.cols * a.rows
    let w := Arr.of a.fmt [a.cols, a.rows] (List.replicate n (fillCode a.fmt)) (List.replicate n tagSkip)
    match (do castArea h a w (castTo h); if h.pin.isNone then keepSpread h o.ix a w else pure () : Act Unit) s with
    | .ok r => .ok r
    | .error _ => .ok ((), s)

/-- MOVE form 0 (R146); the undefined forms of MOVE are skipped here (R159). -/
def execMove (c i : Nat) (s : State) : Host.Outcome State Fault Refusal :=
  onUnit (clusterOk c) "cluster" s (runWord (fun w => w.op == 0x000 && (w.form == 0 || decide (3 ≤ w.form))) .either moveCopy fillOut c i s)

/-- MOVE form 1 (R116, R146). -/
def execMoveMulticast (c i : Nat) (s : State) : Host.Outcome State Fault Refusal :=
  onUnit (clusterOk c) "cluster" s (runWord (fun w => w.op == 0x000 && w.form == 1) .either moveCast castFill c i s)

/-- MOVE form 2 (R146). -/
def execMoveFill (c i : Nat) (s : State) : Host.Outcome State Fault Refusal :=
  onUnit (clusterOk c) "cluster" s (runWord (fun w => w.op == 0x000 && w.form == 2) .either moveFill fillOut c i s)

/-! ## RAND -/

/-- The format and the code of each output form of RAND (R84); form 0 writes INT32 elements (log entry 17). -/
def randFmt (form : Nat) : Nat := match form with
  | 0 => fInt32 | 1 => fFp32 | 2 => fFp16 | _ => fUint8

def randCode (form p u : Nat) : Nat := match form with
  | 0 => u
  | 1 => (encFp true (.fin false (u / 2 ^ 8) (-24))).bits
  | 2 => (encFp false (.fin false (u / 2 ^ 21) (-11))).bits
  | _ => if u ≥ p then 1 else 0

/-- RAND: quill words under purpose 0b01 in the output's form (R84, R147). -/
def doRand (h : Here) : Act Unit := do
  need (decide (h.w.form < 4)) cForm 0
  needFields h 0 (if h.w.form = 3 then 0xFFFFFFFF else 0)
  needNone h 2
  let key ← keyAt h (if h.w.b = noDesc then h.cmd.skey else h.w.b) 1
  let out ← opnd h 0 true
  need (out.fmt == randFmt h.w.form) cFormat 0
  let dims ← dimsOf h out
  let us ← draws h key 1 out (volume dims)
  store h out (Arr.of out.fmt dims (us.map (randCode h.w.form (h.w.imm % 2 ^ 32))) (us.map (fun _ => 0)))
  bump h out (fun c => { c with elements := sat32 c.elements us.length })

/-- RAND (R84, R147). -/
def execRand (c i : Nat) (s : State) : Host.Outcome State Fault Refusal :=
  onUnit (clusterOk c) "cluster" s (runWord (fun w => w.op == 0x280) .either doRand fillOut c i s)

/-! ## SYNC -/

/-- Whether a SYNC stands where it may: among the first eight words, after SYNC words only (R148). -/
def syncPlaced (h : Here) : Bool :=
  let n := h.w.ix - h.cmd.first
  decide (n < 8) && (List.range n).all (fun k => (wordAt h.prog (h.cmd.first + k)).op == 0x2C0)

/-- The fields of a SYNC (R148, R143). -/
def syncFields (w : Word128) : Bool := decide (w.mod < 2) && (w.mod == 0 || decide (w.imm < 128))

/-- What a SYNC word does once its command runs: it is checked; its hold acted at the start (R148). -/
def doSync (h : Here) : Act Unit := do
  need (syncPlaced h) cSync 0
  need (h.w.form == 0) cForm 0
  needNone h 0
  needNone h 1
  needNone h 2
  need (syncFields h.w) cReserved 0
  let s ← get
  let r ← getRun h
  let q := ((s.ctxs[r.ctx]?).bind (fun c => c.queues[h.w.imm % 16]?))
  need ((q.map (fun q => q.valid)).getD false) cDesc 0

/-- SYNC (R148). -/
def execSync (c i : Nat) (s : State) : Host.Outcome State Fault Refusal :=
  onUnit (clusterOk c) "cluster" s (runWord (fun w => w.op == 0x2C0) .once doSync (fun _ => pure ()) c i s)

/-! ## CHAIN -/

/-- The words from `first` up to and with the first CHAIN.END, at most `n`; none without an end. -/
def chainWords (p : Bytes) : Nat → Nat → Option (List Word128)
  | _, 0 => none
  | first, n + 1 =>
    let w := wordAt p first
    if w.op = 0x302 then some [w] else (chainWords p (first + 1) n).map (w :: ·)

/-- Whether a descriptor is a hand-over region of 1 to 4 slots (R149). -/
def handOverOk (p : Bytes) (ix : Nat) : Bool :=
  decide (ix < hDescCount p) && num (descAt p ix) 0 1 == dtRegion &&
  match parseArea (descAt p ix) with
  | some a => decide (1 ≤ a.slots)
  | none => false

/-- Whether a chain word names nothing in the slots `sl` and has no other field than an immediate of 4 bits. -/
def chainWordOk (w : Word128) (sl : List Nat) : Bool :=
  w.form == 0 && w.mod == 0 && decide (w.imm < 16) && sl.all (fun k => w.opnd k == noDesc)

/-- The rules of R149 on the words of a chain, its CHAIN.BEGIN first. -/
def chainOk (p : Bytes) (ws : List Word128) : Bool :=
  match ws with
  | [] => false
  | b :: rest =>
    let st := rest.filter (fun w => w.op == 0x301)
    let n := st.length
    chainWordOk b [0, 1, 2] && decide (2 ≤ b.imm) && decide (b.imm ≤ 8) && n == b.imm
      && (rest.head?.map (fun w => w.op)) == some 0x301
      && !(rest.any (fun w => w.op == 0x300))
      && (rest.getLast?.map (fun w => chainWordOk w [0, 1, 2] && w.imm == 0)).getD false
      && (List.range n).all (fun k =>
        match st[k]? with
        | none => false
        | some w =>
          chainWordOk w [2] && w.imm == k
            && (if k = 0 then w.a == noDesc else some w.a == (st[k - 1]?).map (fun v => v.b))
            && (if k + 1 = n then w.b == noDesc else handOverOk p w.b))

/-- The words that a CHAIN.BEGIN governs: to its CHAIN.END, or to the end of the command (R149). -/
def chainSpan (h : Here) : Nat :=
  let left := h.cmd.first + h.cmd.count - h.w.ix
  ((chainWords h.prog h.w.ix left).map List.length).getD left

/-- CHAIN.BEGIN: opens the command's one chain when its words keep the rules, and is skipped with CHAIN_STRUCTURE otherwise (R149). -/
def doChainBegin (h : Here) : Act Unit := do
  let r ← getRun h
  let l := (chainWords h.prog h.w.ix (h.cmd.first + h.cmd.count - h.w.ix)).getD []
  need (chainOk h.prog l && r.badChain.isNone) cChain 0
  let hand := (l.filter (fun w => w.op == 0x301 && w.b != noDesc)).map (fun w =>
    let n := ((parseArea (descAt h.prog w.b)).map (fun a => a.slots)).getD 1
    ({ desc := w.b, full := List.replicate n false, prod := 0, cons := 0 } : HandOver))
  putRun h (fun r => { r with badChain := some h.w.ix, lastStage := 255,
                              chain := some { begin := h.w.ix, stages := h.w.imm, stage := 0, regions := hand } })

/-- Every word of a chain that breaks the rules is skipped: its outputs are filled, and the command goes on after it (R149). -/
def chainFill (fillWord : Here → Act Unit) (h : Here) : Act Unit := do
  let n := chainSpan h
  for k in List.range n do
    for t in targets { h with w := wordAt h.prog (h.w.ix + k) } do
      fillWord t
  let inside := fun (k : Nat) => decide (h.w.ix < k) && decide (k < h.w.ix + n)
  putRun h (fun r =>
    let r := (range' (h.w.ix + 1) (n - 1)).foldl (fun (r : Run) k => if (r.unissued h.cmd).contains k then r.passed k else r) r
    { r with issued := r.issued.filter (fun x => !inside x.index), badChain := some (r.badChain.getD h.w.ix) })

/-- Whether the slot that a stage produces next is full, and the one that a stage consumes next (R113). -/
def slotTaken (c : Chain) (k : Nat) : Bool := ((c.regions[k]?).bind (fun x => x.full[x.prod]?)).getD false

def slotFull (c : Chain) (k : Nat) : Bool := ((c.regions[k]?).bind (fun x => x.full[x.cons]?)).getD false

/-- The hand-over region between stages `k` and `k + 1` produced or consumed once (R113). -/
def handProduce (c : Chain) (k : Nat) : Chain :=
  { c with regions := modNth c.regions k (fun x => { x with full := modNth x.full x.prod (fun _ => true), prod := (x.prod + 1) % max 1 x.full.length }) }

def handConsume (c : Chain) (k : Nat) : Chain :=
  { c with regions := modNth c.regions k (fun x => { x with full := modNth x.full x.cons (fun _ => false), cons := (x.cons + 1) % max 1 x.full.length }) }

/-- The end of the present stage: its output slot is full, its input slot empty (R113). -/
def stageEnd (r : Run) : Run :=
  match r.chain with
  | none => r
  | some c =>
    if r.lastStage = 255 then r else
    let c := if r.lastStage + 1 < c.stages then handProduce c r.lastStage else c
    let c := if 0 < r.lastStage then handConsume c (r.lastStage - 1) else c
    { r with chain := some c }

/-- Whether the stage that is open waits for its next slot to be empty before it ends (R113). -/
def stageWaits (r : Run) (c : Chain) : Bool := decide (r.lastStage + 1 < c.stages) && slotTaken c r.lastStage

/-- CHAIN.STAGE: the next stage of the open chain (R149): the stage before it marks its slot full, once that is empty, and this one begins
once its own is full (R113). -/
def doChainStage (h : Here) : Act Unit := do
  let r ← getRun h
  match r.chain with
  | none => skip cChain 0
  | some c =>
    if stageWaits r c then hold else
    let r := stageEnd r
    if h.w.imm ≠ 0 ∧ (r.chain.map (fun c => slotFull c (h.w.imm - 1))) = some false then hold else
    putRun h (fun _ => { r with lastStage := h.w.imm, chain := r.chain.map (fun c => { c with stage := h.w.imm }) })

/-- CHAIN.END: the chain closes (R149). -/
def doChainEnd (h : Here) : Act Unit := do
  let r ← getRun h
  need r.chain.isSome cChain 0
  if (r.chain.map (stageWaits r)) = some true then hold else
  putRun h (fun r => { stageEnd r with chain := none, lastStage := 255 })

/-- CHAIN.STAGE (R113, R149). -/
def execChainStage (c i : Nat) (s : State) : Host.Outcome State Fault Refusal :=
  onUnit (clusterOk c) "cluster" s (runWord (fun w => w.op == 0x301) .once doChainStage (fun _ => pure ()) c i s)

/-- CHAIN.END (R113, R149). -/
def execChainEnd (c i : Nat) (s : State) : Host.Outcome State Fault Refusal :=
  onUnit (clusterOk c) "cluster" s (runWord (fun w => w.op == 0x302) .once doChainEnd (fun _ => pure ()) c i s)

/-! ## STAT -/

/-- A u64 written to a region of this core, or of every core of the command in distributed form (R150). -/
def statWrite (h : Here) (v : Nat) : Act Unit := do
  need (h.w.form == 0) cForm 0
  needFields h 0 0
  needNone h 1
  needNone h 2
  let (o, a) ← regionOf h 0
  need (decide (8 ≤ a.room)) cAccess (a.base + a.room)
  let cells := (List.range 8).map (fun i => (a.base + i, v / 256 ^ i % 256, 0))
  match h.pin with
  | some (_, j, l) => writeScratch h j l cells
  | none => do
    for x in castTo h do
      writeScratch h x.1 x.2 cells
    let es := elemSize a.fmt
    let n := max 1 (8 / es)
    let dims := if a.cols * a.rows = n then [a.cols, a.rows] else [n]
    keepSpread h o.ix a (Arr.of a.fmt dims ((List.range n).map (fun i => v / 256 ^ (i * es) % 256 ^ es)) (List.replicate n 0))

/-- The fill of a skipped STAT (R125). -/
def statFill (h : Here) : Act Unit := fun s =>
  match regionOf h 0 s with
  | .error _ => .ok ((), s)
  | .ok ((o, a), s) =>
    let n := a.cols * a.rows
    let w := Arr.of a.fmt [a.cols, a.rows] (List.replicate n (fillCode a.fmt)) (List.replicate n tagSkip)
    match (match h.pin with
      | some (_, j, l) => castArea h a w [(j, l)]
      | none => do castArea h a w (castTo h); keepSpread h o.ix a w : Act Unit) s with
    | .ok r => .ok r
    | .error _ => .ok ((), s)

/-- STAT.TIME: the plumb time rounded down to a multiple of 4096 ticks (R40, R150). -/
def doStatTime (h : Here) : Act Unit := do
  let s ← get
  statWrite h ((s.dieNow (h.lead / 8)).toNat / 4096 * 4096)

/-- STAT.STEP: the command's step number (R150). -/
def doStatStep (h : Here) : Act Unit := do
  let r ← getRun h
  statWrite h r.step

/-- STAT.CORES: how many present cores the command runs on (R150). -/
def doStatCores (h : Here) : Act Unit := do
  let s ← get
  let r ← getRun h
  statWrite h ((r.clusters.eraseDups.map (fun k => (s.liveCores k).length)).foldl (· + ·) 0)

/-- STAT.TIME (R40, R150). -/
def execStatTime (c i : Nat) (s : State) : Host.Outcome State Fault Refusal :=
  onUnit (clusterOk c) "cluster" s (runWord (fun w => w.op == 0x380) .either doStatTime statFill c i s)

/-- STAT.STEP (R150). -/
def execStatStep (c i : Nat) (s : State) : Host.Outcome State Fault Refusal :=
  onUnit (clusterOk c) "cluster" s (runWord (fun w => w.op == 0x381) .either doStatStep statFill c i s)

/-- STAT.CORES (R150). -/
def execStatCores (c i : Nat) (s : State) : Host.Outcome State Fault Refusal :=
  onUnit (clusterOk c) "cluster" s (runWord (fun w => w.op == 0x382) .either doStatCores statFill c i s)

end Sys2Proof.Machine
end

