-- ==== Sys2Proof/Machine/Vector.lean ====
section
/-! DEFINITION. The vector unit (R85 to R94, R232, R465). -/

namespace Sys2Proof.Machine

/-! ## Element operations -/

/-- VEC.BINARY on two values of one floating format (R85, R86): add, subtract, multiply, minimum, maximum, divide. Minimum and
maximum round nothing. -/
def vecBinary (form : Nat) (w : Bool) (a b : Fp) : Res :=
  match form with
  | 0 => lane w (fpAdd a b)
  | 1 => lane w (fpAdd a (fpNeg b))
  | 2 => lane w (fpMul a b)
  | 3 => encFp w (fpMin a b)
  | 4 => encFp w (fpMax a b)
  | _ => lane w (fpDiv a b)

/-- The fused multiply-add a × b + c (R85). -/
def vecFma (w : Bool) (a b c : Fp) : Res := lane w (fpAdd (fpMul a b) c)

/-- An FP32 result taken into an FP16 lane (R85, R87). -/
def toLane (w : Bool) (r : Res) : Res :=
  if w then r
  else
    let h := encFp false (fpOf true r.bits)
    { h with ovf := h.ovf || r.ovf, unf := h.unf || r.unf }

/-- VEC.UNARY (R85, R87): the functions of R87, square root, absolute value, negate. -/
def vecUnary (form : Nat) (w : Bool) (v : Fp) : Res :=
  if form = 12 then lane w (fpSqrt v)
  else if form = 13 then encFp w (match v with | .nan => .nan | .inf _ => .inf false | .fin _ m e => .fin false m e)
  else if form = 14 then encFp w (fpNeg v)
  else toLane w (vecFn form v)

/-- VEC.COMPARE: 1 where the comparison holds (R86). -/
def vecCompare (form : Nat) (a b : Fp) : Nat :=
  b2n (match form with
    | 0 => fpEq a b
    | 1 => !fpEq a b
    | 2 => fpLt a b
    | _ => fpLt a b || fpEq a b)

/-- A float converted to FP16 by R89: a zero or an infinity keeps its sign, a non-zero value rounds by R73. -/
def cvtFloat (w : Bool) (v : Fp) (u : Option Nat) : Res :=
  match v with
  | .nan => Res.of (nanBits w)
  | .inf s => Res.of (infBits w s)
  | .fin s m e => if m = 0 then Res.of (zeroBits w s) else encode' w false s m e u

/-- One element converted from format `f` to format `g` (R89, R93, R232); none for a pair the manual does not name. -/
def cvtElem (f g : Nat) (n : Nat) (u : Option Nat) : Option Res :=
  let fromInt := fun (i : Int) (sat : Bool) =>
    if g = fFp16 then some { encFp false (fpOfInt i) with sat := sat }
    else if g = fFp32 then some { encFp true (fpOfInt i) with sat := sat }
    else if g = fInt32 then some { Res.of (unsext 32 i) with sat := sat }
    else none
  if f = fFp16 && g == fFp32 then some (encFp true (fpOf false n))
  else if f = fFp32 && g == fFp16 then some (cvtFloat false (fpOf true n) u)
  else if f = fFp16 || f = fFp32 then
    (if g = fInt16 then some (intRes 16 (fpToInt 16 (fpOf (f == fFp32) n)))
     else if g = fInt32 then some (intRes 32 (fpToInt 32 (fpOf (f == fFp32) n)))
     else none)
  else if f = fInt16 then fromInt (sext 16 n) false
  else if f = fInt32 then
    (if g = fInt16 then some (intRes 16 (satInt 16 (sext 32 n)))
     else if g = fFp16 || g = fFp32 then fromInt (sext 32 n) false
     else none)
  else if f = fUint8 || f = fUint16 then
    (let x := sample16 (f == fUint16) n
     if g = fInt16 then some (intRes 16 x) else fromInt x.1 x.2)
  else if f = fExa && (g == fFp16 || g == fFp32) then some (drainElem (g == fFp32) (exaOf n) 0 u)
  else none

/-- The saturating sum of R90 in ascending order, with its sticky mark (R91). -/
def imac (xs ys : List Int) : Int × Bool :=
  (xs.zipWith (· * ·) ys).foldl (fun (a : Int × Bool) p =>
    let r := satInt 32 (a.1 + p)
    (r.1, a.2 || r.2)) (0, false)

/-- The floating sum of a row: exact products with 1, in the FP16 class or an FP32 window (R88). -/
def rowSum (w : Bool) (xs : List Fp) : Exa := (accumulate (Acc.start (if w then -128 else 0)) xs).finish

/-- Maximum or minimum of a row (R86, R88): −Inf or +Inf over an empty axis. -/
def rowBest (mx : Bool) (xs : List Fp) : Fp :=
  match xs with
  | [] => .inf mx
  | x :: t => t.foldl (if mx then fpMax else fpMin) x

/-! ## Shapes (R465) -/

/-- The operand has one of two formats, FP16 or FP32. -/
def isFloat (f : Nat) : Bool := f == fFp16 || f == fFp32

/-- Element-wise inputs and output agree in shape: the output's dims. -/
def likeOut (h : Here) (o : Opnd) (dims : List Nat) : Act (List Nat) := do
  let d := outDims h o dims
  needShape dims d
  pure d

/-! ## The instructions -/

/-- VEC.BINARY (R85, R86). -/
def doVecBinary (h : Here) : Act Unit := do
  need (decide (h.w.form < 6)) cForm 0
  needFields h 0 0
  let a ← opnd h 0 false
  let b ← opnd h 1 false
  let o ← opnd h 2 true
  need (isFloat a.fmt && a.fmt == b.fmt && a.fmt == o.fmt) cFormat 0
  let x ← fetch h a
  let y ← fetch h b
  needShape x.dims y.dims
  let d ← likeOut h o x.dims
  storeRes h o d (x.vals.zipWith (vecBinary h.w.form (o.fmt == fFp32)) y.vals) (x.tags.zipWith tagOr y.tags)

/-- VEC.FMA: c is the output's prior content (R85). -/
def doVecFma (h : Here) : Act Unit := do
  need (h.w.form == 0) cForm 0
  needFields h 0 0
  let a ← opnd h 0 false
  let b ← opnd h 1 false
  let o ← opnd h 2 true
  need (isFloat a.fmt && a.fmt == b.fmt && a.fmt == o.fmt) cFormat 0
  let x ← fetch h a
  let y ← fetch h b
  needShape x.dims y.dims
  let d ← likeOut h o x.dims
  let c ← fetch h o
  need (c.elems.length == x.elems.length) cShape 0
  let xy := x.vals.zip y.vals
  storeRes h o d (xy.zipWith (fun p z => vecFma (o.fmt == fFp32) p.1 p.2 z) c.vals)
    ((x.tags.zipWith tagOr y.tags).zipWith tagOr c.tags)

/-- VEC.UNARY (R85, R87). -/
def doVecUnary (h : Here) : Act Unit := do
  need (decide (h.w.form < 15)) cForm 0
  needFields h 0 0
  needNone h 1
  let a ← opnd h 0 false
  let o ← opnd h 2 true
  need (isFloat a.fmt && a.fmt == o.fmt) cFormat 0
  let x ← fetch h a
  let d ← likeOut h o x.dims
  storeRes h o d (x.vals.map (vecUnary h.w.form (o.fmt == fFp32))) x.tags

/-- One reduced row as an element of format `g` other than SFP16 (R88). -/
def reduceRow (form : Nat) (w : Bool) (g : Nat) (xs : List Fp) : Res :=
  if form = 0 then
    let z := rowSum w xs
    if g = fExa then Res.of (exaNat z) else drainElem (g == fFp32) z 0 none
  else encFp w (rowBest (form == 1) xs)

/-- Words drained to an output of FP16, FP32 or SFP16, with their counts (R71, R75). -/
def storeWords (h : Here) (o : Opnd) (dims : List Nat) (ws : List (Exa × Nat)) : Act Unit := do
  let tags := ws.map (fun x => if x.1.blot then tagOr x.2 tagParity else x.2)
  if o.fmt = fSfp16 then
    let gr := o.grouping dims
    let r := drainGroups (volume (groupDims dims gr.1 gr.2)) ((groups dims gr.1 gr.2).zip (ws.map (·.1)))
    store h o { fmt := fSfp16, dims := dims, elems := r.1.map (·.bits), tags := tags, scales := r.2, axis := gr.1, group := gr.2 }
    bumpRes h o r.1
  else storeRes h o dims (ws.map (fun x => drainElem (o.fmt == fFp32) x.1 0 none)) tags

/-- VEC.REDUCE along the innermost axis (R88, R465). -/
def doVecReduce (h : Here) : Act Unit := do
  need (decide (h.w.form < 3)) cForm 0
  needFields h 0 0
  needNone h 1
  let a ← opnd h 0 false
  let o ← opnd h 2 true
  need (isFloat a.fmt && (if h.w.form = 0 then isFloat o.fmt || o.fmt == fSfp16 || o.fmt == fExa else o.fmt == a.fmt)) cFormat 0
  let x ← fetch h a
  let k := (x.dims[0]?).getD 1
  let rest := x.dims.drop 1
  let n := volume rest
  let d := outDims h o rest
  need (volume d == n && (o.isArea || d == rest)) cShape (axisOf d rest)
  let rows := if k = 0 then List.replicate n [] else chunks n k x.vals
  let tags := if k = 0 then List.replicate n 0 else (chunks n k x.tags).map tagAll
  if o.fmt = fSfp16 then storeWords h o d ((rows.map (rowSum (a.fmt == fFp32))).zip tags)
  else storeRes h o d (rows.map (reduceRow h.w.form (a.fmt == fFp32) o.fmt)) tags
  if k = 0 then bump h o (fun c => { c with emptyRows := sat32 c.emptyRows n }) else pure ()

/-- VEC.CONVERT (R89, R93, R232). DESIGN CHOICE (log entry 95): R89 rounds stochastically only FP32 to FP16 and what R232 drains. FORM 1
with another pair of floating output rounds as R89 says and leaves the draw unused; FORM 1 with an integer output is skipped with
FORMAT. -/
def doVecConvert (h : Here) : Act Unit := do
  need (decide (h.w.form < 2)) cForm 0
  needFields h 0 0
  needNone h 1
  let a ← opnd h 0 false
  let o ← opnd h 2 true
  need ((cvtElem a.fmt o.fmt 0 none).isSome && (h.w.form == 0 || isFloat o.fmt)) cFormat 0
  let x ← fetch h a
  let d ← likeOut h o x.dims
  let us ← if h.w.form = 0 then pure (x.elems.map (fun _ => none)) else do
    let key ← keyAt h h.cmd.rkey 0
    let l ← draws h key 0 o x.elems.length
    pure (l.map some)
  let rs := (x.elems.zip us).map (fun p => (cvtElem a.fmt o.fmt p.1 p.2).getD (Res.of 0))
  let tags := x.elems.zipWith (fun n t => if a.fmt = fExa && (exaOf n).blot then tagOr t tagParity else t) x.tags
  let nans := if isFloat a.fmt && !isFloat o.fmt then (x.elems.filter (isNan (a.fmt == fFp32))).length else 0
  storeRes h o d rs tags
  bump h o (fun c => { c with nan := sat32 c.nan nans })

/-- VEC.IMAC: OP_A (K, N), OP_B (K, …), OP_C (N, …) (R90, R91, R465). -/
def doVecImac (h : Here) : Act Unit := do
  need (h.w.form == 0) cForm 0
  needFields h 0 0
  let a ← opnd h 0 false
  let b ← opnd h 1 false
  let o ← opnd h 2 true
  need (a.fmt == fInt16 && b.fmt == fInt16 && o.fmt == fInt32) cFormat 0
  let x ← fetch h a
  let y ← fetch h b
  let k := (x.dims[0]?).getD 1
  let n := (x.dims[1]?).getD 1
  need (volume (x.dims.drop 2) == 1 && (y.dims[0]?).getD 1 == k) cShape 0
  let d := outDims h o (n :: y.dims.drop 1)
  needShape d (n :: y.dims.drop 1)
  let m := volume (y.dims.drop 1)
  let cs := if k = 0 then List.replicate n [] else chunks n k x.ints
  let ct := if k = 0 then List.replicate n 0 else (chunks n k x.tags).map tagAll
  let ss := if k = 0 then List.replicate m [] else chunks m k y.ints
  let st := if k = 0 then List.replicate m 0 else (chunks m k y.tags).map tagAll
  let rs := (ss.zip st).flatMap (fun s => (cs.zip ct).map (fun c =>
    let r := imac c.1 s.1
    ({ Res.of (unsext 32 r.1) with sat := r.2 }, tagOr c.2 s.2)))
  storeRes h o d (rs.map (·.1)) (rs.map (·.2))

/-- VEC.NARROW by the shift in modifier bits 4:0 (R92, R465). -/
def doVecNarrow (h : Here) : Act Unit := do
  need (decide (h.w.form < 2)) cForm 0
  needFields h 0x1F 0
  needNone h 1
  let a ← opnd h 0 false
  let o ← opnd h 2 true
  need (a.fmt == fInt32 && o.fmt == fInt16) cFormat 0
  let x ← fetch h a
  let d ← likeOut h o x.dims
  storeRes h o d (x.ints.map (fun v => intRes 16 (narrow (h.w.mod % 32) (h.w.form == 1) v))) x.tags

/-- VEC.COMPARE into a UINT8 mask (R86). -/
def doVecCompare (h : Here) : Act Unit := do
  need (decide (h.w.form < 4)) cForm 0
  needFields h 0 0
  let a ← opnd h 0 false
  let b ← opnd h 1 false
  let o ← opnd h 2 true
  need (isFloat a.fmt && a.fmt == b.fmt && o.fmt == fUint8) cFormat 0
  let x ← fetch h a
  let y ← fetch h b
  needShape x.dims y.dims
  let d ← likeOut h o x.dims
  storeRes h o d (x.vals.zipWith (fun p q => Res.of (vecCompare h.w.form p q)) y.vals) (x.tags.zipWith tagOr y.tags)

/-- VEC.BINARY (R85, R86). -/
def execVecBinary (c i : Nat) (s : State) : Host.Outcome State Fault Refusal :=
  onUnit (clusterOk c) "cluster" s (runWord (fun w => w.op == 0x180) .either doVecBinary fillOut c i s)

/-- VEC.FMA (R85). -/
def execVecFma (c i : Nat) (s : State) : Host.Outcome State Fault Refusal :=
  onUnit (clusterOk c) "cluster" s (runWord (fun w => w.op == 0x181) .either doVecFma fillOut c i s)

/-- VEC.UNARY (R85, R87). -/
def execVecUnary (c i : Nat) (s : State) : Host.Outcome State Fault Refusal :=
  onUnit (clusterOk c) "cluster" s (runWord (fun w => w.op == 0x182) .either doVecUnary fillOut c i s)

/-- VEC.REDUCE (R88, R465). -/
def execVecReduce (c i : Nat) (s : State) : Host.Outcome State Fault Refusal :=
  onUnit (clusterOk c) "cluster" s (runWord (fun w => w.op == 0x183) .either doVecReduce fillOut c i s)

/-- VEC.CONVERT (R89, R232). -/
def execVecConvert (c i : Nat) (s : State) : Host.Outcome State Fault Refusal :=
  onUnit (clusterOk c) "cluster" s (runWord (fun w => w.op == 0x184) .either doVecConvert fillOut c i s)

/-- VEC.IMAC (R90, R91, R465). -/
def execVecImac (c i : Nat) (s : State) : Host.Outcome State Fault Refusal :=
  onUnit (clusterOk c) "cluster" s (runWord (fun w => w.op == 0x185) .either doVecImac fillOut c i s)

/-- VEC.NARROW (R92, R465). -/
def execVecNarrow (c i : Nat) (s : State) : Host.Outcome State Fault Refusal :=
  onUnit (clusterOk c) "cluster" s (runWord (fun w => w.op == 0x186) .either doVecNarrow fillOut c i s)

/-- VEC.COMPARE (R86). -/
def execVecCompare (c i : Nat) (s : State) : Host.Outcome State Fault Refusal :=
  onUnit (clusterOk c) "cluster" s (runWord (fun w => w.op == 0x187) .either doVecCompare fillOut c i s)

end Sys2Proof.Machine
end

