-- ==== Sys2Proof/Machine/Products.lean ====
section
/-! DEFINITION. The product instructions MATMUL (R144) and CONV (R192 to R206, R217), and the DRAIN that writes their results with
its post-operations (R71 to R78, R105, R145, R203, R224 to R228). -/

namespace Sys2Proof.Machine

/-! ## Operands of a product -/

/-- One floating operand of a product, element by element: its value without scale, NaN under a scale that is not valid, its scale
exponent and its blot tag (R61, R62). A padding element carries no scale of its operand; at a gap no product is formed. -/
structure Factor where
  v   : Fp
  e   : Int
  t   : Nat
  pad : Bool := false
  gap : Bool := false
  deriving DecidableEq, Repr, Inhabited

/-- A padding element (R198). -/
def Factor.zero : Factor := { v := .fin false 0 0, e := 0, t := 0, pad := true }

/-- What stands at a contraction index that has no product (R199). -/
def Factor.hole : Factor := { Factor.zero with gap := true }

/-- The factors of an operand in element order. -/
def Arr.factors (a : Arr) : List Factor :=
  if a.fmt = fSfp16 then
    ((a.elems.zip a.tags).zip a.scaleList).map (fun x =>
      if scaleOk x.2 then { v := fpOf false x.1.1, e := scaleExp x.2, t := x.1.2 } else { v := .nan, e := 0, t := x.1.2 })
  else (a.vals.zip a.tags).map (fun x => { v := x.1, e := 0, t := x.2 })

/-- A value times a power of two. -/
def fpScale (v : Fp) (e : Int) : Fp := match v with
  | .fin s m k => .fin s m (k + e)
  | x => x

/-- The formats of each form of MATMUL and CONV (R143). -/
def prodFmts (form : Nat) : Option (Nat × Nat) :=
  match form with
  | 0 => some (fFp16, fFp16) | 1 => some (fFp32, fFp32) | 2 => some (fSfp16, fFp16) | 3 => some (fFp16, fSfp16)
  | 4 => some (fSfp16, fSfp16) | _ => none

/-- How the accumulators of a product start (R64 to R66): the FP16 class, a window that chooses its anchor, or a given anchor a. -/
inductive Start where
  | fp16
  | auto
  | given (a : Int)
  deriving DecidableEq, Repr

/-- A cleared word. -/
def Start.acc : Start → Acc
  | .fp16 => Acc.start 0
  | .auto => Acc.start (-128)
  | .given a => Acc.start (a - 8)

/-- A reloaded word (R64); one whose anchor is not the accumulation's is realigned as an addend (R69, R70; log entry 19). -/
def Start.reload (st : Start) (x : Exa) : Acc :=
  match st with
  | .auto => Acc.reload x
  | _ =>
    let a := st.acc
    if x.anchor = a.word.anchor then Acc.reload x
    else
      let b := a.addExa x
      { b with word := { b.word with empty := x.empty } }

/-- One accumulator word: the products of two factor lists in logical order. With `window` every product takes both scale exponents
(the second case of R62); otherwise the exponents are left for the drain. -/
def prodWord (st : Start) (window : Bool) (spill : Option Exa) (xs ys : List Factor) : Exa :=
  let ps := xs.zipWith (fun x y =>
    if x.gap || y.gap then none else
    let p := fpMul x.v y.v
    some (if window then fpScale p (x.e + y.e) else p)) ys
  (accumulateSome (match spill with | some x => st.reload x | none => st.acc) ps).finish

/-- The exponent of the one scale along a contraction (R62): that of its first element that is no padding. -/
def oneScale (xs : List Factor) : Int := ((xs.find? (fun x => !x.pad)).map (·.e)).getD 0

/-- The exponent that the drain applies in the first case of R62. -/
def prodSc (window : Bool) (xs ys : List Factor) : Int := if window then 0 else oneScale xs + oneScale ys

/-- The word of an output element with its tag: BLOT with a PARITY-tagged operand (R123). -/
def prodElem (st : Start) (window : Bool) (spill : Option (Exa × Nat)) (xs ys : List Factor) : Exa × Int × Nat :=
  let t := tagOr (tagAll (xs.map (·.t))) (tagOr (tagAll (ys.map (·.t))) ((spill.map (·.2)).getD 0))
  let w := prodWord st window (spill.map (·.1)) xs ys
  ({ w with blot := w.blot || t.testBit 0 }, prodSc window xs ys, t)

/-- The stage a product or drain belongs to: the present stage of the chain, 255 outside one (R145). -/
def stageOf (r : Run) : Nat := r.lastStage

/-- The core a product belongs to (R145). -/
def Here.core (h : Here) : Option (Nat × Nat) := h.pin.map (fun p => (p.2.1, p.2.2))

/-- The accumulators of a target replaced. -/
def putProduct (h : Here) (p : Product) : Act Unit :=
  putRun h (fun r =>
    let p := { p with core := h.core, stage := stageOf r }
    { r with products := p :: r.products.filter (fun q => !(q.core == p.core && q.stage == p.stage)) })

/-- An empty product. -/
def Product.blank : Product :=
  { core := none, stage := 255, shape := [], words := [], sc := [], fp32 := none, layout := none, chans := 0, c2s := 1, tags := [],
    skipped := false, attend := none }

/-- An instruction of a core is done with its halo rows: they are empty again (R218). -/
def haloDone (h : Here) : Act Unit :=
  match h.pin with
  | none => pure ()
  | some (p, _, _) => putRun h (fun r => { r with halos := r.halos.filter (fun x => !(x.index == h.w.ix && x.core == p)) })

/-- A skipped product leaves its accumulators unwritten for the drain that follows (R159); its halo rows are free (R218). -/
def productFill (h : Here) : Act Unit := do
  putProduct h { Product.blank with skipped := true }
  haloDone h

/-- Words of a product with their exponents and tags as accumulators. -/
def accOf (shape : List Nat) (ws : List (Exa × Int × Nat)) : Product :=
  { Product.blank with shape := shape, words := ws.map (·.1), sc := ws.map (·.2.1), tags := ws.map (·.2.2) }

/-- A spill operand in OP_C: its words with tags, or nothing (R144). -/
def spillWords (h : Here) (n : Nat) : Act (List (Option (Exa × Nat))) := do
  let o ← opndOpt h 2
  match o with
  | none => pure (List.replicate n none)
  | some o => do
    need (o.fmt == fExa) cFormat 0
    let a ← fetch h o
    need (a.elems.length == n) cShape 0
    pure ((a.elems.zip a.tags).map (fun x => some (exaOf x.1, x.2)))

/-! ## MATMUL (R144) -/

/-- A matrix operand as rows along the contraction: element (r, k) of `n` rows of length `k`; `inner` says that the contraction axis
is the innermost. -/
def rowsAlong (fs : List Factor) (inner : Bool) (n k : Nat) : List (List Factor) :=
  if inner then (if k = 0 then List.replicate n [] else chunks n k fs)
  else (List.range n).map (fun r => (List.range k).map (fun j => (fs[r + n * j]?).getD Factor.zero))

/-- Whether a matrix operand's scale is constant along its contraction (R62, R144). -/
def constScale (a : Arr) (axis k : Nat) : Bool := a.fmt != fSfp16 || (a.axis == axis && decide (k ≤ a.group))

/-- The two extents of a matrix operand. -/
def dims2 (d : List Nat) : Option (Nat × Nat) :=
  if (trimDims d).length ≤ 2 then some ((d[0]?).getD 1, (d[1]?).getD 1) else none

/-- MATMUL (R144). -/
def doMatmul (h : Here) : Act Unit := do
  match prodFmts h.w.form with
  | none => skip cForm 0
  | some (fa, fb) => do
    let given := h.w.mod.testBit 0
    needFields h 7 (if given then 0x1FF else 0)
    let ao ← opnd h 0 false
    let bo ← opnd h 1 false
    need (ao.fmt == fa && bo.fmt == fb) cFormat 0
    let a ← fetch h ao
    let b ← fetch h bo
    let ta := h.w.mod.testBit 1
    let tb := h.w.mod.testBit 2
    match dims2 a.dims, dims2 b.dims with
    | some (a0, a1), some (b0, b1) => do
      let k := if ta then a1 else a0
      let m := if ta then a0 else a1
      let kb := if tb then b0 else b1
      let n := if tb then b1 else b0
      need (k == kb) cShape (if ta then 1 else 0)
      let anchor := sext 9 h.w.imm
      need (!given || (decide (-119 ≤ anchor) && decide (anchor ≤ 135))) cAnchor 0
      let sp ← spillWords h (m * n)
      let window := !(constScale a (if ta then 1 else 0) k && constScale b (if tb then 0 else 1) k)
      let st := if given then Start.given anchor else if h.w.form = 1 || window then Start.auto else Start.fp16
      let rs := rowsAlong a.factors (!ta) m k
      let cs := rowsAlong b.factors tb n k
      let pairs := rs.flatMap (fun r => cs.map (fun c => (r, c)))
      putProduct h (accOf [n, m] ((pairs.zip sp).map (fun x => prodElem st window x.2 x.1.1 x.1.2)))
    | _, _ => skip cShape 2

/-- MATMUL (R144). -/
def execMatmul (c i : Nat) (s : State) : Host.Outcome State Fault Refusal :=
  onUnit (clusterOk c) "cluster" s (runWord (fun w => w.op == 0x040) .either doMatmul productFill c i s)

/-! ## Geometry and maps (R192 to R196) -/

/-- A geometry record (R195). -/
structure Geo where
  sh     : Nat
  sw     : Nat
  factor : Nat
  flags  : Nat
  ph     : Nat
  pw     : Nat
  pad    : Nat
  anchor : Int
  kh     : Nat
  kw     : Nat
  halo   : Nat
  ih     : Nat
  iw     : Nat
  deriving DecidableEq, Repr

/-- The geometry record that a word names, checked by R195 and R196. `smax` is the largest stride, `win` whether KH and KW are
used with bound `kmax`, `fac` whether a factor may stand, `sfp` whether a map is SFP16. -/
def geometry (h : Here) (smax : Nat) (win : Bool) (kmax : Nat) (fac sfp excl : Bool) : Act Geo := do
  let o := h.w.imm
  need (o % 16 == 0 && decide (o + 32 ≤ hConstBytes h.prog)) cDesc 3
  let d := sub h.prog (hConstOff h.prog + o) 32
  let g : Geo := { sh := num d 0 1, sw := num d 1 1, factor := num d 2 1, flags := num d 3 1, ph := num d 4 2, pw := num d 6 2,
                   pad := num d 8 2, anchor := sext 16 (num d 10 2), kh := num d 12 1, kw := num d 13 1, halo := num d 14 1,
                   ih := num d 16 4, iw := num d 20 4 }
  let ranged := decide (1 ≤ g.sh) && decide (g.sh ≤ smax) && decide (1 ≤ g.sw) && decide (g.sw ≤ smax) && decide (g.ph ≤ 255)
    && decide (g.pw ≤ 255) && decide (g.halo ≤ 16) && (!g.flags.testBit 1 || (decide (-119 ≤ g.anchor) && decide (g.anchor ≤ 135)))
    && (if win then decide (1 ≤ g.kh) && decide (g.kh ≤ kmax) && decide (1 ≤ g.kw) && decide (g.kw ≤ kmax) else g.kh == 0 && g.kw == 0)
    && (!fac || g.factor == 2 || g.factor == 4)
  need ranged cDesc 3
  need (decide (g.flags < 8) && num d 15 1 == 0 && num d 24 8 == 0 && (fac || g.factor == 0) && !(g.flags.testBit 0 && sfp)
    && (excl || !g.flags.testBit 2)) cReserved 0
  pure g

/-- A map operand seen as (n, c, y, x): extents, layout, and whether it is a region whose rows are map rows (R192, log entry 18). -/
structure MapView where
  layout : Nat
  c      : Nat
  w      : Nat
  h      : Nat
  n      : Nat
  region : Bool
  deriving DecidableEq, Repr

/-- The lanes of a blocked layout, 1 otherwise. -/
def lanes (layout : Nat) : Nat := match layout with
  | 2 => 16 | 3 => 32 | _ => 1

/-- The element index of (n, c, y, x). -/
def MapView.at' (m : MapView) (n c y x : Nat) : Nat :=
  let l := lanes m.layout
  if m.region then
    y * (m.w * (if l = 1 then m.c else l * ceilDiv m.c l)) +
      (match m.layout with
      | 0 => c * m.w + x
      | 1 => x * m.c + c
      | _ => (c / l * m.w + x) * l + c % l)
  else match m.layout with
    | 0 => x + m.w * (y + m.h * (c + m.c * n))
    | 1 => c + m.c * (x + m.w * (y + m.h * n))
    | _ => c % l + l * (x + m.w * (y + m.h * (c / l + ceilDiv m.c l * n)))

/-- The dims of a map in a layout, innermost first (R192). -/
def mapDims (layout c w h n : Nat) : List Nat :=
  match layout with
  | 0 => [w, h, c, n]
  | 1 => [c, w, h, n]
  | l => [lanes l, w, h, ceilDiv c (lanes l), n]

/-- The first axis at which extents disagree with a layout of `rank` axes (R192): one that is missing, too many, or not as `ok` wants. -/
def firstOff (rank : Nat) (ok : Nat → Nat → Bool) (dims : List Nat) : Option Nat :=
  (List.range (max rank dims.length)).find? (fun k =>
    match dims[k]? with
    | some v => !(decide (k < rank) && ok k v)
    | none => true)

/-- A layout check of R192: SHAPE, with the first axis that disagrees. -/
def needDims (rank : Nat) (ok : Nat → Nat → Bool) (dims : List Nat) : Act Unit :=
  match firstOff rank ok dims with
  | none => pure ()
  | some k => skip cShape k

/-- An operand of given dims read as a map of `c` true channels, all of its channels when none is given (R192, R193). -/
def mapOf (layout : Nat) (isRegion : Bool) (dims : List Nat) (c : Option Nat) : Act MapView := do
  let l := lanes layout
  if isRegion then
    let cols := (dims[0]?).getD 1
    let per := match c with | some c => (if l = 1 then c else l * ceilDiv c l) | none => l
    need (per != 0 && cols % max 1 per == 0) cShape 0
    pure { layout := layout, c := c.getD l, w := cols / max 1 per, h := (dims[1]?).getD 1, n := 1, region := true }
  else
    let d := fun (k : Nat) => (dims[k]?).getD 1
    match layout with
    | 0 => do
      needDims 4 (fun k v => k != 2 || c.getD v == v) dims
      pure { layout := 0, c := d 2, w := d 0, h := d 1, n := d 3, region := false }
    | 1 => do
      needDims 4 (fun k v => k != 0 || c.getD v == v) dims
      pure { layout := 1, c := d 0, w := d 1, h := d 2, n := d 3, region := false }
    | _ => do
      needDims 5 (fun k v => if k = 0 then v == l else k != 3 || ceilDiv (c.getD (l * v)) l == v) dims
      pure { layout := layout, c := c.getD (l * d 3), w := d 1, h := d 2, n := d 4, region := false }

/-- The output extent of R200, as an integer. -/
def outExt (x p k st : Nat) : Int := (Int.ofNat (x + 2 * p) - Int.ofNat k) / Int.ofNat st + 1

/-- The same, empty as 0. -/
def outN (x p k st : Nat) : Nat := (outExt x p k st).toNat

/-- A map with its elements: what stands at (n, c, y, x), padding outside (R197, R198). `lo` and `hi` bound the rows that exist. -/
structure MapData where
  view : MapView
  fs   : List Factor
  pad  : Factor
  lo   : Nat
  hi   : Nat
  deriving DecidableEq, Repr

/-- Whether a position of a map exists: rows that no neighbour gives at the first and last core of a striped map do not (R217). -/
def MapData.holds (m : MapData) (p : Int × Int) : Bool :=
  decide (0 ≤ p.1) && decide (Int.ofNat m.lo ≤ p.1) && decide (p.1 < Int.ofNat m.hi) && decide (0 ≤ p.2) && decide (p.2 < Int.ofNat m.view.w)

/-- The factor at a position, given as integers. -/
def MapData.get (m : MapData) (n c : Nat) (y x : Int) : Factor :=
  if m.holds (y, x) then (m.fs[m.view.at' n c y.toNat x.toNat]?).getD m.pad else m.pad

/-- Whether a map has an extent of 0 (R200). -/
def MapView.void (m : MapView) : Bool := m.c == 0 || m.w == 0 || m.h == 0 || m.n == 0

/-- The map regrouped by S2C (R202): channels c' = (fy·F + fx)·C + c. -/
def MapData.s2c (m : MapData) (f n c' : Nat) (y x : Int) : Factor :=
  let c := c' % max 1 m.view.c
  let k := c' / max 1 m.view.c
  if decide (y < 0) || decide (x < 0) || decide (y ≥ Int.ofNat (ceilDiv m.view.h f)) || decide (x ≥ Int.ofNat (ceilDiv m.view.w f))
  then m.pad else m.get n c (f * y + Int.ofNat (k / f)) (f * x + Int.ofNat (k % f))

/-! ## CONV (R194 to R206) -/

/-- A filter: extents and factors, DIMS (Cin, KW, KH, Cout). -/
structure Filter where
  ci : Nat
  kw : Nat
  kh : Nat
  co : Nat
  fs : List Factor
  deriving DecidableEq, Repr

/-- A tap. -/
def Filter.get (f : Filter) (co c ky kx : Nat) : Factor := (f.fs[c + f.ci * (kx + f.kw * (ky + f.kh * co))]?).getD Factor.zero

/-- Every (n, y, x, c) in the order that the model keeps accumulators: channel fastest. -/
def positions (n h w c : Nat) : List (Nat × Nat × Nat × Nat) :=
  (List.range n).flatMap (fun i => (List.range h).flatMap (fun y => (List.range w).flatMap (fun x => (List.range c).map (fun k => (i, y, x, k)))))

/-- The pairs that meet in PASS 0 at (n, co, oy, ox), c fastest, then kx, then ky (R197, R199). -/
def pairs0 (get : Nat → Nat → Int → Int → Factor) (f : Filter) (g : Geo) (n oy ox co : Nat) : List (Factor × Factor) :=
  (List.range f.kh).flatMap (fun ky => (List.range f.kw).flatMap (fun kx => (List.range f.ci).map (fun c =>
    (get n c (Int.ofNat (oy * g.sh + ky) - g.ph) (Int.ofNat (ox * g.sw + kx) - g.pw), f.get co c ky kx))))

/-- The pairs of PASS 1 at (n, c, iy, ix), co fastest, then kx, then ky; a tap that meets no output position contributes no product, but its
indices count (R67, R199). -/
def pairs1 (get : Nat → Nat → Int → Int → Factor) (f : Filter) (g : Geo) (oh ow n iy ix c : Nat) : List (Factor × Factor) :=
  (List.range f.kh).flatMap (fun ky => (List.range f.kw).flatMap (fun kx =>
    let ty := Int.ofNat (iy + g.ph) - Int.ofNat ky
    let tx := Int.ofNat (ix + g.pw) - Int.ofNat kx
    if ty % g.sh = 0 && tx % g.sw = 0 && decide (0 ≤ ty) && decide (0 ≤ tx) && decide (ty / g.sh < oh) && decide (tx / g.sw < ow) then
      (List.range f.co).map (fun co => (get n co (ty / g.sh) (tx / g.sw), f.get co c ky kx))
    else List.replicate f.co (Factor.hole, Factor.hole)))

/-- The pairs of PASS 2 at (co, c, ky, kx), ox fastest, then oy, then n. -/
def pairs2 (getX getD : Nat → Nat → Int → Int → Factor) (g : Geo) (ns oh ow co c ky kx : Nat) : List (Factor × Factor) :=
  (List.range ns).flatMap (fun n => (List.range oh).flatMap (fun oy => (List.range ow).map (fun ox =>
    (getX n c (Int.ofNat (oy * g.sh + ky) - g.ph) (Int.ofNat (ox * g.sw + kx) - g.pw), getD n co (Int.ofNat oy) (Int.ofNat ox)))))

/-- Whether a map's scales are constant along a contraction over its channels (R62, log entry 20): the channel axis is scaled, its
extent fits one group, and no other axis of the map takes part. -/
def mapConst (a : Arr) (layout c : Nat) (one : Bool) : Bool :=
  a.fmt != fSfp16 || (one && a.axis == (match layout with | 0 => 2 | _ => 0) && decide (c ≤ a.group) && decide (c ≤ lanes layout ∨ lanes layout = 1))

/-- An operand that addresses a map or filter: a filter is a TENSOR also in pinned form (R194, log entry 18). -/
def filterOpnd (h : Here) : Act Opnd := opnd { h with pin := none } 1 false

/-- One accumulator element of a CONV. -/
def convElem (st : Start) (window : Bool) (x : List (Factor × Factor) × Option (Exa × Nat)) : Exa × Int × Nat :=
  let ps := x.1.map (fun p => if p.1.gap || p.2.gap then (Factor.hole, Factor.hole) else p)
  prodElem st window x.2 (ps.map (·.1)) (ps.map (·.2))

/-- The identity filter of S2C over `c` channels (R202): each channel meets its own alone, so that its elements pass bit for bit. -/
def Filter.ident (c : Nat) : Filter :=
  { ci := c, kw := 1, kh := 1, co := c,
    fs := (List.range c).flatMap (fun o => (List.range c).map (fun i =>
      if i = o then { Factor.zero with v := .fin false 1 0 } else Factor.hole)) }

/-- A filter operand read (R194, R196). -/
def readFilter (h : Here) (fmt : Nat) : Act (Filter × Arr) := do
  let o ← filterOpnd h
  need (!o.isArea) cType 1
  need (o.fmt == fmt) cFormat 0
  let a ← fetch { h with pin := none } o
  need (a.dims.length == 4) cShape a.dims.length
  let d := fun (k : Nat) => (a.dims[k]?).getD 1
  need (decide (1 ≤ d 1) && decide (d 1 ≤ 255)) cShape 1
  need (decide (1 ≤ d 2) && decide (d 2 ≤ 255)) cShape 2
  pure ({ ci := d 0, kw := d 1, kh := d 2, co := d 3, fs := a.factors }, a)

/-- The halo rows of a pinned stripe (R217): the rows that exist for the first and the last participating core. -/
def haloRows (h : Here) (g : Geo) (rows : Nat) : Act (Nat × Nat) :=
  match h.pin with
  | none => do need (g.halo == 0) cLcores 0; pure (0, rows)
  | some (p, _, _) =>
    if g.halo = 0 then pure (0, rows) else do
      need (g.ph == 0) cDesc 3
      need (decide (3 * g.halo ≤ rows)) cShape 1
      let total := (pins h.cmd.ncl (hCores h.prog) h.w.lc).length
      pure (if p = 0 then g.halo else 0, if p + 1 = total then rows - g.halo else rows)

/-- A pinned CONV with halo rows waits until every core's rows have been copied in (R218). -/
def haloReady (h : Here) (g : Geo) : Act Unit := do
  if g.halo = 0 then pure () else
    let r ← getRun h
    match h.pin with
    | none => pure ()
    | some (p, _, _) => if r.halos.any (fun f => f.index == h.w.ix && f.core == p && f.full) then pure () else hold

/-- The modifier fields of CONV (R194). -/
def convPass (h : Here) : Nat := h.w.mod % 4
def inLayout (h : Here) : Nat := h.w.mod / 4 % 4
def outLayout (h : Here) : Nat := h.w.mod / 16 % 4

/-- The first map operand of a CONV or POOL with `c` true channels. -/
def readMap (h : Here) (slot layout : Nat) (fmt : Nat) (c : Option Nat) (pad : Factor) (halo : Option Geo) : Act (MapData × Arr) := do
  let o ← opnd h slot false
  need (o.fmt == fmt) cFormat 0
  let d ← dimsOf h o
  let v ← mapOf layout (o.isArea && h.pin.isSome) d c
  let (lo, hi) ← match halo with
    | some g => haloRows h g v.h
    | none => pure (0, v.h)
  match halo with
  | some g => haloReady h g
  | none => pure ()
  let a ← fetch h o
  pure ({ view := v, fs := a.factors, pad := pad, lo := lo, hi := hi }, a)

/-- The value of padding elements of a map (R195, R198). -/
def padOf (g : Geo) : Factor := { Factor.zero with v := if g.flags.testBit 0 then fpOf false g.pad else .fin false 0 0 }

/-- How a CONV's accumulators start (R65, R66, R199): an FP16 contraction has A = 0 whatever the geometry record gives. -/
def convStart (g : Geo) (form : Nat) (window : Bool) : Start :=
  if form = 1 || window then (if g.flags.testBit 1 then .given g.anchor else .auto) else .fp16

/-! ## True channel counts (R193) -/

/-- The DRAIN that drains a product: the next word of its core and stage that fills or drains accumulators, if it is one (R145). -/
def drainAfter (h : Here) : Option Word128 :=
  let mine := fun (w : Word128) => match h.pin with
    | none => w.lc == 0
    | some (_, _, l) => w.lc.testBit l
  let later := (range' (h.w.ix + 1) (h.cmd.first + h.cmd.count - (h.w.ix + 1))).map (wordAt h.prog)
  match later.find? (fun w => (w.accumulates && mine w) || w.op == 0x301 || w.op == 0x302) with
  | some w => if w.op = 0x1C0 then some w else none
  | none => none

/-- The extents of the tensor that the product's DRAIN writes. -/
def drainDims (h : Here) : Option (List Nat) :=
  match drainAfter h with
  | some w =>
    if w.a < hDescCount h.prog ∧ num (descAt h.prog w.a) 0 1 = dtTensor then (parseTen (descAt h.prog w.a) h.args).map (·.dims) else none
  | none => none

/-- The true channel count of a map where no filter is an operand (R193): `want`, taken from the extents of the filter gradient or map that
is drained, where the operand's layout leaves the count open and admits it. -/
def mapChannels (h : Here) (slot layout : Nat) (want : Option Nat) : Act (Option Nat) := do
  let o ← opnd h slot false
  if o.isArea && h.pin.isSome then pure want
  else if lanes layout = 1 then pure none
  else
    let d ← dimsOf h o
    pure (want.filter (fun c => ceilDiv c (lanes layout) == (d[3]?).getD 1))

/-- The channels of the map that the identity of S2C regroups or gives back (R193, R202). -/
def identChannels (h : Here) (pass f : Nat) : Option Nat :=
  (drainDims h).bind (fun d =>
    match (outLayout h, d) with
    | (0, [_, _, c, _]) | (1, [c, _, _, _]) => if pass = 0 then (if c % (f * f) = 0 then some (c / (f * f)) else none) else some (c * (f * f))
    | _ => none)

/-- A product whose output is empty: the DRAIN after it writes nothing (R200). -/
def emptyProduct (h : Here) : Act Unit := putProduct h { Product.blank with shape := [0, 0, 0, 0], layout := some 0 }

/-- The bound of R199 on the length of a contraction. -/
def needContraction (n : Nat) : Act Unit := need (decide (n ≤ 2 ^ 31)) cShape 0

/-- The common product of CONV.DIRECT, S2C and C2S (R197, R202, R203): `s2c` regroups the input, `c2s` the output. -/
def doConv (s2c c2s : Bool) (h : Here) : Act Unit := do
  match prodFmts h.w.form with
  | none => skip cForm 0
  | some (fa, fb) => do
    needFields h 0x3F 0xFFFFFFFF
    need (convPass h != 3) cForm 0
    let pass := convPass h
    let g ← geometry h 64 (pass == 2) 255 (s2c || c2s) (fa == fSfp16 || (pass == 2 && fb == fSfp16)) false
    let f := if s2c then g.factor else 1
    let k2 := if c2s then g.factor * g.factor else 1
    if pass = 2 then
      let grad := match drainDims h with
        | some [ci, _, _, co] => some (ci, co)
        | _ => none
      let cx ← mapChannels h 0 (inLayout h) (grad.bind (fun x => if x.1 % (f * f) = 0 then some (x.1 / (f * f)) else none))
      let cd ← mapChannels h 1 (outLayout h) (grad.map (·.2))
      let (x, xa) ← readMap h 0 (inLayout h) fa cx (padOf g) (some g)
      let (d, da) ← readMap h 1 (outLayout h) fb cd Factor.zero none
      let ci := x.view.c * f * f
      let oh := outN (ceilDiv x.view.h f) g.ph g.kh g.sh
      let ow := outN (ceilDiv x.view.w f) g.pw g.kw g.sw
      if x.view.void || d.view.void then emptyProduct h else do
      need (x.view.n == d.view.n && oh == d.view.h && ow == d.view.w) cShape 1
      need (d.view.c % k2 == 0) cShape 1
      needContraction (ow * oh * x.view.n)
      let getX := if s2c then x.s2c f else x.get
      let one := oh == 1 && x.view.n == 1
      let wAxis := fun (l : Nat) => match l with | 0 => 0 | _ => 1
      let cst := fun (a : Arr) (l w : Nat) => a.fmt != fSfp16 || (one && a.axis == wAxis l && decide (w ≤ a.group))
      let window := !(cst xa (inLayout h) x.view.w && cst da (outLayout h) d.view.w)
      let sp ← spillWords h (ci * g.kw * g.kh * d.view.c)
      let es := (List.range d.view.c).flatMap (fun co => (List.range g.kh).flatMap (fun ky => (List.range g.kw).flatMap (fun kx =>
        (List.range ci).map (fun c => pairs2 getX d.get g x.view.n oh ow co c ky kx))))
      putProduct h (accOf [ci, g.kw, g.kh, d.view.c] ((es.zip sp).map (convElem (convStart g h.w.form window) window)))
    else
      let (w, wa) ← if s2c && h.w.b = noDesc then do
          let o ← opnd h 0 false
          let dm ← dimsOf h o
          let c ← mapChannels h 0 (inLayout h) (identChannels h pass f)
          let v ← mapOf (inLayout h) (o.isArea && h.pin.isSome) dm c
          pure (Filter.ident (if pass = 0 then v.c * f * f else v.c), Arr.of fFp16 [] [] [])
        else readFilter h fb
      need (w.co % k2 == 0) cShape 1
      needContraction ((if pass = 0 then w.ci else w.co) * w.kw * w.kh)
      if pass = 0 then
        need (w.ci % (f * f) == 0) cShape 2
        let (x, xa) ← readMap h 0 (inLayout h) fa (some (w.ci / (f * f))) (padOf g) (some g)
        let oh := outN (ceilDiv x.view.h f) g.ph w.kh g.sh
        let ow := outN (ceilDiv x.view.w f) g.pw w.kw g.sw
        if x.view.void || oh == 0 || ow == 0 || w.co == 0 then emptyProduct h else do
        let one := w.kh == 1 && w.kw == 1
        let window := !(mapConst xa (inLayout h) x.view.c (one && !s2c)
          && (wa.fmt != fSfp16 || (one && wa.axis == 0 && decide (w.ci ≤ wa.group))))
        let sp ← spillWords h (x.view.n * oh * ow * w.co)
        let getX := if s2c then x.s2c f else x.get
        let es := (positions x.view.n oh ow w.co).map (fun (n, y, xx, co) => pairs0 getX w g n y xx co)
        putProduct h { accOf [w.co, ow, oh, x.view.n] ((es.zip sp).map (convElem (convStart g h.w.form window) window)) with
                       layout := some (outLayout h), chans := w.co, c2s := if c2s then g.factor else 1 }
      else
        let (d, da) ← readMap h 0 (inLayout h) fa (some w.co) Factor.zero (some g)
        let ih := ceilDiv g.ih f
        let iw := ceilDiv g.iw f
        let oh := if ih = 0 then 0 else outN ih g.ph w.kh g.sh
        let ow := if iw = 0 then 0 else outN iw g.pw w.kw g.sw
        need (oh == d.view.h && ow == d.view.w) cShape 1
        if d.view.void || ih == 0 || iw == 0 || w.ci == 0 then emptyProduct h else do
        let one := w.kh == 1 && w.kw == 1
        let window := !(mapConst da (inLayout h) w.co one && (wa.fmt != fSfp16 || (one && wa.axis == 3 && decide (w.co ≤ wa.group))))
        need (w.ci % (f * f) == 0) cShape 2
        let ci := w.ci / (f * f)
        let sp ← spillWords h (d.view.n * g.ih * g.iw * ci)
        -- with S2C, element (c, iy, ix) of the input is channel (fy·F + fx)·C + c of the regrouped map (R202)
        let es := (positions d.view.n g.ih g.iw ci).map (fun (n, y, xx, c) =>
          pairs1 d.get w g oh ow n (y / f) (xx / f) ((y % f * f + xx % f) * ci + c))
        putProduct h { accOf [ci, g.iw, g.ih, d.view.n] ((es.zip sp).map (convElem (convStart g h.w.form window) window)) with
                       layout := some (outLayout h), chans := ci, c2s := if c2s then g.factor else 1 }

/-! ## Minimal filtering (R204 to R206) -/

/-- A fraction rounded to FP32 (R204). -/
def frac (p q : Int) : Fp := fpOf true (encFp true (fpDiv (fpOfInt p) (fpOfInt q))).bits

/-- The matrices of R204: Bᵀ, G, Aᵀ. -/
def minB (m4 : Bool) : List (List Fp) :=
  ((if m4 then [[4, 0, -5, 0, 1, 0], [0, -4, -4, 1, 1, 0], [0, 4, -4, -1, 1, 0], [0, -2, -1, 2, 1, 0], [0, 2, -1, -2, 1, 0], [0, 4, 0, -5, 0, 1]]
    else [[1, 0, -1, 0], [0, 1, 1, 0], [0, -1, 1, 0], [0, 1, 0, -1]]) : List (List Int)).map (fun l => l.map fpOfInt)

def minG (m4 : Bool) : List (List Fp) :=
  if m4 then [[frac 1 4, frac 0 1, frac 0 1], [frac (-1) 6, frac (-1) 6, frac (-1) 6], [frac (-1) 6, frac 1 6, frac (-1) 6],
              [frac 1 24, frac 1 12, frac 1 6], [frac 1 24, frac (-1) 12, frac 1 6], [frac 0 1, frac 0 1, frac 1 1]]
  else [[frac 1 1, frac 0 1, frac 0 1], [frac 1 2, frac 1 2, frac 1 2], [frac 1 2, frac (-1) 2, frac 1 2], [frac 0 1, frac 0 1, frac 1 1]]

def minA (m4 : Bool) : List (List Fp) :=
  ((if m4 then [[1, 1, 1, 1, 1, 0], [0, 1, -1, 2, -2, 0], [0, 1, 1, 4, 4, 0], [0, 1, -1, 8, -8, 1]]
    else [[1, 1, 1, 0], [0, 1, -1, -1]]) : List (List Int)).map (fun l => l.map fpOfInt)

/-- An FP32 operation on values (R85). -/
def fp32Op (v : Fp) : Fp := fpOf true (encFp true v).bits

/-- One element of a transform: ascending j, zero coefficients left out (R205). -/
def lin (m z : List Fp) : Fp :=
  ((m.zip z).foldl (fun (a : Option Fp) x =>
    match x.1 with
    | .fin _ 0 _ => a
    | c =>
      let t := fp32Op (fpMul c x.2)
      some (match a with | none => t | some s => fp32Op (fpAdd s t))) none).getD (.fin false 0 0)

/-- The two-sided transform, along H and then along W (R205). -/
def apply2 (mt : List (List Fp)) (z : List (List Fp)) : List (List Fp) :=
  let q := (z.head?.map List.length).getD 0
  let col := fun (b : Nat) => z.map (fun r => (r[b]?).getD (.fin false 0 0))
  let p := mt.map (fun m => (List.range q).map (fun b => lin m (col b)))
  p.map (fun pr => mt.map (fun m => lin m pr))

/-- rne16 of R205. -/
def rne16 (v : Fp) : Fp := fpOf false (cvtFloat false v none).bits

/-- One output tile: the values and the OR of the tags. -/
def minTile (m4 : Bool) (ds : List (List (List Fp))) (gs : List (List (List Fp))) : List (List Fp) :=
  let us := ds.map (fun d => (apply2 (minB m4) d).map (fun r => r.map rne16))
  let q := if m4 then 6 else 4
  let m := (List.range q).map (fun a => (List.range q).map (fun b =>
    let pick := fun (x : List (List Fp)) => (((x[a]?).getD [])[b]?).getD (.fin false 0 0)
    let w := (accumulate (Acc.start 0) (us.zipWith (fun u v => fpMul (pick u) (pick v)) gs)).finish
    fpOf true (drainElem true w 0 none).bits))
  apply2 (minA m4) m

/-- A minimal-filtering convolution of a map with a 3 × 3 filter: every output in the model's order, with tags (R205, R206). -/
def minConv (m4 : Bool) (get : Nat → Nat → Int → Int → Factor) (f : Filter) (ph pw : Int) (n oh ow : Nat) : List (Nat × Nat) :=
  let st := if m4 then 4 else 2
  let q := st + 2
  let gs := fun (co : Nat) => (List.range f.ci).map (fun c =>
    (apply2 (minG m4) ((List.range 3).map (fun ky => (List.range 3).map (fun kx => (f.get co c ky kx).v)))).map (fun r => r.map rne16))
  let gt := fun (co : Nat) => tagAll ((List.range (f.ci * 9)).map (fun i => (f.get co (i / 9) (i / 3 % 3) (i % 3)).t))
  let tile := fun (i ty tx co : Nat) =>
    let cell := fun (c a b : Nat) => get i c (Int.ofNat (ty * st + a) - ph) (Int.ofNat (tx * st + b) - pw)
    let ds := (List.range f.ci).map (fun c => (List.range q).map (fun a => (List.range q).map (fun b => (cell c a b).v)))
    let t := tagAll ((List.range f.ci).flatMap (fun c => (List.range q).flatMap (fun a => (List.range q).map (fun b => (cell c a b).t))))
    (minTile m4 ds (gs co), tagOr t (gt co))
  (positions n oh ow f.co).map (fun (i, y, x, co) =>
    let r := tile i (y / st) (x / st) co
    ((encFp true ((((r.1[y % st]?).getD [])[x % st]?).getD .nan)).bits, r.2))

/-- The accumulators of a minimal-filtering convolution: its FP32 results. R194 lets it reload a spill, and no rule says how the spilled words
enter results that are FP32: the value is open there (log entry 100). -/
def minProduct (h : Here) (shape : List Nat) (sp : List (Option (Exa × Nat))) (rs : List (Nat × Nat)) : Product :=
  let ws := (rs.zip sp).map (fun x => match x.2 with
    | none => (BitVec.ofNat 32 x.1.1, x.1.2)
    | some w => (Config.minReload (BitVec.ofNat 128 (exaNat w.1)) (BitVec.ofNat 32 x.1.1), tagOr x.1.2 w.2))
  { Product.blank with shape := shape, fp32 := some (ws.map (·.1)), tags := ws.map (·.2), layout := some (outLayout h),
                       chans := (shape.head?).getD 0 }

/-- CONV.MIN2 and CONV.MIN4 (R205, R206). PASS 2 of CONV.MIN2 is CONV.DIRECT's. -/
def doMin (m4 : Bool) (h : Here) : Act Unit := do
  need (h.w.form == 0) cFormat 0
  needFields h 0x3F 0xFFFFFFFF
  let pass := convPass h
  need (pass != 3 && !(m4 && pass != 0)) cForm 0
  let g ← geometry h 64 (pass == 2) 255 false false false
  if pass = 2 then
    need (g.kh == 3 && g.kw == 3 && g.sh == 1 && g.sw == 1) cShape 0
    doConv false false h
  else
    let (w, _) ← readFilter h fFp16
    need (w.kw == 3 && w.kh == 3 && g.sh == 1 && g.sw == 1) cShape 1
    if pass = 0 then
      let (x, _) ← readMap h 0 (inLayout h) fFp16 (some w.ci) (padOf g) (some g)
      need (g.halo == 0 || (x.view.h - 2 * g.halo) % (if m4 then 4 else 2) == 0) cShape 1
      needContraction (w.ci * 9)
      let oh := outN x.view.h g.ph 3 1
      let ow := outN x.view.w g.pw 3 1
      if x.view.void || oh == 0 || ow == 0 || w.co == 0 then emptyProduct h else do
      let sp ← spillWords h (x.view.n * oh * ow * w.co)
      putProduct h (minProduct h [w.co, ow, oh, x.view.n] sp (minConv m4 x.get w g.ph g.pw x.view.n oh ow))
    else
      let (d, _) ← readMap h 0 (inLayout h) fFp16 (some w.co) Factor.zero (some g)
      need (g.halo == 0 || (d.view.h - 2 * g.halo) % 2 == 0) cShape 1
      needContraction (w.co * 9)
      need ((if g.ih = 0 then 0 else outN g.ih g.ph 3 1) == d.view.h && (if g.iw = 0 then 0 else outN g.iw g.pw 3 1) == d.view.w) cShape 1
      if d.view.void || g.ih == 0 || g.iw == 0 || w.ci == 0 then emptyProduct h else do
      let rot : Filter := {
        ci := w.co, kw := 3, kh := 3, co := w.ci,
        fs := (List.range w.ci).flatMap (fun c => (List.range 3).flatMap (fun ky => (List.range 3).flatMap (fun kx =>
          (List.range w.co).map (fun co => w.get co c (2 - ky) (2 - kx))))) }
      let pads := ((2 : Int) - Int.ofNat g.ph, (2 : Int) - Int.ofNat g.pw)
      let sp ← spillWords h (d.view.n * g.ih * g.iw * w.ci)
      putProduct h (minProduct h [w.ci, g.iw, g.ih, d.view.n] sp (minConv m4 d.get rot pads.1 pads.2 d.view.n g.ih g.iw))

/-- A CONV of every core completes: its halo rows are empty again (R218). -/
def convDone (f : Here → Act Unit) (h : Here) : Act Unit := do
  f h
  haloDone h

/-- CONV.DIRECT (R197 to R201). -/
def execConvDirect (c i : Nat) (s : State) : Host.Outcome State Fault Refusal :=
  onUnit (clusterOk c) "cluster" s (runWord (fun w => w.op == 0x080) .either (convDone (doConv false false)) productFill c i s)

/-- CONV.MIN2 (R205, R206). -/
def execConvMin2 (c i : Nat) (s : State) : Host.Outcome State Fault Refusal :=
  onUnit (clusterOk c) "cluster" s (runWord (fun w => w.op == 0x081) .either (convDone (doMin false)) productFill c i s)

/-- CONV.MIN4 (R205, R206). -/
def execConvMin4 (c i : Nat) (s : State) : Host.Outcome State Fault Refusal :=
  onUnit (clusterOk c) "cluster" s (runWord (fun w => w.op == 0x082) .either (convDone (doMin true)) productFill c i s)

/-- CONV.S2C (R202). -/
def execConvS2c (c i : Nat) (s : State) : Host.Outcome State Fault Refusal :=
  onUnit (clusterOk c) "cluster" s (runWord (fun w => w.op == 0x083) .either (convDone (doConv true false)) productFill c i s)

/-- CONV.C2S (R203). -/
def execConvC2s (c i : Nat) (s : State) : Host.Outcome State Fault Refusal :=
  onUnit (clusterOk c) "cluster" s (runWord (fun w => w.op == 0x084) .either (convDone (doConv false true)) productFill c i s)

end Sys2Proof.Machine
end

