-- ==== Sys2Proof/Machine/Drains.lean ====
section
/-! DEFINITION. The DRAIN (R71 to R78, R105, R145, R203) with its post-operations: scale, bias, derivative and activation (R224 to
R228). -/

namespace Sys2Proof.Machine

/-! ## Activations (R225, R226) -/

/-- The constants of R225. -/
def kC0 : Fp := fpOf true 0x3F4C422A
def kC1 : Fp := fpOf true 0x3D372713
def kC3 : Fp := fpOf true 0x3E095D4F
def kCR : Fp := fpOf true 0x3F3504F3
def kCP : Fp := fpOf true 0x3ECC422A
def kHalf : Fp := fpOf true 0x3F000000
def kOne : Fp := fpOf true 0x3F800000

/-- mul, sub and fma of R226: FP32 operations of R85. -/
def mul32 (a b : Fp) : Fp := fp32Op (fpMul a b)
def sub32 (a b : Fp) : Fp := fp32Op (fpAdd a (fpNeg b))
def fma32 (a b c : Fp) : Fp := fp32Op (fpAdd (fpMul a b) c)

/-- A function of R87 on FP32 values. -/
def fn32 (f : Nat) (v : Fp) : Fp := fpOf true (vecFn f v).bits

/-- +0. -/
def fpZero : Fp := .fin false 0 0

/-- The inner values of both GELU forms: t, h and the square of the input (R226). -/
def geluTanhT (x : Fp) : Fp := fn32 fnTanh (mul32 kC0 (fma32 kC1 (mul32 (mul32 x x) x) x))
def geluErfT (x : Fp) : Fp := fn32 fnErf (mul32 x kCR)
def geluH (t : Fp) : Fp := fma32 kHalf t kHalf

/-- Whether an input lies at or beyond ±2^15, where GELU and SiLU take their fixed values (R226): none, or its sign. -/
def farOut (x : Fp) : Option Bool :=
  match x with
  | .nan => none
  | .inf s => some s
  | .fin s m e => if fpLt (.fin false m e) (.fin false 1 15) then none else some s

/-- The activation f(x) of ACT 2 to 7 (R226). -/
def actFwd (act : Nat) (x : Fp) : Fp :=
  match x with
  | .nan => .nan
  | _ =>
    if act = 5 then fn32 fnSigmoid x
    else if act = 6 then fn32 fnTanh x
    else if act = 7 then fn32 fnSoftplus x
    else match farOut x with
      | some true => fpZero
      | some false => x
      | none =>
        if act = 2 then mul32 x (geluH (geluTanhT x))
        else if act = 3 then mul32 x (geluH (geluErfT x))
        else mul32 x (fn32 fnSigmoid x)

/-- The derivative d = f′(z) of ACT 1 to 7 (R226). -/
def actDeriv (act : Nat) (z : Fp) : Fp :=
  match z with
  | .nan => .nan
  | _ =>
    if act = 1 then (if fpLt fpZero z then kOne else fpZero)
    else if act = 5 then (let s := fn32 fnSigmoid z; mul32 s (sub32 kOne s))
    else if act = 6 then (let t := fn32 fnTanh z; fma32 (fpNeg t) t kOne)
    else if act = 7 then fn32 fnSigmoid z
    else match farOut z with
      | some true => fpZero
      | some false => kOne
      | none =>
        if act = 2 then
          let x2 := mul32 z z
          let t := geluTanhT z
          let h := geluH t
          let w := fma32 kC3 x2 kOne
          let s2 := fma32 (fpNeg t) t kOne
          fma32 kHalf (mul32 z (mul32 (mul32 kC0 w) s2)) h
        else if act = 3 then
          let h := geluH (geluErfT z)
          fma32 (mul32 z kCP) (fn32 fnExp (mul32 (fpNeg kHalf) (mul32 z z))) h
        else
          let s := fn32 fnSigmoid z
          mul32 s (fma32 z (sub32 kOne s) kOne)

/-! ## One element -/

/-- An element on its way through the drain: its exact value, whether an infinity written for it counts as an overflow (R94), its
INEXACT_LOW mark and its tag. -/
structure DrainVal where
  v    : Fp
  live : Bool
  inex : Bool
  tag  : Nat
  deriving DecidableEq, Repr

/-- A word as it enters the post-operations (R72, R224). -/
def wordVal (x : Exa) (sc : Int) (tag : Nat) : DrainVal :=
  let t := if x.blot then tagOr tag tagParity else tag
  if x.nan || (x.posInf && x.negInf) then { v := .nan, live := false, inex := x.inexactLow, tag := t }
  else if x.posInf || x.negInf then { v := .inf x.negInf, live := false, inex := x.inexactLow, tag := t }
  else if x.overflow then { v := .inf (decide (x.value < 0)), live := true, inex := x.inexactLow, tag := t }
  else if x.empty then { v := fpZero, live := true, inex := x.inexactLow, tag := t }
  else { v := exaFp x sc, live := true, inex := x.inexactLow, tag := t }

/-- An FP32 result of minimal filtering as it enters the post-operations (R205). -/
def minVal (n tag : Nat) : DrainVal :=
  { v := fpOf true n, live := !isInf true n, inex := false, tag := tag }

/-- Whether a value is an infinity. -/
def isInfFp : Fp → Bool
  | .inf _ => true
  | _ => false

/-- Multiplication by an exact FP32 factor (R224). -/
def DrainVal.mul (x : DrainVal) (d : Fp) : DrainVal := { x with v := fpMul x.v d, live := x.live && !isInfFp d }

/-- The exact addition of a bias (R224). -/
def DrainVal.add (x : DrainVal) (b : Fp) (t : Nat) : DrainVal :=
  { x with v := fpAdd x.v b, live := x.live && !isInfFp b, tag := tagOr x.tag t }

/-- ReLU (R224). -/
def DrainVal.relu (x : DrainVal) : DrainVal :=
  { x with v := match x.v with
    | .nan => .nan
    | .inf s => if s then fpZero else .inf false
    | .fin s m e => if s then fpZero else .fin false m e }

/-- A value converted by R73 with zero written as +0 (R224). -/
def dropTo (w : Bool) (x : DrainVal) (sc : Int) (u : Option Nat) : Res :=
  match x.v with
  | .nan => { Res.of (nanBits w) with inex := x.inex }
  | .inf s => { Res.of (infBits w s) with ovf := x.live, inex := x.inex }
  | .fin s m e => if m = 0 then { Res.of 0 with inex := x.inex } else { encode' w false s m (e + sc) u with inex := x.inex }

/-- Every activation but ReLU: the input rounded once to FP32, the result by R226 (R105, R224). -/
def DrainVal.act (x : DrainVal) (a : Nat) : DrainVal :=
  if a = 0 then x else if a = 1 then x.relu
  else
    let i := dropTo true x 0 none
    { x with v := actFwd a (fpOf true i.bits) }

/-- A PAIR: hi, and lo of the exact remainder, whose own rounding counts nothing (R76). -/
def dropPair (x : DrainVal) : Res × Res :=
  let hi := dropTo true x 0 none
  if isInf true hi.bits || isNan true hi.bits then (hi, Res.of 0)
  else
    match fpAdd x.v (fpNeg (fpOf true hi.bits)) with
    | .fin s m e => (hi, if m = 0 then Res.of 0 else Res.of (encode' true false s m e none).bits)
    | _ => (hi, Res.of 0)

/-- A group of an SFP16 drain: NaN, infinities and zeros are left out of its maximum (R75, R228). -/
def dropExp (xs : List DrainVal) : Int :=
  groupExp (xs.filterMap (fun x => match x.v with | .fin _ m e => if m = 0 then none else some (m, e) | _ => none))

/-! ## Where the words go -/

/-- For every element of a destination of the drained output, the place of its word; none for a padded lane (R193, R203). -/
def drainMap (p : Product) : List Nat × List (Option Nat) :=
  match p.layout with
  | none => (p.shape, (List.range (volume p.shape)).map some)
  | some l =>
    let c := (p.shape[0]?).getD 1
    let w := (p.shape[1]?).getD 1
    let h := (p.shape[2]?).getD 1
    let n := (p.shape[3]?).getD 1
    let f := max 1 p.c2s
    let c' := c / (f * f)
    let dims := mapDims l c' (f * w) (f * h) n
    let src := fun (b k y x : Nat) =>
      let ch := (y % f * f + x % f) * c' + k
      ch + c * (x / f + w * (y / f + h * b))
    let ln := lanes l
    let cells :=
      match l with
      | 0 => (List.range n).flatMap (fun b => (List.range c').flatMap (fun k => (List.range (f * h)).flatMap (fun y =>
          (List.range (f * w)).map (fun x => some (src b k y x)))))
      | 1 => (List.range n).flatMap (fun b => (List.range (f * h)).flatMap (fun y => (List.range (f * w)).flatMap (fun x =>
          (List.range c').map (fun k => some (src b k y x)))))
      | _ => (List.range n).flatMap (fun b => (List.range (ceilDiv c' ln)).flatMap (fun o => (List.range (f * h)).flatMap (fun y =>
          (List.range (f * w)).flatMap (fun x => (List.range ln).map (fun k =>
            if o * ln + k < c' then some (src b (o * ln + k) y x) else none)))))
    (dims, cells)

/-- The same for a pinned region whose rows are map rows (log entry 18). -/
def drainRows (p : Product) (l : Nat) : List Nat × List (Option Nat) :=
  let c := (p.shape[0]?).getD 1
  let w := (p.shape[1]?).getD 1
  let h := (p.shape[2]?).getD 1
  let f := max 1 p.c2s
  let c' := c / (f * f)
  let ln := lanes l
  let src := fun (k y x : Nat) => ((y % f * f + x % f) * c' + k) + c * (x / f + w * (y / f))
  let row := fun (y : Nat) =>
    match l with
    | 0 => (List.range c').flatMap (fun k => (List.range (f * w)).map (fun x => some (src k y x)))
    | 1 => (List.range (f * w)).flatMap (fun x => (List.range c').map (fun k => some (src k y x)))
    | _ => (List.range (ceilDiv c' ln)).flatMap (fun o => (List.range (f * w)).flatMap (fun x => (List.range ln).map (fun k =>
        if o * ln + k < c' then some (src (o * ln + k) y x) else none)))
  let cols := f * w * (if ln = 1 then c' else ln * ceilDiv c' ln)
  ([cols, f * h], (List.range (f * h)).flatMap row)

/-- The channel that a bias element is taken for, of a word at `k`: the innermost index of the output (R145), after the regrouping of
C2S. -/
def biasAt (p : Product) (k : Nat) : Nat :=
  let c := (p.shape[0]?).getD 1
  let f := max 1 p.c2s
  k % max 1 c % max 1 (c / (f * f))

/-! ## The instruction -/

/-- The nearest earlier product of the same core and stage (R145). -/
def productOf (h : Here) : Act Product := do
  let r ← getRun h
  match r.products.find? (fun p => p.core == h.core && p.stage == stageOf r) with
  | some p => pure p
  | none => skip cNoProduct 0

/-- The destination format of each form (R71). -/
def drainFmt (form : Nat) : Nat := match form with
  | 0 => fFp16 | 1 => fFp32 | 2 => fSfp16 | 3 => fFp32 | _ => fExa

/-- The shape that a drain's destination takes, where its product is known. -/
def drainComing (h : Here) (s : State) : List Nat :=
  match productOf h s with
  | .ok (p, _) =>
    let d := (drainMap p).1
    if h.w.form = 3 then (match d with | x :: t => 2 * x :: t | [] => []) else d
  | .error _ => []

/-- The skipped drain's destination filled, and its scales' tensor with it (R125, R145, R159). -/
def drainFill (h : Here) : Act Unit := do
  let s ← get
  fillAt h h.w.a 0 (drainComing h s)
  if h.w.form = 2 && h.w.c != noDesc then fillAt h h.w.c 2 [] else pure ()

/-- The bias or pre-activation operand that a drain names (R145, R227). -/
def drainAuxOpnd (h : Here) (bias deriv : Bool) : Act (Option Opnd) := do
  if !bias && !deriv then (do needNone h 1; pure none) else
    let o ← opnd h 1 false
    need (isFloat o.fmt || (deriv && o.fmt == fSfp16)) cFormat 1
    pure (some o)

/-- The bias or pre-activation operand of a drain as FP32 values with tags (R145, R227): element by element. -/
def drainAux (h : Here) (o : Option Opnd) (deriv : Bool) (dims : List Nat) (chans : Nat) : Act (List (Fp × Nat)) := do
  match o with
  | none => pure []
  | some o => do
    let a ← fetch h o
    if deriv then needShape a.dims dims else need (a.elems.length == chans) cShape 0
    let vs := if a.fmt = fSfp16
      then (a.elems.zip a.scaleList).map (fun x => if scaleOk x.2 then mul32 (fpOf false x.1) (fpOf true x.2) else .nan)
      else a.vals
    pure (vs.zip a.tags)

/-- The accumulators that a drain to `o` finds. R145 names ATTEND among the products and no rule says what its accumulators hold: after
one, as many words as the destination takes, each a free value (log entry 21). -/
def drained (h : Here) (o : Opnd) (p : Product) : Act Product := do
  match p.attend with
  | none => pure p
  | some (ix, src) => do
    let d ← dimsOf h o
    let r ← getRun h
    need (h.w.form != 3 || (if o.isArea then (d[0]?).getD 1 % 2 == 0 else d[0]? == some 2)) cShape 0
    let shape := if h.w.form ≠ 3 then d else if o.isArea then ((d[0]?).getD 1 / 2) :: d.drop 1 else d.drop 1
    let n := volume shape
    pure { p with shape := shape, sc := List.replicate n 0, tags := List.replicate n (tagAll p.tags),
                  words := (List.range n).map (fun k => exaOf (Config.attendWord h.prog ix h.args r.step src k).toNat) }

/-- The tensor of scales that OP_C names (R145). -/
def drainScales (h : Here) : Act (Option Opnd) := do
  if h.w.c = noDesc then pure none else
    need (h.w.form == 2) cType 2
    let so ← opndAt h h.w.c 2 true
    need (!so.isArea) cType 2
    need (so.fmt == fFp32) cFormat 2
    pure (some so)

/-- The accumulator words of a drain read out: one that fails its parity takes the BLOT flag, and BLOT_RAISED names its core; where the granule
would stand in the event is free (R45, R398, log entry 105). -/
def accParity (h : Here) (p : Product) : Act Product := do
  let r ← getRun h
  (r.struck.acc.filter (fun x => x.1 == h.w.ix && decide (x.2.1 < p.tags.length))).foldlM (fun p x => do
    let s ← get
    let (n, s) := s.draw
    let s := s.setRun h.lead (fun r => { r with blotCores := if r.blotCores.contains x.2.2 then r.blotCores else x.2.2 :: r.blotCores })
    let s := s.count 1 (x.2.2 / 128) x.2.2 15 1
    set (s.event (x.2.2 / 128) kBlot r.ctx x.2.2 0#8 (leBytes 4 n))
    pure { p with words := modNth p.words x.2.1 (fun w => { w with blot := true }), tags := modNth p.tags x.2.1 (tagOr tagParity) }) p

/-- DRAIN (R71 to R78, R105, R145, R224 to R228). -/
def doDrain (h : Here) : Act Unit := do
  need (decide (h.w.form < 5)) cForm 0
  let stoch := h.w.mod.testBit 0
  let bias := h.w.mod.testBit 1
  let deriv := h.w.mod.testBit 2
  let scale := h.w.mod.testBit 3
  let act := h.w.mod / 16 % 16
  needFields h 0xFF (if scale then 0xFFFFFFFF else 0)
  need (decide (act < 8) && !(deriv && (bias || act == 0)) && !(h.w.form == 4 && h.w.mod / 2 != 0)) cReserved 0
  need (!stoch || h.w.form == 0 || h.w.form == 2) cFormat 0
  let p ← productOf h
  let o ← opnd h 0 true
  need (o.fmt == drainFmt h.w.form) cFormat 0
  need (!(h.w.form == 4 && p.fp32.isSome)) cFormat 0
  let so ← drainScales h
  let ao ← drainAuxOpnd h bias deriv
  let key ← if stoch then (do let k ← keyAt h h.cmd.rkey 0; pure (some k)) else pure none
  need (!(stoch && o.isArea && h.pin.isNone)) cLcores 0
  if p.skipped then drainFill h
  else if p.layout.isSome && volume p.shape = 0 then pure ()
  else
    let p ← accParity h (← drained h o p)
    let rows := o.isArea && h.pin.isSome
    let dm := match p.layout, rows with
      | some l, true => drainRows p l
      | _, _ => drainMap p
    let dims := dm.1
    let want := if h.w.form = 3 then (if o.isArea then (2 * (dims[0]?).getD 1) :: dims.drop 1 else 2 :: dims) else dims
    let d := outDims h o want
    needShape d want
    let f2 := max 1 p.c2s * max 1 p.c2s
    let aux ← drainAux h ao deriv dims ((p.shape[0]?).getD 1 / f2)
    let us ← match key with
      | some key => (do let l ← draws h key 0 o dm.2.length; pure (l.map some))
      | none => pure (dm.2.map (fun _ => none))
    let k := fpOf true (h.w.imm % 2 ^ 32)
    let val := fun (e : Nat) (q : Option Nat) =>
      q.map (fun q =>
        let t := (p.tags[q]?).getD 0
        let x := match p.fp32 with
          | some l => minVal ((l[q]?).getD 0#32).toNat t
          | none => wordVal ((p.words[q]?).getD (Exa.cleared 0)) ((p.sc[q]?).getD 0) t
        let x := if scale then x.mul k else x
        let x := if bias then (let b := (aux[biasAt p q]?).getD (fpZero, 0); x.add b.1 b.2) else x
        if deriv then
          let z := (aux[e]?).getD (fpZero, 0)
          let y := x.mul (actDeriv act z.1)
          { y with tag := tagOr y.tag z.2 }
        else x.act act)
    let es := dm.2.mapIdx val
    let tags := es.map (fun x => (x.map (fun x => x.tag)).getD 0)
    let pad := Res.of 0
    if h.w.form = 4 then
      let raw := dm.2.map (fun q => match q with
        | some q => exaNat ((p.words[q]?).getD (Exa.cleared 0))
        | none => exaNat (Exa.cleared 0))
      store h o (Arr.of fExa d raw tags)
      bump h o (fun c => { c with elements := sat32 c.elements raw.length })
    else if h.w.form = 3 then
      let ps := es.map (fun x => match x with | some x => dropPair x | none => (pad, pad))
      store h o (Arr.of fFp32 d (ps.flatMap (fun q => [q.1.bits, q.2.bits])) (tags.flatMap (fun t => [t, t])))
      bumpRes h o (ps.map (·.1))
      bump h o (fun c => { c with elements := sat32 c.elements ps.length })
    else if h.w.form = 2 then
      let gr := o.grouping d
      let gs := groups d gr.1 gr.2
      let n := volume (groupDims d gr.1 gr.2)
      let xs := (gs.zip es)
      let exps := (List.range n).map (fun g => dropExp ((xs.filter (fun x => x.1 == g)).filterMap (·.2)))
      let rs := (xs.zip us).map (fun x => match x.1.2 with
        | some v => dropTo false v (-((exps[x.1.1]?).getD 0)) x.2
        | none => pad)
      let scales := exps.map scaleOf
      match so with
      | none => store h o { fmt := fSfp16, dims := d, elems := rs.map (·.bits), tags := tags, scales := scales, axis := gr.1, group := gr.2 }
      | some so => do
        let sd := groupDims d gr.1 gr.2
        needShape (outDims h so sd) sd
        store h o { fmt := fSfp16, dims := d, elems := rs.map (·.bits), tags := tags, scales := [], axis := gr.1, group := gr.2 }
        store h so (Arr.of fFp32 sd scales (groupTags n (gs.zip tags)))
        bump h so (fun c => { c with elements := sat32 c.elements scales.length })
      bumpRes h o rs
    else
      let w := h.w.form == 1
      let rs := (es.zip us).map (fun x => match x.1 with | some v => dropTo w v 0 x.2 | none => pad)
      storeRes h o d rs tags

/-- DRAIN (R71 to R78, R145). -/
def execDrain (c i : Nat) (s : State) : Host.Outcome State Fault Refusal :=
  onUnit (clusterOk c) "cluster" s (runWord (fun w => w.op == 0x1C0) .either doDrain drainFill c i s)

end Sys2Proof.Machine
end

