-- ==== Sys2Proof/Machine/Attend.lean ====
section
/-! DEFINITION. Attention over the paged key-value cache (R163 to R189): the walker's readings, ATTEND.FWD, ATTEND.BWD, ATTEND.MIXED
and SCATTER_KV. -/

namespace Sys2Proof.Machine

/-! ## The PAGE_TABLE descriptor (R170, R171) -/

/-- The most positions of a sequence. -/
def maxPos : Nat := 1048576

/-- The detail of a skip that also raises a walker fault (R190): 1 ENTRY_REJECTED, 2 MARK_ORDER. -/
def walkFault (fault detail : Nat) : Nat := fault * 2 ^ 32 + detail

/-- A PAGE_TABLE descriptor with its arguments bound. -/
structure Table where
  d       : Nat
  kv      : Nat
  group   : Nat
  mask    : Nat
  spread  : Bool
  parts   : Nat
  part    : Nat
  segs    : Nat
  globs   : Nat
  batch   : Nat
  root    : Nat
  length  : Nat
  qstart  : Nat
  window  : Nat
  scale   : Fp
  gscale  : Fp
  deriving DecidableEq, Repr

/-- Query heads. -/
def Table.heads (t : Table) : Nat := t.kv * t.group

/-- Whether an FP32 code is finite. -/
def finite32 (n : Nat) : Bool := n / 2 ^ 23 % 256 != 255

/-- A PAGE_TABLE descriptor bound and checked (R138, R171); `mixed` for ATTEND.MIXED, which ignores some fields (R189). -/
def parseTable (p : Bytes) (args : List Nat) (mixed : Bool) : Option Table := do
  let root ← pickPair args (num p 46 1) (num p 16 8)
  let len ← pickArg args (num p 44 1) (num p 24 4)
  let qs ← pickArg args (num p 45 1) (num p 28 4)
  let l := num p 1 1
  if l < 6 || l > 8 || num p 2 1 = 0 || num p 2 1 > 128 || num p 3 1 = 0 || num p 3 1 > 16 || num p 4 1 ≥ 8 || !allZero (sub p 47 81)
      || !finite32 (num p 36 4) || !finite32 (num p 40 4) || (num p 14 2 != noDesc) != mixed
      || ((num p 4 1).testBit 1 && (decide (num p 32 4 < 1) || decide (num p 32 4 > 65536))) then none
  else if num p 6 2 == 0 || decide (num p 6 2 > 256) || decide (num p 8 2 ≥ num p 6 2) then none
  else if !mixed && (decide (num p 5 1 > 1) || decide (len > maxPos)) then none
  else some { d := 2 ^ l, kv := num p 2 1, group := num p 3 1, mask := num p 4 1, spread := num p 5 1 == 1, parts := max 1 (num p 6 2),
              part := num p 8 2, segs := num p 10 2, globs := num p 12 2, batch := num p 14 2, root := root, length := len,
              qstart := qs, window := num p 32 4, scale := fpOf true (num p 36 4), gscale := fpOf true (num p 40 4) }

/-- The PAGE_TABLE in a slot of the word. -/
def tableAt (h : Here) (slot : Nat) (mixed : Bool) : Act Table := do
  let d ← descOf h (h.w.opnd slot) slot
  need (num d 0 1 == dtPages) cType slot
  match parseTable d h.args mixed with
  | some t => pure t
  | none => skip cDesc slot

/-- A TENSOR of a given format that a PAGE_TABLE names (R171). -/
def sideTen (h : Here) (ix fmt slot : Nat) : Act Ten := do
  if ix ≥ hDescCount h.prog then skip cDesc slot
  else
    let d := descAt h.prog ix
    match (if num d 0 1 = dtTensor then parseTen d h.args else none) with
    | some t => do need (t.fmt == fmt) cDesc slot; pure t
    | none => skip cDesc slot

/-- The first `n` elements of a tensor (R173). -/
def readFirst (h : Here) (slot : Nat) (t : Ten) (n : Nat) : Act (List Nat) := do
  let s ← get
  match tenKeys s h slot t with
  | .error e => halt e
  | .ok ks =>
    let bs ← readKeys h (ks.take (n * elemSize t.fmt))
    pure ((chunks (bs.length + 1) (elemSize t.fmt) bs).map (fun b => (joinBytes b).1))

/-! ## The walker's readings (R163 to R169) -/

/-- A byte as the walker sees it: memory before its own command, or, where its own command has written the byte otherwise than by a
scatter, either the old or the new one, line by line, a free choice (R163). -/
def walkByte (s : State) (r : Run) (key : Nat) : Nat :=
  let mem := if s.loose' key || s.hidden (some (r.ctx, r.queue)) key then (Config.freeByte s.fresh key).toNat else (memGet s.mem key).toNat
  match kvGet r.overlay key with
  | some b => if (Config.freeByte s.fresh (key / 64)).toNat % 2 = 1 then b.toNat else mem
  | none => mem

/-- Bytes that the walker reads, checked against the context's partition (R168, R327), with PARITY for a poisoned line. -/
def walkBytes (h : Here) (wr : Bool) (space off n : Nat) : Act (List Nat × Nat) := do
  let s ← get
  let r ← getRun h
  need (!leaseBarAt s h (gAddr s.sec.pkg space off).toNat n) cDesc (if h.w.op = 0x140 then 2 else 1)
  if !s.allowed false (s.ctxPart r.ctx) wr space off n then halt (Stop.fail stPartition (some (space + 16, off)))
  else
    let keys := (List.range n).map (fun i => memKey space (off + i))
    pure (keys.map (walkByte s r), if s.poisoned space off n then tagParity else 0)

/-- A number of 8 bytes. -/
def le64 (l : List Nat) : Nat := l.foldr (fun b a => b + 256 * a) 0

/-- A root or entry word, read once for the command; an entry is kept under its offset in space 7, which names no memory (R163). The first
root read gives the record its generation (R169). -/
def walkWord (h : Here) (ent : Bool) (off : Nat) : Act Nat := do
  let b ← walkBytes h false 0 off 8
  let r ← getRun h
  let key := gAddr 0 (if ent then 7 else 0) off
  match r.roots.find? (fun x => x.1 == key) with
  | some x => pure x.2.toNat
  | none => do
    let w := le64 b.1
    putRun h (fun r => { r with roots := r.roots ++ [(key, BitVec.ofNat 64 w)],
                                gen := if ent then r.gen else some (r.gen.getD (BitVec.ofNat 16 w)) })
    pure w

/-- The generation and the entry array of a table (R166, R168). -/
def rootOf (h : Here) (root slot : Nat) : Act (Nat × Nat) := do
  let s ← get
  let a := BitVec.ofNat 64 root
  need (gPkg a == s.sec.pkg && gSpace a == 0 && gOff a % 8 == 0) cDesc slot
  let w ← walkWord h false (gOff a)
  need (bitsOf w 63 1 == 1 && bitsOf w 52 11 == 0) cDesc (walkFault 1 slot)
  pure (w % 2 ^ 16, bitsOf w 16 36 * 4096)

/-- The space and offset of the page an entry names, when it is accepted (R165, R167, R168). -/
def entryOf (h : Here) (t : Table) (root : Nat × Nat) (g head kind : Nat) : Act (Option (Nat × Nat)) := do
  let e ← walkWord h true (root.2 + 8 * ((g * t.kv + head) * 2 + kind))
  let r ← getRun h
  let ppn := bitsOf e 24 35
  if e % 2 = 1 && bitsOf e 1 6 == r.ctx && bitsOf e 8 16 == root.1 && ppn % (t.d / 64) == 0 && e / 2 ^ 59 == 0
  then pure (some (bitsOf e 7 1, ppn * 8192)) else pure none

/-- A page: its bytes, its 64 rows of D values, and the tag of what was read (R164). -/
structure Page where
  raw  : List Nat
  rows : List (List Fp)
  tag  : Nat
  deriving DecidableEq, Repr

/-- A page fetched (R164, R168). -/
def pageOf (h : Here) (t : Table) (root : Nat × Nat) (slot g head kind : Nat) : Act Page := do
  match ← entryOf h t root g head kind with
  | none => skip cDesc (walkFault 1 slot)
  | some (sp, off) => do
    let b ← walkBytes h false sp off (128 * t.d)
    let vs := (chunks (64 * t.d + 1) 2 b.1).map (fun x => fpOf false (le64 x))
    pure { raw := b.1, rows := chunks 64 t.d vs, tag := b.2 }

/-- The pages of key-value head `head` that a walk needs, by page number: keys and values. -/
def pagesOf (h : Here) (t : Table) (root : Nat × Nat) (slot head : Nat) : List Nat → Act (List (Nat × Page × Page))
  | [] => pure []
  | g :: l => do
    let k ← pageOf h t root slot g head 0
    let v ← pageOf h t root slot g head 1
    let rest ← pagesOf h t root slot head l
    pure ((g, k, v) :: rest)

/-! ## Which keys a query sees (R172, R173) -/

/-- The marks of a row, if it has any, and its global positions. -/
structure Segs where
  marks : Option (List Nat)
  globs : List Nat
  deriving DecidableEq, Repr

/-- The mark of a position. -/
def Segs.mark (g : Segs) (p : Nat) : Nat := match g.marks with
  | none => 0
  | some l => (l[p]?).getD 0

/-- The tensors of marks and global positions that a PAGE_TABLE names, for P positions (R171). -/
def sideTens (h : Here) (t : Table) (P slot : Nat) : Act (Option Ten × Option Ten) := do
  let marks ← if t.segs = noDesc then pure none else do
      let x ← sideTen h t.segs fUint16 slot
      need (decide (P ≤ volume x.dims)) cDesc slot
      pure (some x)
  let globs ← if t.globs = noDesc then pure none else do
      let x ← sideTen h t.globs fInt32 slot
      pure (some x)
  pure (marks, globs)

/-- The segment marks over positions 0 to P − 1 and the global positions (R171, R173). -/
def segsOf (h : Here) (t : Table) (P slot : Nat) : Act Segs := do
  let side ← sideTens h t P slot
  let marks ← match side.1 with
    | none => pure none
    | some x => do
      let l ← readFirst h slot x P
      need (l.all (fun m => decide (m ≤ 4095)) && (l.zip (l.drop 1)).all (fun p => decide (p.1 ≤ p.2))) cDesc (walkFault 2 1)
      pure (some l)
  let globs ← match side.2 with
    | none => pure []
    | some x => if !t.mask.testBit 2 then pure [] else do
        let l ← readFirst h slot x (volume x.dims)
        let segs := match marks with | none => (if P = 0 then [] else [0]) | some m => m.eraseDups
        pure (segs.flatMap (fun sg =>
          let ps := (List.range P).filter (fun p => (match marks with | none => 0 | some m => (m[p]?).getD 0) == sg)
          let start := (ps.head?).getD 0
          (List.range 256).filterMap (fun g =>
            match l[g + 256 * sg]? with
            | none => none
            | some n => let v := sext 32 n; if decide (0 ≤ v) && decide (v < Int.ofNat ps.length) then some (start + v.toNat) else none)))
  pure { marks := marks, globs := globs }

/-- Whether key j is admitted for the query at position i (R172). -/
def admitted (t : Table) (sg : Segs) (i j : Nat) : Bool :=
  let causal := t.mask.testBit 0
  let dist := if causal then i - j else if i > j then i - j else j - i
  if j ≥ t.length then false
  else if sg.mark j ≠ sg.mark i then false
  else if causal && decide (j > i) then false
  else if !t.mask.testBit 1 then true
  else decide (dist < t.window) || sg.globs.contains j || sg.globs.contains i

/-- The keys a query sees on this package (R172, R182). -/
def keysFor (t : Table) (sg : Segs) (i : Nat) : List Nat :=
  (List.range t.length).filter (fun j => admitted t sg i j && (!t.spread || j / 4096 % t.parts == t.part))

/-! ## Scores and partials (R174 to R178) -/

/-- The score of a key (R174). -/
def score (q k : List Fp) (scale : Fp) : Fp :=
  let w := (accumulate (Acc.start 0) (q.zipWith fpMul k)).finish
  fpOf true (dropTo true ((wordVal w 0 0).mul scale) 0 none).bits

/-- floor and ceil of a finite value. -/
def fpFloor : Fp → Int
  | .fin s m e => let v : Int := if s then -(Int.ofNat m) else Int.ofNat m
                  if 0 ≤ e then v * 2 ^ e.toNat else v / (2 ^ (-e).toNat : Int)
  | _ => 0
def fpCeil (v : Fp) : Int := -(fpFloor (fpNeg v))

/-- rne16(e2(t − floor t) × 2^(floor t − R)) (R175). -/
def prob (t : Fp) (r : Int) : Fp :=
  let e := fpFloor t
  let f := fpAdd t (fpOfInt (-e))
  fpOf false (cvtFloat false (fpScale (fn32 fnExp2 f) (e - r)) none).bits

/-- VALUE shifted right, truncating toward zero (R175). -/
def shrWord (x : Exa) (n : Nat) : Exa :=
  let m := x.value.natAbs
  let q := m / 2 ^ n
  { x with value := if x.value < 0 then -(Int.ofNat q) else Int.ofNat q, inexactLow := x.inexactLow || m % 2 ^ n != 0 }

/-- A word's VALUE shifted while it accumulates. -/
def Acc.shr (a : Acc) (n : Nat) : Acc :=
  let w := a.finish
  let x := shrWord w n
  { a with word := { a.word with inexactLow := x.inexactLow }, guard := if a.word.overflow then a.guard else x.value }

/-- A partial: R (none for −2^31), L and O (R175). -/
structure Part where
  r : Option Int
  l : Exa
  o : List Exa
  deriving DecidableEq, Repr

/-- One page of a span: the reference rises, the sums are shifted, the keys are added (R175). -/
def pageStep (a : Option Int × Acc × List Acc) (js : List (Fp × List Fp)) : Option Int × Acc × List Acc :=
  match js with
  | [] => a
  | x :: rest =>
    let top := rest.foldl (fun m y => max m (fpCeil y.1)) (fpCeil x.1)
    let rn := match a.1 with | none => top | some r => max r top
    let n := match a.1 with | none => 0 | some r => (rn - r).toNat
    let a := if n = 0 then a else (a.1, a.2.1.shr n, a.2.2.map (fun o => o.shr n))
    js.foldl (fun (b : Option Int × Acc × List Acc) j =>
      let p := prob j.1 rn
      (some rn, b.2.1.addFixed p, b.2.2.zipWith (fun o v => o.addFixed (fpMul p v)) j.2)) (some rn, a.2)

/-- A span's partial from its pages; `bad` and `big` are the marks of R177. -/
def spanPart (d : Nat) (pages : List (List (Fp × List Fp))) (bad big : Bool) : Part :=
  let a := pages.foldl pageStep (none, Acc.start 0, List.replicate d (Acc.start 0))
  let l := a.2.1.finish
  { r := a.1, l := { l with nan := l.nan || bad, overflow := l.overflow || big }, o := a.2.2.map Acc.finish }

/-- A score's place under R177: none when it is set aside or spoils the row; with the marks bad and big. -/
def judge (t : Fp) : Bool × Bool × Bool :=
  match t with
  | .nan => (false, true, false)
  | .inf s => (false, !s, false)
  | v => if fpLt (match v with | .fin _ m e => .fin false m e | x => x) (.fin false 1 24) then (true, false, false)
         else (false, !fpSign v, true)

/-- The flags of words ORed onto a sum (R176). -/
def withFlags (v : Int) (ws : List Exa) : Exa :=
  { value := v, inexactLow := ws.any (·.inexactLow), overflow := ws.any (·.overflow), nan := ws.any (·.nan), posInf := ws.any (·.posInf),
    negInf := ws.any (·.negInf), blot := ws.any (·.blot), empty := ws.all (·.empty), anchor := 0 }

/-- Words of one place of several partials, shifted and summed exactly (R176). -/
def sumWords (ws : List Exa) : Exa :=
  let v := ws.foldl (fun a x => a + x.value) (0 : Int)
  let x := withFlags v ws
  if v < exaBot then { x with value := exaBot, overflow := true } else if v > exaTop then { x with value := exaTop, overflow := true } else x

/-- The partials of a row combined (R176). -/
def combine (d : Nat) (ps : List Part) : Part :=
  let rs := ps.filterMap (·.r)
  match rs with
  | [] => { r := none, l := withFlags 0 (ps.map (·.l)), o := (List.range d).map (fun k => withFlags 0 (ps.map (fun p => (p.o[k]?).getD (Exa.cleared 0)))) }
  | x :: rest =>
    let top := rest.foldl max x
    let at0 := fun (p : Part) (w : Exa) => match p.r with
      | some r => shrWord w (top - r).toNat
      | none => { w with value := 0 }
    { r := some top, l := sumWords (ps.map (fun p => at0 p p.l)),
      o := (List.range d).map (fun k => sumWords (ps.map (fun p => at0 p ((p.o[k]?).getD (Exa.cleared 0))))) }

/-- A finished row and head: its elements, its log-sum, and the counts of R177 and R178. -/
structure RowOut where
  els   : List Res
  lse   : Res
  empty : Bool
  big   : Bool
  deriving DecidableEq, Repr

/-- One output element: O by l in FP32, converted (R178). -/
def finishElem (w : Bool) (o : Exa) (l : Fp) : Res :=
  let a := drainElem true o 0 none
  let q := encFp true (fpDiv (fpOf true a.bits) l)
  let r := if w then q else cvtFloat false (fpOf true q.bits) none
  { bits := r.bits, ovf := isInf w r.bits && (a.ovf || q.ovf || r.ovf),
    unf := (r.bits % 2 ^ (if w then 31 else 15) == 0) && (a.unf || q.unf || r.unf), sat := false, inex := false }

/-- A row finished (R177, R178). -/
def finishRow (w : Bool) (p : Part) : RowOut :=
  if p.l.nan then { els := p.o.map (fun _ => Res.of (nanBits w)), lse := Res.of (nanBits true), empty := false, big := p.l.overflow }
  else match p.r with
    | none => { els := p.o.map (fun _ => Res.of 0), lse := Res.of 0xFF800000, empty := true, big := p.l.overflow }
    | some r =>
      let l := fpOf true (if p.l.value = 0 then 0 else (encode' true false (decide (p.l.value < 0)) p.l.value.natAbs (-48) none).bits)
      { els := p.o.map (fun o => finishElem w o l), lse := encFp true (fpAdd (fpOfInt r) (fn32 fnLog2 l)), empty := false,
        big := p.l.overflow }

/-! ## ATTEND.FWD and ATTEND.MIXED (R179, R180, R189) -/

/-- Extents that an operand must have: those of the tensor form; in a region of a core, the first two axes in a row and the others as rows
(R179; for the row statistics and gradients of R186 log entry 22); for what a distributed instruction keeps in scratchpads, either. -/
def needRows (h : Here) (o : Opnd) (dims : List Nat) (want : List Nat) : Act Unit :=
  let flat := [((want[0]?).getD 1) * ((want[1]?).getD 1), volume (want.drop 2)]
  if o.isArea then (if h.pin.isNone ∧ trimDims dims = trimDims want then pure () else needShape dims flat) else needShape dims want

/-- The query rows of an operand of `d` by `heads` (R171, R179). -/
def queryRows (h : Here) (o : Opnd) (dims : List Nat) (d heads : Nat) : Act Nat := do
  need (o.fmt == fFp16) cFormat 0
  if o.isArea && h.pin.isSome then do
    need ((dims[0]?).getD 1 == d * heads) cShape 0
    pure ((dims[1]?).getD 1)
  else if o.isArea && (dims[0]?).getD 1 == d * heads then pure ((dims[1]?).getD 1)
  else do
    need ((dims[0]?).getD 1 == d) cShape 0
    need ((dims[1]?).getD 1 == heads) cDesc 1
    needShape dims [d, heads, (dims[2]?).getD 1]
    pure ((dims[2]?).getD 1)

/-- An output of the tensor form with the shape its destination takes. -/
def rowOut (h : Here) (ix slot : Nat) (fmts : List Nat) (want : List Nat) : Act (Opnd × List Nat) := do
  let o ← opndAt h ix slot true
  need (fmts.contains o.fmt) cFormat slot
  let d := outDims h o want
  needRows h o d want
  pure (o, d)

/-- The numbers of the pages that hold keys. -/
def pageNos (js : List Nat) : List Nat := (js.map (· / 64)).eraseDups

/-- The partial of one row and head over this package's spans (R175 to R177). -/
def rowPart (t : Table) (pages : List (Nat × Page × Page)) (q : List Fp) (js : List Nat) : Part × Nat :=
  let find := fun g => (pages.find? (fun p => p.1 == g)).map (·.2)
  let scored := js.map (fun j =>
    match find (j / 64) with
    | some (k, v) => (j, score q ((k.rows[j % 64]?).getD []) t.scale, (v.rows[j % 64]?).getD [])
    | none => (j, Fp.nan, []))
  let spans := (js.map (· / 4096)).eraseDups
  let parts := spans.map (fun sp =>
    let mine := scored.filter (fun x => x.1 / 4096 == sp)
    let marks := mine.map (fun x => judge x.2.1)
    let gs := pageNos (mine.map (·.1))
    spanPart t.d (gs.map (fun g => (mine.filter (fun x => x.1 / 64 == g && (judge x.2.1).1)).map (fun x => x.2)))
      (marks.any (fun m => m.2.1)) (marks.any (fun m => m.2.2)))
  (combine t.d parts, tagAll ((pageNos js).map (fun g => match find g with | some (k, v) => tagOr k.tag v.tag | none => 0)))

/-- The bytes of pages fetched, in order. -/
def rawPages (heads : List (List (Nat × Page × Page))) : List Nat := heads.flatMap (fun l => l.flatMap (fun p => p.2.1.raw ++ p.2.2.raw))

/-- Every query head of a list of rows, given as (row, position): the combined partials with their tags, head fastest; and what was read for
them beside the queries. -/
def attendRows (h : Here) (t : Table) (sg : Segs) (slot : Nat) (q : Arr) (rows : List (Nat × Nat)) : Act (List (Part × Nat) × List Nat) := do
  let root ← rootOf h t.root slot
  let ks := rows.map (fun r => (r, keysFor t sg r.2))
  let gs := pageNos (ks.flatMap (·.2))
  let mut heads : List (List (Nat × Page × Page)) := []
  for k in List.range t.kv do
    let p ← pagesOf h t root slot k gs
    heads := heads ++ [p]
  modify (fun s => { s with fresh := s.fresh + 1 })
  let vs := q.vals
  pure (ks.flatMap (fun r => (List.range t.heads).map (fun hq =>
    let base := t.d * (hq + t.heads * r.1.1)
    let x := rowPart t ((heads[hq / t.group]?).getD []) ((vs.drop base).take t.d) r.2
    (x.1, tagOr x.2 (tagAll ((q.tags.drop base).take t.d))))), rawPages heads ++ ks.flatMap (·.2))

/-- An operand read only in the elements `sel` names; the others stand as zeros (R189). -/
def fetchSome (h : Here) (o : Opnd) (dims : List Nat) (sel : List Bool) : Act Arr := do
  if sel.all id then fetch h o
  else
    let es := elemSize o.fmt
    let pick := fun (ks : List Nat) => ((ks.zip (sel.flatMap (fun b => List.replicate es b))).filter (·.2)).map (·.1)
    let bs ← match o.loc, h.pin with
      | .ten t, _ => do
        let s ← get
        match tenKeys s h o.slot t with
        | .error e => halt e
        | .ok ks => readKeys h (pick ks)
      | .area r, some (_, j, l) => match r.offs with
        | .error x => skip cAccess x
        | .ok os => readScratch h j l (pick (os.flatMap (fun x => (List.range es).map (x + ·))))
      | .area _, none => do
        let a ← fetch h o
        pure (((a.elems.zip (a.tags.zip sel)).filter (fun x => x.2.2)).flatMap (fun x =>
          (List.range es).map (fun k => (x.1 / 256 ^ k % 256, x.2.1))))
    let xs := (chunks (bs.length + 1) es bs).map joinBytes
    let full := sel.foldl (fun (acc : List (Nat × Nat) × List (Nat × Nat)) b =>
      if b then ((acc.2.headD (0, 0)) :: acc.1, acc.2.drop 1) else ((0, 0) :: acc.1, acc.2)) ([], xs)
    pure (Arr.of o.fmt dims (full.1.reverse.map (·.1)) (full.1.reverse.map (·.2)))

/-- Part of an output written: the elements `sel` names (R189). -/
def storeSome (h : Here) (o : Opnd) (sel : List Bool) (a : Arr) : Act Unit := do
  if sel.all id then store h o a
  else
    let es := elemSize o.fmt
    let pickB := fun (cs : List (Nat × Nat × Nat)) =>
      (cs.zip (sel.flatMap (fun b => List.replicate es b))).filterMap (fun x => if x.2 then some x.1 else none)
    match o.loc, h.pin with
    | .ten t, _ => do
      let s ← get
      match tenKeys s h o.slot t with
      | .error e => halt e
      | .ok ks => writeKeys h (pickB (elemCells es ks a.elems a.tags))
    | .area r, some (_, j, l) =>
      match r.offs with
      | .error x => skip cAccess x
      | .ok os => writeScratch h j l (pickB (elemCells es (os.flatMap (fun x => (List.range es).map (x + ·))) a.elems a.tags))
    | .area x, none => do
      let r ← getRun h
      let old := (r.virt x).map (fun v => (v.elems, v.tags))
      let mix := fun (new prev : List Nat) => (new.zip sel).mapIdx (fun k x => if x.2 then x.1 else (prev[k]?).getD 0)
      store h o { a with elems := mix a.elems (old.map (·.1) |>.getD []), tags := mix a.tags (old.map (·.2) |>.getD []) }

/-- Finished rows written to the output and the log-sum, with their counts (R178, R189). `sel` says which rows the rows are. -/
def writeRows (h : Here) (t : Table) (rows : Nat) (out : Opnd × List Nat) (lse : Option (Opnd × List Nat))
    (rs : List (Nat × RowOut × Nat)) : Act Unit := do
  let hs := t.heads
  let find := fun (k : Nat) => rs.find? (fun x => x.1 == k)
  let cells := (List.range (rows * hs)).map find
  let els := cells.flatMap (fun c => match c with
    | some x => x.2.1.els.map (fun e => (true, e, x.2.2))
    | none => List.replicate t.d (false, Res.of 0, 0))
  storeSome h out.1 (els.map (·.1)) (Arr.of out.1.fmt out.2 (els.map (fun x => x.2.1.bits)) (els.map (fun x => x.2.2)))
  bumpRes h out.1 ((els.filter (·.1)).map (fun x => x.2.1))
  bump h out.1 (fun c => { c with emptyRows := sat32 c.emptyRows (rs.filter (fun x => x.2.1.empty)).length,
                                  overflow := sat32 c.overflow (rs.filter (fun x => x.2.1.big)).length })
  match lse with
  | none => pure ()
  | some o => do
    let ls := cells.map (fun c => match c with
      | some x => (true, x.2.1.lse, x.2.2)
      | none => (false, Res.of 0, 0))
    storeSome h o.1 (ls.map (·.1)) (Arr.of o.1.fmt o.2 (ls.map (fun x => x.2.1.bits)) (ls.map (fun x => x.2.2)))
    bumpRes h o.1 ((ls.filter (·.1)).map (fun x => x.2.1))

/-- The log-sum operand that the modifier names (R179). -/
def lseOut (h : Here) (heads rows : Nat) : Act (Option (Opnd × List Nat)) := do
  if h.w.mod = noDesc then pure none else do
    let o ← opndAt h h.w.mod 3 true
    need (o.fmt == fFp32) cFormat 3
    let d := outDims h o [heads, rows]
    needShape d [heads, rows]
    pure (some (o, d))

/-- Word 0 of a partial as an EXA128 code (R180). -/
def refWord (r : Option Int) : Nat := unsext 32 (r.getD (-(2 ^ 31 : Int)))

/-- A partial's D + 2 words, with its tag. -/
def partWords (p : Part) : List Nat := refWord p.r :: exaNat p.l :: p.o.map exaNat

/-- A partial read back, or the skip of one that is inconsistent (R180). -/
def partOf (slot : Nat) (ws : List Nat) : Act Part := do
  let r := (ws[0]?).getD 0
  let es := (ws.drop 1).map exaOf
  need (decide (r < 2 ^ 32) && es.all (fun x => x.anchor == 0)) cDesc slot
  pure { r := if sext 32 r = -(2 ^ 31 : Int) then none else some (sext 32 r), l := es.headD (Exa.cleared 0), o := es.drop 1 }

/-- Every partial of an operand. -/
def partsOf (slot : Nat) : List (List Nat) → Act (List Part)
  | [] => pure []
  | w :: t => do
    let p ← partOf slot w
    let r ← partsOf slot t
    pure (p :: r)

/-- D, heads and rows of a partial operand of forms 2 and 3 (R179, R180). A region's COLS fix D with the output's columns in form 3;
where they do not, the smallest D that divides is taken (log entry 22). -/
def partDims (o : Opnd) (dims : List Nat) (outCols : Option Nat) : Act (Nat × Nat × Nat) := do
  need (o.fmt == fExa) cFormat o.slot
  let c := (dims[0]?).getD 1
  if c = 66 || c = 130 || c = 258 then
    needShape dims [c, (dims[1]?).getD 1, (dims[2]?).getD 1]
    if o.isArea && (dims[2]?).isNone then pure (c - 2, 1, (dims[1]?).getD 1)
    else pure (c - 2, (dims[1]?).getD 1, (dims[2]?).getD 1)
  else
    need o.isArea cShape 0
    match [64, 128, 256].find? (fun d => c % (d + 2) == 0 && c / (d + 2) != 0
        && (match outCols with | some n => n == d * (c / (d + 2)) | none => true)) with
    | some d => pure (d, c / (d + 2), (dims[1]?).getD 1)
    | none => skip cShape 0

/-- A product-class instruction that R145 names leaves accumulators whose content no rule states: the drain after it is free
(log entry 21). -/
def attendDone (h : Here) (src tags : List Nat) : Act Unit :=
  putProduct h { Product.blank with attend := some (h.w.ix, src), tags := tags }

/-- ATTEND.FWD forms 0 and 1 (R179). -/
def attendWalk (h : Here) : Act Unit := do
  let t ← tableAt h 1 false
  let qo ← opnd h 0 false
  let qd ← dimsOf h qo
  let rows ← queryRows h qo qd t.d t.heads
  let named := (targets { h with pin := none }).length
  let place := match h.pin with | some (p, _, _) => p | none => 0
  let qs := t.qstart + place * rows
  let last := t.qstart + rows * (if h.pin.isNone then 1 else named)
  need (decide (last ≤ maxPos)) cDesc 1
  let q ← fetch h qo
  let sg ← segsOf { h with pin := none } t (max t.length last) 1
  let pos := (List.range rows).map (fun r => (r, qs + r))
  if h.w.form = 0 then
    let out ← rowOut h h.w.c 2 [fFp16, fFp32] [t.d, t.heads, rows]
    let lse ← lseOut h t.heads rows
    let (ps, src) ← attendRows h t sg 1 q pos
    writeRows h t rows out lse (ps.mapIdx (fun k p => (k, finishRow (out.1.fmt == fFp32) p.1, p.2)))
    attendDone h (q.elems ++ src) (ps.map (·.2))
  else
    let out ← rowOut h h.w.c 2 [fExa] [t.d + 2, t.heads, rows]
    let (ps, src) ← attendRows h t sg 1 q pos
    let els := ps.flatMap (fun p => (partWords p.1).map (fun w => (w, p.2)))
    store h out.1 (Arr.of fExa out.2 (els.map (·.1)) (els.map (·.2)))
    bump h out.1 (fun c => { c with elements := sat32 c.elements els.length })
    attendDone h (q.elems ++ src) (ps.map (·.2))

/-- ATTEND.FWD forms 2 and 3 (R176, R178 to R180). -/
def attendMerge (h : Here) : Act Unit := do
  needNone h 1
  let ao ← opnd h 0 false
  let ad ← dimsOf h ao
  let oc ← opnd h 2 true
  let cols := match oc.loc with
    | .area a => if h.w.form = 3 && h.pin.isSome then some a.cols else none
    | .ten _ => none
  let (d, heads, rows) ← partDims ao ad cols
  let a ← fetch h ao
  let ws := chunks (a.elems.length + 1) (d + 2) a.elems
  let ts := (chunks (a.tags.length + 1) (d + 2) a.tags).map tagAll
  let ps ← partsOf 0 ws
  if h.w.form = 2 then
    need (oc.fmt == fExa) cFormat 2
    let c ← fetch h oc
    needRows h oc c.dims [d + 2, heads, rows]
    let cs ← partsOf 2 (chunks (c.elems.length + 1) (d + 2) c.elems)
    let ct := (chunks (c.tags.length + 1) (d + 2) c.tags).map tagAll
    let els := ((cs.zip ps).zip (ct.zip ts)).flatMap (fun x =>
      (partWords (combine d [x.1.1, x.1.2])).map (fun w => (w, tagOr x.2.1 x.2.2)))
    store h oc (Arr.of fExa c.dims (els.map (·.1)) (els.map (·.2)))
    bump h oc (fun k => { k with elements := sat32 k.elements els.length })
    attendDone h (a.elems ++ c.elems) (a.tags ++ c.tags)
  else
    let out ← rowOut h h.w.c 2 [fFp16, fFp32] [d, heads, rows]
    let lse ← lseOut h heads rows
    let t : Table := { d := d, kv := heads, group := 1, mask := 0, spread := false, parts := 1, part := 0, segs := noDesc, globs := noDesc,
                       batch := noDesc, root := 0, length := 0, qstart := 0, window := 0, scale := .nan, gscale := .nan }
    writeRows h t rows out lse ((ps.zip ts).mapIdx (fun k p => (k, finishRow (out.1.fmt == fFp32) p.1, p.2)))
    attendDone h a.elems a.tags

/-- ATTEND.FWD (R179). -/
def doAttendFwd (h : Here) : Act Unit := do
  need (decide (h.w.form < 4)) cForm 0
  need (h.w.imm == 0 && (h.w.mod == noDesc || h.w.form == 0 || h.w.form == 3)) cReserved 0
  if h.w.form < 2 then attendWalk h else attendMerge h

/-- A batch entry (R189). -/
structure Batch where
  root   : Nat
  length : Nat
  qstart : Nat
  first  : Nat
  count  : Nat
  spare  : Nat
  deriving DecidableEq, Repr

/-- The batch entries that a PAGE_TABLE names (R189). -/
def batchOf (h : Here) (t : Table) : Act (List Batch) := do
  let x ← sideTen { h with pin := none } t.batch fUint8 1
  let l ← readFirst { h with pin := none } 1 x (volume x.dims / 32 * 32)
  let n := fun (b : List Nat) (o k : Nat) => ((b.drop o).take k).foldr (fun v a => v + 256 * a) 0
  pure ((chunks (l.length + 1) 32 l).map (fun b =>
    { root := n b 0 8, length := n b 8 4, qstart := n b 12 4, first := n b 16 4, count := n b 20 4, spare := n b 24 8 }))

/-- The entries of a command's ATTEND.MIXED words up to a word, which the limits of R189 hold for; a BATCH tensor that several words name
counts once (log entry 99). -/
def batchesTo (h : Here) (s : State) : List Batch :=
  let ts := (List.range (h.w.ix + 1 - h.cmd.first)).filterMap (fun k =>
    let w := wordAt h.prog (h.cmd.first + k)
    if w.op = 0x102 ∧ w.b < hDescCount h.prog ∧ num (descAt h.prog w.b) 0 1 = dtPages then parseTable (descAt h.prog w.b) h.args true else none)
  let one := ts.foldl (fun (l : List Table) t => if l.any (fun x => x.batch == t.batch) then l else l ++ [t]) []
  one.flatMap (fun t => match batchOf h t s with
    | .ok (l, _) => l
    | .error _ => [])

/-- The limits of R189 on the entries of a command. -/
def batchFits (bs : List Batch) : Bool :=
  decide ((bs.filter (fun b => b.count == 1)).length ≤ 512) && decide ((bs.map (·.count)).foldl (· + ·) 0 ≤ 16384)

/-- The rules of R189 on the entries of a batch over `rows` rows. -/
def batchOk (rows : Nat) (bs : List Batch) : Bool :=
  bs.all (fun b => b.spare == 0 && (b.count == 1 || (decide (256 ≤ b.count) && decide (b.count ≤ 2048))) && decide (b.first + b.count ≤ rows)
      && decide (b.length ≤ maxPos) && decide (b.qstart + b.count ≤ maxPos))
    && (List.range bs.length).all (fun i => (List.range i).all (fun j =>
      match bs[i]?, bs[j]? with
      | some a, some b => decide (a.first + a.count ≤ b.first) || decide (b.first + b.count ≤ a.first)
      | _, _ => true))

/-- The table of one batch entry: one segment, no global position (R189). -/
def Table.entry (t : Table) (b : Batch) : Table :=
  { t with root := b.root, length := b.length, qstart := b.qstart, spread := false, segs := noDesc, globs := noDesc, mask := t.mask % 4 }

/-- The part of a batch that lies in `rows` rows from row `from'`, with its rows counted from there. -/
def batchPart (from' rows : Nat) (bs : List Batch) : List Batch :=
  bs.filterMap (fun b =>
    let lo := max b.first from'
    let hi := min (b.first + b.count) (from' + rows)
    if lo < hi then some { b with qstart := b.qstart + (lo - b.first), first := lo - from', count := hi - lo } else none)

/-- The rows that the entries of a batch hold, of `rows` rows. -/
def batchSel (rows per : Nat) (bs : List Batch) : List Bool :=
  (List.range rows).flatMap (fun k => List.replicate per (bs.any (fun b => decide (b.first ≤ k) && decide (k < b.first + b.count))))

/-- The rows of every entry, finished, and what was read for them. -/
def mixedRows (h : Here) (t : Table) (q : Arr) (w : Bool) : List Batch → Act (List (Nat × RowOut × Nat) × List Nat)
  | [] => pure ([], [])
  | b :: l => do
    let e := t.entry b
    let pos := (List.range b.count).map (fun k => (b.first + k, b.qstart + k))
    let (ps, src) ← attendRows h e { marks := none, globs := [] } 1 q pos
    let rest ← mixedRows h t q w l
    pure (ps.mapIdx (fun k p => (b.first * t.heads + k, finishRow w p.1, p.2)) ++ rest.1, src ++ rest.2)

/-- The rows that a pinned ATTEND.MIXED gives one core: its consecutive block (R179, R189). -/
def mixedFrom (h : Here) (rows : Nat) : Nat := match h.pin with
  | some (p, _, _) => p * rows
  | none => 0

/-- ATTEND.MIXED (R189). -/
def doAttendMixed (h : Here) : Act Unit := do
  need (h.w.form == 0) cForm 0
  need (h.w.imm == 0) cReserved 0
  let t ← tableAt h 1 true
  let qo ← opnd h 0 false
  let qd ← dimsOf h qo
  let rows ← queryRows h qo qd t.d t.heads
  let out ← rowOut h h.w.c 2 [fFp16, fFp32] [t.d, t.heads, rows]
  let lse ← lseOut h t.heads rows
  let all ← batchOf h t
  let s ← get
  let named := if h.pin.isNone then 1 else (targets { h with pin := none }).length
  need (batchOk (rows * named) all && batchFits (batchesTo h s)) cDesc 1
  let bs := batchPart (mixedFrom h rows) rows all
  let q ← fetchSome h qo qd (batchSel rows (t.d * t.heads) bs)
  let rs ← mixedRows h t q (out.1.fmt == fFp32) bs
  writeRows h t rows out lse rs.1
  attendDone h (q.elems ++ rs.2) (rs.1.map (fun x => x.2.2))

/-! ## ATTEND.BWD (R186 to R188) -/

/-- One admitted pair as the backward pass sees it (R187): page position, probability, score gradient. -/
structure Pair where
  row  : Nat
  head : Nat
  key  : Nat
  p    : Fp
  ds   : Fp
  tag  : Nat
  deriving DecidableEq, Repr

/-- P of R187. Where u is an infinity the manual states no value: a free one, the same wherever the sign is the same (R19, log entry 3). -/
def backProb (u : Fp) : Fp :=
  match u with
  | .nan => .nan
  | .inf neg => fpOf false (Config.infiniteProb neg).toNat
  | v => prob v 0

/-- The score gradients of one row, head and page as one SFP16 group: values and exponent (R75, R187). -/
def groupDs (l : List Fp) : List Fp × Int :=
  let vs := l.map (fun v => ({ v := v, live := true, inex := false, tag := 0 } : DrainVal))
  let e := dropExp vs
  (vs.map (fun v => fpOf false (dropTo false v (-e) none).bits), e)

/-- A sum over contraction indices that are mostly absent: the indices of each block of 32 that holds one, absent ones as exact zeros
(R67, R187). -/
def sparseSum (xs : List (Nat × Fp)) : Exa :=
  let blocks := (xs.map (fun x => x.1 / 32)).eraseDups
  (blocks.foldl (fun a b => (List.range 32).foldl (fun a k =>
    a.add (((xs.find? (fun x => x.1 == b * 32 + k)).map (·.2)).getD (.fin false 0 0))) a) (Acc.start (-128))).finish

/-- dP: the drained product of dO and v (R187). -/
def backDp (st : Start) (window : Bool) (g : List Factor) (v : List Fp) : Fp :=
  let e := prodElem st window none g (v.map (fun x => { Factor.zero with v := x }))
  fpOf true (drainElem true e.1 e.2.1 none).bits

/-- Whether an SFP16 operand is scaled along its rows (R60). -/
def Opnd.byRow (o : Opnd) : Bool := match o.loc with
  | .ten t => t.fmt != fSfp16 || t.axis == 0
  | .area _ => true

/-- An output of ATTEND.BWD with its shape (R186). -/
def gradOut (h : Here) (ix slot : Nat) (want : List Nat) : Act (Opnd × List Nat) := do
  let x ← rowOut h ix slot [fFp16, fFp32, fSfp16] want
  need x.1.byRow cFormat slot
  pure x

/-- ATTEND.BWD (R186 to R188). -/
def doAttendBwd (h : Here) : Act Unit := do
  need (h.w.form == 0) cForm 0
  need (decide (h.w.imm < 2 ^ 32)) cReserved 0
  let t ← tableAt h 1 false
  let qo ← opnd h 0 false
  let qd ← dimsOf h qo
  let rows ← queryRows h qo qd t.d t.heads
  let named := (targets { h with pin := none }).length
  let place := match h.pin with | some (p, _, _) => p | none => 0
  let last := t.qstart + rows * (if h.pin.isNone then 1 else named)
  need (decide (last ≤ maxPos)) cDesc 1
  let dq ← gradOut h h.w.c 2 [t.d, t.heads, rows]
  let go ← opndAt h h.w.mod 3 false
  need ((go.fmt == fFp16 || go.fmt == fSfp16) && go.byRow) cFormat 3
  let gd ← dimsOf h go
  needRows h go gd [t.d, t.heads, rows]
  let so ← opndAt h (h.w.imm % 2 ^ 16) 3 false
  need (so.fmt == fFp32) cFormat 3
  let sd ← dimsOf h so
  needRows h so sd [2, t.heads, rows]
  let kv ← gradOut h (h.w.imm / 2 ^ 16) 3 [t.d, t.kv, t.length, 2]
  let q ← fetch h qo
  let g ← fetch h go
  let st ← fetch h so
  let sg ← segsOf { h with pin := none } t (max t.length last) 1
  let root ← rootOf h t.root 1
  let qs := t.qstart + place * rows
  let lse := fun (r hq : Nat) => (st.vals[2 * (hq + t.heads * r)]?).getD .nan
  let keys := (List.range rows).map (fun r => (r, keysFor t sg (qs + r)))
  let gs := pageNos (keys.flatMap (·.2))
  let mut heads : List (List (Nat × Page × Page)) := []
  for k in List.range t.kv do
    let p ← pagesOf h t root 1 k gs
    heads := heads ++ [p]
  modify (fun s => { s with fresh := s.fresh + 1 })
  let base := fun (r hq : Nat) => t.d * (hq + t.heads * r)
  let part := fun {α : Type} (l : List α) (r hq : Nat) => (l.drop (base r hq)).take t.d
  let window := !(g.fmt != fSfp16 || (g.axis == 0 && decide (t.d ≤ g.group)))
  let start := if window then Start.auto else Start.fp16
  let gf := g.factors
  let page := fun (hq j : Nat) => (((heads[hq / t.group]?).getD []).find? (fun p => p.1 == j / 64)).map (·.2)
  let pairsOf := fun (r hq : Nat) (js : List Nat) =>
    js.filterMap (fun j =>
      match page hq j with
      | none => none
      | some (kp, vp) =>
        let sc := score (part q.vals r hq) ((kp.rows[j % 64]?).getD []) t.scale
        -- set aside by R177: −Inf, or finite and at most −2^24
        let aside := match sc with
          | .inf s => s
          | .fin s m e => s && !fpLt (.fin false m e) (.fin false 1 24)
          | .nan => false
        if aside then none else
        let p := backProb (sub32 sc (lse r hq))
        let dp := backDp start window (part gf r hq) ((vp.rows[j % 64]?).getD [])
        let ds := mul32 (mul32 p (sub32 dp ((st.vals[2 * (hq + t.heads * r) + 1]?).getD .nan))) t.gscale
        some ({ row := r, head := hq, key := j, p := p, ds := ds,
                tag := tagOr (tagOr kp.tag vp.tag) (tagOr (tagAll (part q.tags r hq)) (tagAll (part g.tags r hq))) } : Pair))
  -- each page of a row and head is one scale group
  let all := keys.flatMap (fun rk => (List.range t.heads).flatMap (fun hq =>
    if lse rk.1 hq = .inf true then [] else
    let ps := pairsOf rk.1 hq rk.2
    (pageNos (ps.map (·.key))).flatMap (fun pg =>
      let mine := ps.filter (fun p => p.key / 64 == pg)
      let d := groupDs (mine.map (·.ds))
      (mine.zip d.1).map (fun x => (x.1, fpScale x.2 d.2)))))
  let kRow := fun (p : Pair) => match page p.head p.key with | some (kp, _) => (kp.rows[p.key % 64]?).getD [] | none => []
  let dqs := (List.range rows).flatMap (fun r => (List.range t.heads).flatMap (fun hq =>
    let mine := all.filter (fun x => x.1.row == r && x.1.head == hq)
    (List.range t.d).map (fun d =>
      (if mine.isEmpty then Exa.cleared (-128) else sparseSum (mine.map (fun x => (x.1.key, fpMul x.2 (((kRow x.1)[d]?).getD .nan)))),
       tagAll (mine.map (fun x => x.1.tag))))))
  let kvs := [false, true].flatMap (fun value => (List.range t.length).flatMap (fun j => (List.range t.kv).flatMap (fun hd =>
    let mine := all.filter (fun x => x.1.key == j && x.1.head / t.group == hd)
    (List.range t.d).map (fun d =>
      (if mine.isEmpty then Exa.cleared (-128) else sparseSum (mine.map (fun x =>
        let ix := (x.1.row + place * rows) * t.group + x.1.head % t.group
        if value then
          let f := ((part gf x.1.row x.1.head)[d]?).getD Factor.zero
          (ix, fpScale (fpMul x.1.p f.v) f.e)
        else (ix, fpMul x.2 (((part q.vals x.1.row x.1.head)[d]?).getD .nan)))),
       tagAll (mine.map (fun x => x.1.tag)))))))
  storeWords h dq.1 dq.2 dqs
  storeWords h kv.1 kv.2 kvs
  attendDone h (q.elems ++ g.elems ++ st.elems ++ rawPages heads ++ keys.flatMap (·.2)) (q.tags ++ g.tags ++ dqs.map (·.2))

/-! ## Fills (R125, R159) -/

/-- The rows that a skipped ATTEND.MIXED would have written, when its batch can be read (R189). -/
def mixedSel (h : Here) : Act (Table × Nat × List Batch) := do
  let t ← tableAt h 1 true
  let qo ← opnd h 0 false
  let qd ← dimsOf h qo
  let rows ← queryRows h qo qd t.d t.heads
  let bs ← batchOf h t
  pure (t, rows, batchPart (mixedFrom h rows) rows bs)

/-- The fill of selected rows of one output. -/
def fillSel (h : Here) (ix slot per : Nat) (rows : Nat) (bs : List Batch) : Act Unit := do
  let o ← opndAt h ix slot true
  let dims ← dimsOf h o
  let n := volume dims
  if n = rows * per then
    storeSome h o (batchSel rows per bs) (Arr.of o.fmt dims (List.replicate n (fillCode o.fmt)) (List.replicate n tagSkip))
  else fillOpnd h o dims

/-- The fill of a skipped ATTEND: its outputs, and its accumulators, are left unwritten (R125, R159). -/
def attendFill (h : Here) : Act Unit := fun s =>
  let mixed := if h.w.op = 0x102 then (match mixedSel h s with | .ok (x, _) => some x | .error _ => none) else none
  let quiet := fun (a : Act Unit) (s : State) => match a s with | .ok (_, t) => t | .error _ => s
  let s := match mixed with
    | some (t, rows, bs) =>
      let s := quiet (fillSel h h.w.c 2 (t.d * t.heads) rows bs) s
      if h.w.mod = noDesc then s else quiet (fillSel h h.w.mod 3 t.heads rows bs) s
    | none =>
      let s := quiet (fillOut h) s
      if h.w.op = 0x101 then quiet (fillAt h (h.w.imm / 2 ^ 16) 3 []) s
      else if h.w.mod = noDesc || h.w.form = 1 || h.w.form = 2 then s
      else quiet (fillAt h h.w.mod 3 []) s
  productFill h s

/-- ATTEND.FWD (R174 to R180). -/
def execAttendFwd (c i : Nat) (s : State) : Host.Outcome State Fault Refusal :=
  onUnit (clusterOk c) "cluster" s (runWord (fun w => w.op == 0x100) .either doAttendFwd attendFill c i s)

/-- ATTEND.BWD (R186 to R188). -/
def execAttendBwd (c i : Nat) (s : State) : Host.Outcome State Fault Refusal :=
  onUnit (clusterOk c) "cluster" s (runWord (fun w => w.op == 0x101) .either doAttendBwd attendFill c i s)

/-- ATTEND.MIXED (R189). -/
def execAttendMixed (c i : Nat) (s : State) : Host.Outcome State Fault Refusal :=
  onUnit (clusterOk c) "cluster" s (runWord (fun w => w.op == 0x102) .either doAttendMixed attendFill c i s)

/-! ## SCATTER_KV (R183 to R185) -/

/-- The positions that a SLOT_MAP gives its rows (R183). -/
def slotsOf (h : Here) : Act (List Int) := do
  let d ← descOf h h.w.b 1
  need (num d 0 1 == dtSlotMap) cType 1
  match pickArg h.args (num d 2 1) (num d 4 4), pickArg h.args (num d 3 1) (num d 8 4) with
  | some n, some start => do
    need (decide (num d 1 1 < 2) && allZero (sub d 12 4) && allZero (sub d 24 104) && decide (n ≤ maxPos)) cDesc 1
    if num d 1 1 = 0 then pure ((List.range n).map (fun k => Int.ofNat (start + k)))
    else do
      let b ← readBytes h 1 (num d 16 8) (4 * n)
      pure ((List.range n).map (fun k => sext 32 (num b.1 (4 * k) 4)))
  | _, _ => skip cDesc 1

/-- Where one row, head and kind goes: row t, head, kind, and the space and offset of the position in its page, if its entry is
accepted (R168, R184). -/
def placeOf (h : Here) (t : Table) (root : Nat × Nat) (p row head kind : Nat) : Act (Nat × Nat × Nat × Option (Nat × Nat)) := do
  match ← entryOf h t root (p / 64) head kind with
  | none => pure (row, head, kind, none)
  | some (sp, off) => do
    let _ ← walkBytes h true sp off (128 * t.d)
    pure (row, head, kind, some (sp, off + 2 * t.d * (p % 64)))

/-- The kinds that each form writes (R184). -/
def scatterKinds (form : Nat) : List Nat := match form with
  | 0 => [0] | 1 => [1] | _ => [0, 1]

/-- Every destination: the highest row of each position (R184). -/
def placesOf (h : Here) (t : Table) (root : Nat × Nat) (pos : List Int) : Act (List (Nat × Nat × Nat × Option (Nat × Nat))) := do
  let rows := pos.mapIdx (fun k p => (k, p))
  let last := rows.filter (fun x => decide (0 ≤ x.2) && decide (x.2 < Int.ofNat maxPos) && !rows.any (fun y => y.2 == x.2 && decide (x.1 < y.1)))
  let mut out : List (Nat × Nat × Nat × Option (Nat × Nat)) := []
  for x in last do
    for hd in List.range t.kv do
      for k in scatterKinds h.w.form do
        let p ← placeOf h t root x.2.toNat x.1 hd k
        out := out ++ [p]
  pure out

/-- The PAGE_TABLE of a scatter, which names no query rows (R171, R184). -/
def scatterTable (h : Here) : Act Table := do
  let t ← tableAt h 2 false
  need (decide (t.qstart ≤ maxPos)) cDesc 1
  let _ ← sideTens h t (max t.length t.qstart) 2
  pure t

/-- Bytes held for the pages until the commit (R185), and the tags of their granules (R123). -/
def holdScatter (h : Here) (cells : List (Nat × Nat)) (tags : List (Nat × Nat)) : Act Unit :=
  putRun h (fun r => { r with scatter := cells.foldl (fun l c => kvSet l c.1 (BitVec.ofNat 8 c.2)) r.scatter,
                              scatterTags := tags.foldl (fun l g => kvSet l g.1 (BitVec.ofNat 2 g.2)) r.scatterTags })

/-- SCATTER_KV (R184, R185). -/
def doScatter (h : Here) : Act Unit := do
  need (decide (h.w.form < 3)) cForm 0
  needFields h 0 0
  let t ← scatterTable h
  need (h.cmd.outs.contains h.w.c) cNotOut 2
  let pos ← slotsOf h
  let o ← opnd h 0 false
  need (o.fmt == fFp16) cFormat 0
  let d ← dimsOf h o
  needShape d (if h.w.form = 2 then [t.d, t.kv, pos.length, 2] else [t.d, t.kv, pos.length])
  let a ← fetch h o
  let root ← rootOf h t.root 2
  if pos.isEmpty then pure () else
    let ps ← placesOf h t root pos
    need (pos.all (fun p => p == -1 || (decide (0 ≤ p) && decide (p < Int.ofNat maxPos)))) cDesc 1
    need (ps.all (fun p => p.2.2.2.isSome)) cDesc (walkFault 1 2)
    let kindIx := fun (k : Nat) => if h.w.form = 2 then k else 0
    let cells := ps.flatMap (fun p =>
      match p.2.2.2 with
      | none => []
      | some (sp, off) =>
        let base := t.d * (p.2.1 + t.kv * (p.1 + pos.length * kindIx p.2.2.1))
        (List.range t.d).flatMap (fun k =>
          let n := (a.elems[base + k]?).getD 0
          [(memKey sp off + 2 * k, n % 256), (memKey sp off + 2 * k + 1, n / 256)]))
    let tags := ps.flatMap (fun p =>
      match p.2.2.2 with
      | none => []
      | some (sp, off) =>
        let base := t.d * (p.2.1 + t.kv * (p.1 + pos.length * kindIx p.2.2.1))
        (List.range (t.d / 16)).map (fun g => (memKey sp off / 32 + g, tagAll ((a.tags.drop (base + 16 * g)).take 16))))
    holdScatter h cells tags

/-- The fill of a skipped SCATTER_KV: canonical NaN into every destination whose entry is accepted (R184). An accepted page outside the
partition fails the command here too (R168). -/
def scatterFill (h : Here) : Act Unit := do
  if h.w.form ≥ 3 then pure () else
    let t ← scatterTable h
    let pos ← slotsOf h
    let root ← rootOf h t.root 2
    let ps ← placesOf h t root pos
    let okd := ps.filterMap (fun p => p.2.2.2)
    holdScatter h (okd.flatMap (fun p => (List.range t.d).flatMap (fun k =>
        [(memKey p.1 p.2 + 2 * k, 0x00), (memKey p.1 p.2 + 2 * k + 1, 0x7E)])))
      (okd.flatMap (fun p => (List.range (t.d / 16)).map (fun g => (memKey p.1 p.2 / 32 + g, tagSkip))))

/-- SCATTER_KV (R183 to R185). -/
def execScatterKv (c i : Nat) (s : State) : Host.Outcome State Fault Refusal :=
  onUnit (clusterOk c) "cluster" s (runWord (fun w => w.op == 0x140) .either doScatter scatterFill c i s)

/-! ## Roots read when the command starts (R163) -/

/-- The root addresses of the words of a command in their order; of an ATTEND.MIXED, those of its batch entries (R163, R189). -/
def rootsOf (h : Here) (s : State) : List Nat :=
  (List.range h.cmd.count).flatMap (fun k =>
    let w := wordAt h.prog (h.cmd.first + k)
    let hw := { h with w := w }
    let ix := if w.op = 0x140 then w.c else w.b
    let d := descAt h.prog ix
    if w.op = 0x102 then
      match (do let t ← tableAt hw 1 true; batchOf hw t) s with
      | .ok (bs, _) => bs.map (·.root)
      | .error _ => []
    else if !((w.op == 0x100 && decide (w.form < 2)) || w.op == 0x101 || w.op == 0x140) || decide (ix ≥ hDescCount h.prog) || num d 0 1 != dtPages then []
    else match parseTable d h.args false with
      | some t => [t.root]
      | none => [])

/-- The roots that a command names, read once as it starts; one in near memory outside the partition fails the command (R163, R166, R327). -/
def readRoots (h : Here) (s : State) : State :=
  ((rootsOf h s).eraseDups).foldl (fun s root =>
    let a := BitVec.ofNat 64 root
    if gPkg a = s.sec.pkg && gSpace a == 0 && gOff a % 8 == 0 then
      match walkWord h false (gOff a) s with
      | .ok (_, t) => t
      | .error e => s.halted ((s.runOf h.lead).getD Run.blank) State.failRun e
    else s) s

end Sys2Proof.Machine
end

