-- ==== Sys2Proof/Machine/Leases.lean ====
section
/-! DEFINITION. Shard leases (R235 to R245): the LEASE instructions, the home's lease table, requests and replies between them, what a
commit, a failure and a teardown do to them, and the shard registers. -/

namespace Sys2Proof.Machine

/-! ## SHARD descriptors (R236, R237) -/

/-- A SHARD descriptor with its arguments bound. -/
structure ShardArgs where
  home   : Nat
  bytes  : Nat
  step   : Nat
  ticket : Nat
  deriving DecidableEq, Repr

/-- A SHARD descriptor checked by R236; none where it is inconsistent. -/
def parseShard (d : Bytes) (args : List Nat) : Option ShardArgs := do
  let ticket ← pickPair args (num d 1 1) (num d 16 8)
  let home := num d 8 8
  let bytes := num d 4 4
  if num d 2 1 > 7 || num d 3 1 != 0 || !allZero (sub d 24 104) || home / 2 ^ 48 % 8 != 0 || decide (home % 2 ^ 48 + bytes > 2 ^ 48)
      || ticket % 32 != 0 then none
  else some { home := home, bytes := bytes, step := (args[num d 2 1]?).getD 0, ticket := ticket }

/-- The 32 bytes of a ticket (R237). -/
def ticketBytes (u : LeaseUse) : Bytes :=
  leBytes 8 u.version.toNat ++ leBytes 6 u.step ++ leBytes 2 0 ++ leBytes 6 u.written ++ leBytes 2 0 ++ leBytes 8 u.stamp.toNat

/-! ## The home (R239, R243) -/

/-- The acting entry of a hub that holds a whole home region; none where it crosses entries or lies in none (R239). -/
def State.shardFor (s : State) (hub off n : Nat) : Option Shard :=
  s.shards.find? (fun e => e.hub == hub && s.shardActs e && decide (e.lo ≤ off) && decide (off + n ≤ e.hi))

/-- The state with one shard-table entry changed. -/
def State.setShard (s : State) (e : Shard) (f : Shard → Shard) : State :=
  { s with shards := s.shards.map (fun x => if x.hub == e.hub && x.s == e.s then f x else x) }

/-- Whether a read entry belongs to the holder and step of a request. -/
def holdsEntry (r : LeaseReq) (e : Shard) (x : Reader) : Bool :=
  x.hub == e.hub && x.s == e.s && x.pkg == r.pkg && x.ctx == r.ctx && x.step == r.step

/-- A comparison that failed (R244). -/
def State.staleSeen (s : State) (hub : Nat) : State := s.setBits (dieAt hub) .morLeaseStatus 0x20000

/-- What a grant tells (R237). -/
def State.grantOf (s : State) (e : Shard) : LeaseOutcome := .granted e.version e.written (s.dieNow e.hub)

/-- VERSION and step compared with the ticket (R238). -/
def leaseCompare (s : State) (e : Shard) (r : LeaseReq) : State × Option LeaseOutcome :=
  if e.version = r.version ∧ r.tstep = r.step then (s, some (s.grantOf e)) else (s.staleSeen e.hub, some .stale)

/-- A take on its acting entry (R239, R243): granted, failed, or left waiting. -/
def leaseTake (s : State) (e : Shard) (r : LeaseReq) : State × Option LeaseOutcome :=
  let answer := fun (s : State) => if r.op = .takeCompare then leaseCompare s e r else (s, some (s.grantOf e))
  if r.op = .takeWrite then
    if e.written ≥ r.step then (s.staleSeen e.hub, some .stale)
    else if e.intent.isSome && e.intent != some (r.pkg, r.ctx, r.step) then (s, none)
    else
      let s := s.setShard e (fun x => { x with intent := some (r.pkg, r.ctx, r.step) })
      if e.written + 1 = r.step && !(s.readers.any (fun x => x.hub == e.hub && x.s == e.s)) then (s, some (s.grantOf e)) else (s, none)
  else if s.readers.any (holdsEntry r e) then answer s
  else if e.written ≥ r.step then (s.staleSeen e.hub, some .stale)
  else if e.written + 1 ≠ r.step ∨ e.intent.isSome then (s, none)
  else if (s.readers.filter (fun x => x.hub == e.hub)).length ≥ 16384 then (s.setBits (dieAt e.hub) .morLeaseStatus 0x10000, none)
  else answer { s with readers := s.readers ++ [{ hub := e.hub, s := e.s, pkg := r.pkg, ctx := r.ctx, step := r.step }] }

/-- A request as its home hub examines it: its outcome, or none while it waits (R239). A release ends a take of its holder and step that
still waits, so that a teardown leaves none behind (R242, log entry 102). -/
def leaseExamine (s : State) (hub : Nat) (r : LeaseReq) : State × Option LeaseOutcome :=
  let here := gPkg r.home == s.sec.pkg && gSpace r.home == 0
  match (if here then s.shardFor hub (gOff r.home) r.bytes else none) with
  | none => (s, some (if r.op = .release then .done else .denied))
  | some e =>
    match r.op with
    | .release =>
      ({ s with readers := s.readers.filter (fun x => !holdsEntry r e x)
                waits := s.waits.filter (fun w => !(w.hub == hub && w.req.pkg == r.pkg && w.req.ctx == r.ctx && w.req.home == r.home
                  && w.req.step == r.step && w.req.op != .takeWrite)) }, some .done)
    | .check => if fld e.cfg 16 16 ≠ r.job.toNat then (s, some .denied) else leaseCompare s e r
    | _ =>
      if fld e.cfg 16 16 ≠ r.job.toNat ∨ (r.op = .takeWrite ∧ ¬(r.pkg = s.sec.pkg ∧ r.ctx = fld e.cfg 1 6)) then (s, some .denied)
      else leaseTake s e r

/-- The reply to a request (R238). -/
def State.leaseAnswer (s : State) (hub : Nat) (r : LeaseReq) (o : LeaseOutcome) : State :=
  s.sendTo hub (s.packet r.pkg 6 r.job (.leaseReply r.tag o))

/-- A request that has passed the ingress check: a take replaces an earlier one of its holder that still waits (R242), and waits itself
unless it has an outcome (R239). -/
def leaseServe (s : State) (hub : Nat) (r : LeaseReq) : State :=
  let s : State := { s with waits := s.waits.filter (fun w => !(w.hub == hub && w.req.pkg == r.pkg && w.req.ctx == r.ctx
    && w.req.home == r.home && w.req.op == r.op && w.req.step == r.step)) }
  match leaseExamine s hub r with
  | (s, some o) => s.leaseAnswer hub r o
  | (s, none) => { s with waits := s.waits ++ [{ hub := hub, req := r, since := s.plumb.now }] }

/-- A LEASE_REQUEST reaches its home hub (R238, R239): the authenticated origin, then the permit table, whose denials are counted (R54),
then the shard table. One of this package's own comes over the die-to-die links. -/
def leaseRequestAt (hub origin : Nat) (r : LeaseReq) (s : State) : State :=
    match (if origin = s.sec.pkg then s.takeLocal (.leaseRequest r) else some s) with
    | none => s
    | some s =>
      if r.pkg = origin ∧ s.mayRecv hub r.job origin then leaseServe s hub r else (s.countUnit hub 2).leaseAnswer hub r .denied

/-- LEASE_REQUEST. -/
def execLeaseRequest (hub origin : Nat) (r : LeaseReq) (s : State) : Host.Outcome State Fault Refusal := onUnit (hubOk hub) "hub" s (leaseRequestAt hub origin r s)

/-- A waiting take whose conditions have come to hold is answered (R239). -/
def execLeaseGrant (hub tag : Nat) (s : State) : Host.Outcome State Fault Refusal :=
  onUnit (hubOk hub) "hub" s <|
    match s.waits.find? (fun w => w.hub == hub && w.req.tag == tag && (leaseExamine s hub w.req).2.isSome) with
    | none => s
    | some w =>
      match leaseExamine { s with waits := s.waits.filter (· != w) } hub w.req with
      | (s, some o) => s.leaseAnswer hub w.req o
      | (s, none) => s

/-- Waiting write takes set their intents where none is pending any more, the oldest first (R239): an entry holds one intent at a time. -/
def State.passIntent (s : State) (may : LeaseReq → Bool) : State :=
  (s.waits.filter (fun w => w.req.op == .takeWrite && may w.req)).foldl (fun s w =>
    match s.shardFor w.hub (gOff w.req.home) w.req.bytes with
    | some e => if e.intent.isNone && decide (e.written < w.req.step)
        then s.setShard e (fun x => { x with intent := some (w.req.pkg, w.req.ctx, w.req.step) }) else s
    | none => s) s

/-- The intent of a holder cleared at an entry that holds a region. -/
def State.clearIntent (s : State) (hub : Nat) (home : BitVec 64) (bytes pkg ctx step : Nat) : State :=
  match s.shardFor hub (gOff home) bytes with
  | none => s
  | some e => (s.setShard e (fun x => if x.intent == some (pkg, ctx, step) then { x with intent := none } else x)).passIntent (fun _ => true)

/-- A take that has waited longer than MOR_LEASE_CFG.TIMEOUT fails, and the intent it set is cleared (R243). -/
def execLeaseTimeout (hub tag : Nat) (s : State) : Host.Outcome State Fault Refusal :=
  onUnit (hubOk hub) "hub" s <|
    match s.waits.find? (fun w => w.hub == hub && w.req.tag == tag && s.elapsed w.since (s.cfg (dieAt hub) .morLeaseCfg 0 32)) with
    | none => s
    | some w =>
      let s : State := { s with waits := s.waits.filter (· != w) }
      let s := if w.req.op = .takeWrite then s.clearIntent hub w.req.home w.req.bytes w.req.pkg w.req.ctx w.req.step else s
      s.leaseAnswer hub w.req .timeout

/-! ## The sender -/

/-- The request of a lease use (R238). -/
def State.leaseAsk (s : State) (r : Run) (u : LeaseUse) (op : LeaseOp) (tstep : Nat) : Nat × State :=
  let (tag, s) := s.newTag
  let job := ((s.ctxs[r.ctx]?).map (·.job)).getD 0#16
  let q : LeaseReq := { op := op, pkg := s.sec.pkg, ctx := r.ctx, job := job, home := u.home, bytes := u.bytes, step := u.step,
                        version := u.version, tstep := tstep, tag := tag }
  let far := gPkg u.home != s.sec.pkg
  let s : State := if far && (op == .takeRead || op == .takeCompare)
    then { s with leased := { ctx := r.ctx, home := u.home, bytes := u.bytes, step := u.step } :: s.leased } else s
  (tag, s.sendTo (servingHub (r.lead / 8)) (s.packet (gPkg u.home) 6 job (.leaseRequest q)))

/-- The highest FORM of each LEASE opcode (R238). -/
def leaseForms (op : Nat) : Nat := if op = 0x340 then 2 else 0

/-- The kind of a LEASE word (R238). -/
def leaseKind (w : Word128) : LeaseOp :=
  if w.op = 0x341 then .release else if w.op = 0x342 then .check
  else if w.form = 0 then .takeRead else if w.form = 1 then .takeCompare else .takeWrite

/-- Bytes of a ticket as its context may read them (R236): a ticket outside the context's partition fails the command. -/
def ticketAt (h : Here) (a : Nat) (wr : Bool) : Act Bytes := do
  let s ← get
  let r ← getRun h
  let v := BitVec.ofNat 64 a
  if gPkg v = s.sec.pkg ∧ s.allowed false (s.ctxPart r.ctx) wr (gSpace v) (gOff v) 32 then
    pure ((List.range 32).map (fun i => BitVec.ofNat 8 (s.byteFor r (memKey (gSpace v) (gOff v + i)))))
  else halt (Stop.fail stPartition (some (gSpace v, gOff v)))

/-- The checks of a LEASE word at its first execution, the use it makes, and the step of the ticket it compares with; none for a shard
of no bytes (R236, R238). -/
def leaseBegin (h : Here) : Act (Option (LeaseUse × Nat)) := do
  need (h.w.lc / 2 ^ hCores h.prog == 0) cLcores 0
  need (decide (h.w.form ≤ leaseForms h.w.op)) cForm 0
  needFields h 0 0
  needNone h 1
  needNone h 2
  let d ← descOf h h.w.a 0
  need (num d 0 1 == dtShard) cType 0
  match parseShard d h.args with
  | none => skip cDesc 0
  | some a => do
    let k := leaseKind h.w
    need (k != .takeRead || h.cmd.outs.contains h.w.a) cNotOut 0
    if a.bytes = 0 then pure none else do
      let t ← if k = .takeRead then ticketAt h a.ticket true
              else if k = .takeCompare || k = .check then ticketAt h a.ticket false else pure []
      let cmp := k == .takeCompare || k == .check
      pure (some ({ index := h.w.ix, desc := h.w.a, op := k, tag := 0, home := BitVec.ofNat 64 a.home, bytes := a.bytes, step := a.step,
                    ticket := BitVec.ofNat 64 a.ticket, phase := if k = .release then .held else .asked,
                    version := if cmp then BitVec.ofNat 64 (num t 0 8) else 0#64, written := 0, stamp := 0#64, since := 0#64 }, num t 8 6))

/-- The region that a skipped take bars (R240). -/
def leaseBar (h : Here) (s : State) : State :=
  let d := descAt h.prog h.w.a
  if h.w.op = 0x340 ∧ h.w.a < hDescCount h.prog ∧ num d 0 1 = dtShard then
    let u : LeaseUse := { index := h.w.ix, desc := h.w.a, op := leaseKind h.w, tag := 0, home := BitVec.ofNat 64 (num d 8 8),
                          bytes := num d 4 4, step := 0, ticket := 0#64, phase := .bar, version := 0#64, written := 0, stamp := 0#64, since := 0#64 }
    s.setRun h.lead (fun r => { r with leases := u :: r.leases })
  else s

/-- A lease instruction whose lease is held completes; a FORM 0 take holds its ticket with the command's outputs (R237, R241). -/
def leaseEnd (h : Here) (u : LeaseUse) (s : State) : State :=
  if u.op = .takeRead then
    let keys := range' (memKey (gSpace u.ticket) (gOff u.ticket)) 32
    match writeKeys h ((keys.zip (ticketBytes u)).map (fun x => (x.1, x.2.toNat, 0))) s with
    | .ok (_, t) => t.finish h.lead h.w.ix
    | .error e => s.halted ((s.runOf h.lead).getD Run.blank) State.failRun e
  else s.finish h.lead h.w.ix

/-- A LEASE instruction (R238): at first it sends its request, or for a RELEASE only notes it; it completes once its lease is held. -/
def leaseWord (is : Word128 → Bool) (lead i : Nat) (s : State) : State :=
  match s.runOf lead with
  | none => s
  | some r =>
    if !s.inFlight is lead i then s else
    let h := s.hereAt r i
    match r.leases.find? (fun u => u.index == i) with
    | some u => if u.phase = .asked then s else leaseEnd h u s
    | none =>
      match leaseBegin h s with
      | .ok (none, t) => t.finish lead i
      | .ok (some (u, tstep), t) =>
        if u.op = .release then (t.setRun lead (fun r => { r with leases := r.leases ++ [u] })).finish lead i
        else
          let (tag, t) := t.leaseAsk r u u.op tstep
          t.setRun lead (fun r => { r with
            leases := r.leases ++ [{ u with tag := tag, since := s.plumb.now }]
            takes := if u.op = .takeWrite then i :: r.takes else r.takes })
      | .error e =>
        match e.why with
        | .skip c d => (leaseBar h (logAt h c d s)).finish lead i
        | _ => s.halted r State.failRun e

/-- LEASE.TAKE form 0 (R238). -/
def execLeaseTakeRead (c i : Nat) (s : State) : Host.Outcome State Fault Refusal :=
  onUnit (clusterOk c) "cluster" s (leaseWord (fun w => w.op == 0x340 && (w.form == 0 || decide (3 ≤ w.form))) c i s)

/-- LEASE.TAKE form 1 (R238). -/
def execLeaseTakeCompare (c i : Nat) (s : State) : Host.Outcome State Fault Refusal :=
  onUnit (clusterOk c) "cluster" s (leaseWord (fun w => w.op == 0x340 && w.form == 1) c i s)

/-- LEASE.TAKE form 2 (R238). -/
def execLeaseTakeWrite (c i : Nat) (s : State) : Host.Outcome State Fault Refusal :=
  onUnit (clusterOk c) "cluster" s (leaseWord (fun w => w.op == 0x340 && w.form == 2) c i s)

/-- LEASE.RELEASE (R238). -/
def execLeaseRelease (c i : Nat) (s : State) : Host.Outcome State Fault Refusal :=
  onUnit (clusterOk c) "cluster" s (leaseWord (fun w => w.op == 0x341) c i s)

/-- LEASE.CHECK (R238). -/
def execLeaseCheck (c i : Nat) (s : State) : Host.Outcome State Fault Refusal :=
  onUnit (clusterOk c) "cluster" s (leaseWord (fun w => w.op == 0x342) c i s)

/-- The use that waits for a reply with a tag, and its command. -/
def State.leaseByTag (s : State) (tag : Nat) : Option (Run × LeaseUse) :=
  s.runs.findSome? (fun r => (r.leases.find? (fun u => u.tag == tag && (u.phase == .asked || u.phase == .checking || u.phase == .closing))).map
    (fun u => (r, u)))

/-- A lease use of a command changed. -/
def State.setLease (s : State) (lead index : Nat) (f : LeaseUse → LeaseUse) : State :=
  s.setRun lead (fun r => { r with leases := r.leases.map (fun u => if u.index == index && u.phase != .bar then f u else u) })

/-- The outcome of a request at its sender (R238, R239, R241, R243). -/
def leaseOutcome (s : State) (r : Run) (u : LeaseUse) (o : LeaseOutcome) : State :=
  match u.phase, o with
  | .asked, .granted v w t =>
    s.setLease r.lead u.index (fun u =>
      { u with phase := .held, version := if u.op = .takeRead then v else u.version, written := w, stamp := t })
  | .asked, .stale => s.failRun r stStale none
  | .asked, .timeout => s.failRun r stLease none
  | .asked, _ => s.failRun r stPermit none
  | .checking, .granted _ _ _ => s.setLease r.lead u.index (fun u => { u with phase := .checked })
  | .checking, _ => s.failRun r stStale none
  | .closing, _ => s.setLease r.lead u.index (fun u => { u with phase := .closed })
  | _, _ => s

/-- The requester receives the outcome of a lease request; one of this package's own homes comes over the die-to-die links (R238). -/
def leaseReplyAt (tag : Nat) (o : LeaseOutcome) (s : State) : State :=
    match s.leaseByTag tag with
    | none => (s.takeLocal (.leaseReply tag o)).getD s
    | some (r, u) =>
      match (if gPkg u.home = s.sec.pkg then s.takeLocal (.leaseReply tag o) else some s) with
      | none => s
      | some s => leaseOutcome s r u o

/-- LEASE_REPLY. -/
def execLeaseReply (tag : Nat) (o : LeaseOutcome) (s : State) : Host.Outcome State Fault Refusal := done s (leaseReplyAt tag o s)

/-! ## Commit, failure and teardown (R241, R242) -/

/-- Uses whose VERSION is compared at the commit. -/
def LeaseUse.compares (u : LeaseUse) : Bool := u.op == .takeRead || u.op == .takeCompare || u.op == .check

/-- One comparison of the commit begun (R241): at a home of this package at once, else by a request. -/
def leaseVerify (s : State) (r : Run) (u : LeaseUse) : State :=
  if gPkg u.home = s.sec.pkg then
    let hub := s.hubFor 0 (gOff u.home)
    match s.shardFor hub (gOff u.home) u.bytes with
    | some e => if e.version = u.version then s.setLease r.lead u.index (fun u => { u with phase := .checked })
                else (s.staleSeen hub).failRun r stStale none
    | none => (s.staleSeen hub).failRun r stStale none
  else
    let (tag, s) := s.leaseAsk r u .check u.step
    let now := s.plumb.now
    s.setLease r.lead u.index (fun u => { u with phase := .checking, tag := tag, since := now })

/-- The comparisons of a command's leases begun (R241). -/
def leaseChecks (s : State) (lead : Nat) : State :=
  match s.runOf lead with
  | none => s
  | some r => (r.leases.filter (fun u => u.compares && u.phase == .held)).foldl (fun s u => leaseVerify s r u) s

/-- Whether every comparison of a command has matched. -/
def Run.leasesChecked (r : Run) : Bool := r.leases.all (fun u => !u.compares || u.phase == .bar || u.phase == .checked)

/-- The releases of a command at homes in other packages begun (R241). -/
def leaseReleases (s : State) (lead : Nat) : State :=
  match s.runOf lead with
  | none => s
  | some r => (r.leases.filter (fun u => u.op == .release && u.phase == .held && gPkg u.home != s.sec.pkg)).foldl (fun s u =>
      let (tag, s) := s.leaseAsk r u .release u.step
      let s : State := { s with leased := s.leased.filter (fun l => !(l.ctx == r.ctx && l.home == u.home && l.step == u.step)) }
      let now := s.plumb.now
      s.setLease r.lead u.index (fun u => { u with phase := .closing, tag := tag, since := now })) s

/-- Whether every release at another package has been answered. -/
def Run.leasesClosed (r : Run) (pkg : Nat) : Bool :=
  r.leases.all (fun u => u.op != .release || u.phase == .bar || gPkg u.home == pkg || u.phase == .closed)

/-- The local releases and the write takes of a command at its commit: VERSION becomes the commit stamp, WRITTEN_STEP the lease step,
and the intent is cleared (R241). -/
def leaseCommit (s : State) (r : Run) (stamp : BitVec 64) : State :=
  let mine := r.leases.filter (fun u => u.phase != .bar && gPkg u.home == s.sec.pkg)
  let place := fun (s : State) (u : LeaseUse) => s.shardFor (s.hubFor 0 (gOff u.home)) (gOff u.home) u.bytes
  let s := (mine.filter (fun u => u.op == .release)).foldl (fun (s : State) u =>
    match place s u with
    | none => s
    | some e => { s with readers := s.readers.filter (fun x => !(x.hub == e.hub && x.s == e.s && x.pkg == s.sec.pkg && x.ctx == r.ctx
                                                               && x.step == u.step)) }) s
  ((mine.filter (fun u => u.op == .takeWrite)).foldl (fun (s : State) u =>
    match place s u with
    | none => s
    | some e => s.setShard e (fun x => { x with version := stamp, written := u.step, intent := none })) s).passIntent (fun _ => true)

/-- A failed command clears the write intents it set, in this run or one before it (R242). -/
def leaseFailed (s : State) (r : Run) : State :=
  let p := s.image r
  let cmd := cmdAt p r.cmd
  let args := r.args.map (·.toNat)
  (List.range cmd.count).foldl (fun (s : State) k =>
    let w := wordAt p (cmd.first + k)
    if r.takes.contains w.ix ∧ w.a < hDescCount p then
      match parseShard (descAt p w.a) args with
      | some a =>
        let home := BitVec.ofNat 64 a.home
        let hub := s.hubFor 0 (gOff home)
        let s : State := { s with waits := s.waits.filter (fun x => !(x.hub == hub && x.req.op == .takeWrite && x.req.pkg == s.sec.pkg
          && x.req.ctx == r.ctx && x.req.home == home && x.req.step == a.step)) }
        if gPkg home = s.sec.pkg then s.clearIntent hub home a.bytes s.sec.pkg r.ctx a.step else s
      | none => s
    else s) s

/-- Every read entry and write intent of a holder on a hub dropped (R242, R244). -/
def State.dropHolder (s : State) (hub pkg ctx : Nat) : State :=
  let s : State := { s with
    readers := s.readers.filter (fun x => !(x.hub == hub && x.pkg == pkg && x.ctx == ctx))
    shards := s.shards.map (fun x =>
      match x.intent with
      | some (p, c, _) => if x.hub == hub && p == pkg && c == ctx then { x with intent := none } else x
      | none => x) }
  s.passIntent (fun q => !(q.pkg == pkg && q.ctx == ctx))

/-- Teardown releases a context's leases at every home, in this package at once and in others by messages (R242). -/
def leaseTeardown (s : State) (ctx : Nat) : State :=
  let s : State := { s with waits := s.waits.filter (fun w => !(w.req.pkg == s.sec.pkg && w.req.ctx == ctx)) }
  let s := (s.dropHolder 8 s.sec.pkg ctx).dropHolder 9 s.sec.pkg ctx
  let r : Run := { Run.blank with ctx := ctx }
  let s := (s.leased.filter (fun l => l.ctx == ctx)).foldl (fun (s : State) l =>
    (s.leaseAsk r { index := 0, desc := 0, op := .release, tag := 0, home := l.home, bytes := l.bytes, step := l.step, ticket := 0#64,
                    phase := .closing, version := 0#64, written := 0, stamp := 0#64, since := 0#64 } .release l.step).2) s
  { s with leased := s.leased.filter (fun l => l.ctx != ctx) }

/-! ## The shard registers (R244) -/

/-- An entry of the shard table, invalid where none has been applied. -/
def State.shardAt (s : State) (hub n : Nat) : Shard :=
  (s.shards.find? (fun e => e.hub == hub && e.s == n)).getD
    { hub := hub, s := n, base := 0#64, size := 0#64, cfg := 0#64, stepSet := 0#64, version := 0#64, written := 0, intent := none }

/-- One entry of the shard-table group applied: refused for an entry in use, and a changed one takes the time of the apply as its
VERSION (R244). Every apply sets WRITTEN_STEP of an entry that is not in use to its starting value (log entry 103). -/
def shardApplyOne (hub : Nat) (s : State) (n : Nat) : State :=
  let b := dieAt hub
  let e := s.shardAt hub n
  let base := s.reg b (.morShardBase n)
  let size := s.reg b (.morShardSize n)
  let cfg := s.reg b (.morShardCfg n)
  let st := s.reg b (.morShardStep n)
  let same := base == e.base && size == e.size && cfg == e.cfg && fld st 0 48 == e.written
  if same && st == e.stepSet then s
  else if e.intent.isSome || s.readers.any (fun x => x.hub == hub && x.s == n) then s.setBits b .morLeaseStatus 0x40000
  else
    let new : Shard := { e with base := base, size := size, cfg := cfg, stepSet := st, version := if same then e.version else s.dieNow hub,
                                written := fld st 0 48 }
    { s with shards := s.shards.filter (fun x => !(x.hub == hub && x.s == n)) ++ [new] }

/-- MOR_SHARD_APPLY (R244). -/
def morShardApplyAt (hub : Nat) (s : State) : State :=
  (List.range 512).foldl (shardApplyOne hub) s

/-- MOR_SHARD_APPLY. -/
def execMorShardApply (hub : Nat) (s : State) : Host.Outcome State Fault Refusal := onUnit (hubOk hub) "hub" s (morShardApplyAt hub s)

/-- MOR_LEASE_DROP with GO: every read entry and write intent of a holder on this hub dropped (R244). -/
def morLeaseDropAt (hub : Nat) (v : BitVec 64) (s : State) : State :=
  if fld v 19 1 = 1 then s.dropHolder hub (fld v 0 13) (fld v 13 6) else s

/-- MOR_LEASE_DROP. -/
def execMorLeaseDrop (hub : Nat) (v : BitVec 64) (s : State) : Host.Outcome State Fault Refusal := onUnit (hubOk hub) "hub" s (morLeaseDropAt hub v s)

end Sys2Proof.Machine
end

