-- ==== Sys2Proof/Machine/Reduce.lean ====
section
/-! DEFINITION. REDUCE.SEND, REDUCE.READ and REDUCE.STATS (R249 to R253, R265, R268, R271). -/

namespace Sys2Proof.Machine

/-! ## REDUCTION descriptors (R249) -/

/-- A REDUCTION descriptor with its arguments bound: hub and index of the reduction apart. -/
structure RedArgs where
  mode    : Nat
  cut     : Nat
  every   : Nat
  red     : Nat
  target  : Nat
  source  : Nat
  window  : Nat
  micro   : Nat
  chunks  : Nat
  anchor  : Int
  local'  : Nat
  first   : Nat
  buf     : Nat
  room    : Nat
  deriving DecidableEq, Repr

/-- The hub and the index of a RED field (R249). -/
def RedArgs.hub (d : RedArgs) : Nat := 8 + d.red / 512 % 2
def RedArgs.r (d : RedArgs) : Nat := d.red % 512

/-- An argument-index field that takes 0 to 7 (R138). -/
def theArg (args : List Nat) (k : Nat) : Option Nat := if k < 8 then some ((args[k]?).getD 0) else none

/-- A REDUCTION descriptor checked by R249; none where it is inconsistent. -/
def parseRed (d : Bytes) (args : List Nat) : Option RedArgs := do
  let every := num d 3 1
  let window ← theArg args (num d 10 1)
  let micro ← if num d 11 1 = 0xFF then some 0 else theArg args (num d 11 1)
  let chunks ← pickArg args (num d 12 1) (num d 24 4)
  let source ← pickArg args (num d 13 1) (num d 8 2)
  let bad := num d 1 1 > 1 || num d 2 1 > 7 || every == 0 || num d 4 2 / 1024 != 0 || num d 6 2 > 8191 || source > 8191
    || chunks == 0 || decide (chunks > 2 ^ 20) || num d 15 1 != 0 || num d 32 8 % 64 != 0 || !allZero (sub d 44 84)
    || (every > 1 && (num d 11 1 == 0xFF || num d 16 8 == 0 || num d 14 1 == 0x80))
  if bad then none
  else some { mode := num d 1 1, cut := num d 2 1, every := every, red := num d 4 2, target := num d 6 2, source := source,
              window := window, micro := micro, chunks := chunks, anchor := sext 8 (num d 14 1), local' := num d 16 8,
              first := num d 28 4, buf := num d 32 8, room := num d 40 4 }

/-- The REDUCTION in slot B, or the skip of R159. -/
def redOf (h : Here) : Act RedArgs := do
  let d ← descOf h h.w.b 1
  need (num d 0 1 == dtReduction) cType 1
  match parseRed d h.args with
  | some r => pure r
  | none => skip cDesc 1

/-! ## Chunks (R250 to R252) -/

/-- Slots per chunk of a contribution format (R250). -/
def chunkSlots (f : Nat) : Nat := if f = fFp32 then 512 else if f = fExa then 128 else 1024

/-- The log2 of the group of a contribution, and its scales in slot order; 5 and none without scales. Groups must be whole within chunks
and run along the slots (R251). -/
def slotGroups (a : Arr) : Act (Nat × List Nat) :=
  if a.fmt ≠ fSfp16 then pure (5, []) else
    let lines := volume (a.dims.drop (a.axis + 1))
    let len := (a.dims[a.axis]?).getD 1
    let g := if lines = 1 ∧ len ≤ a.group then max 5 (len - 1).log2.succ else a.group.log2
    let ok := (a.dims.take a.axis).all (· == 1) && decide (g ≤ 10)
      && (lines == 1 && decide (len ≤ 2 ^ g) || 2 ^ g == a.group && (lines == 1 || len % 2 ^ g == 0))
    if ok then pure (g, a.scales) else skip cShape a.axis

/-- The bytes of elements in a format (R6, R134). -/
def elemBytes (f : Nat) (l : List Nat) : Bytes := l.flatMap (fun n => leBytes (elemSize f) n)

/-- The remote accumulate packets of a contribution: a chunk for each S slots from `first` (R250 to R252), with the OR of the tags of its
elements. -/
def packets (d : RedArgs) (job : BitVec 16) (origin fmt first lg : Nat) (elems tags scales : List Nat) : List (AccPacket × Nat) :=
  let S := chunkSlots fmt
  let es := chunks (elems.length + 1) S elems
  let ts := chunks (tags.length + 1) S tags
  (es.zip ts).mapIdx (fun i x =>
    let n := x.1.length
    let sc := if fmt = fSfp16 then (scales.drop (i * S / 2 ^ lg)).take (ceilDiv n (2 ^ lg)) else []
    ({ job := job, red := BitVec.ofNat 16 d.red, window := BitVec.ofNat 32 d.window, source := BitVec.ofNat 16 d.source,
       format := BitVec.ofNat 8 fmt, cls := BitVec.ofNat 8 (d.cut + (lg - 5) * 8), seq := BitVec.ofNat 32 (first / S + i),
       chunks := BitVec.ofNat 32 d.chunks, elements := BitVec.ofNat 16 n, origin := BitVec.ofNat 16 origin, stamp := 0#40,
       payload := elemBytes fmt x.1 ++ elemBytes fFp32 sc }, tagAll x.2))

/-- The 32 header bytes of a packet (R252). -/
def accHeader (p : AccPacket) : Bytes :=
  leBytes 2 p.job.toNat ++ leBytes 2 p.red.toNat ++ leBytes 4 p.window.toNat ++ leBytes 2 p.source.toNat ++ leBytes 1 p.format.toNat
    ++ leBytes 1 p.cls.toNat ++ leBytes 4 p.seq.toNat ++ leBytes 4 p.chunks.toNat ++ leBytes 2 p.elements.toNat
    ++ leBytes 2 p.origin.toNat ++ leBytes 5 p.stamp.toNat ++ leBytes 3 0

/-- Bytes of the context's own memory that an instruction writes by address (R249, R327): an address in another package or outside the
partition fails the command. -/
def ownKeys (h : Here) (a n : Nat) : Act (List Nat) := do
  let s ← get
  let r ← getRun h
  let v := BitVec.ofNat 64 a
  need (!leaseBarAt s h a n) cDesc 1
  if n = 0 then pure []
  else if gPkg v = s.sec.pkg ∧ s.allowed false (s.ctxPart r.ctx) true (gSpace v) (gOff v) n then
    pure (range' (memKey (gSpace v) (gOff v)) n)
  else halt (Stop.fail stPartition (some (gSpace v, gOff v)))

/-- A packet held for the commit (R253). -/
def addSend (h : Here) (d : RedArgs) (p : AccPacket) : Act Unit := fun s =>
  let (tag, s) := s.newTag
  let x : Send := { tag := tag, lead := h.lead, target := d.target, hub := d.hub, packet := p, since := 0#64, sentAt := 0#64,
                    retryAt := none, left := false, answer := none }
  .ok ((), { s with sends := s.sends ++ [x] })

/-- Packets written into the send buffer and held for the commit (R253): a buffer too small skips with DESCRIPTOR and DETAIL 2. -/
def holdSends (h : Here) (d : RedArgs) (ps : List (AccPacket × Nat)) : Act Unit := do
  let r ← getRun h
  let space := (gSpace (BitVec.ofNat 64 d.buf))
  let base := memKey space (gOff (BitVec.ofNat 64 d.buf))
  let used := ((r.sendBufs.filter (fun b => b.1 == base)).map (·.2)).foldl (· + ·) 0
  let bytes := ps.map (fun p => (accHeader p.1 ++ p.1.payload, p.2))
  let total := (bytes.map (fun b => b.1.length)).foldl (· + ·) 0
  need (decide (used + total ≤ d.room)) cDesc 2
  let _ ← ownKeys h (d.buf + used) total
  let cells := bytes.flatMap (fun b => b.1.map (fun x => (x.toNat, b.2)))
  writeKeys h (cells.mapIdx (fun i x => (base + used + i, x.1, x.2)))
  let lines := ((List.range (ceilDiv (used + total) 64)).map (fun i => base / 64 + i))
  putRun h (fun r => { r with sendBufs := (base, total) :: r.sendBufs,
                              hints := (lines.map (fun l => (l, 2))) ++ r.hints.filter (fun e => !lines.contains e.1) })
  for p in ps do
    addSend h d p.1

/-! ## The send interval (R268) -/

/-- The value that an element adds (R260): an exact word for EXA128, else its value. -/
def addElem (a : Acc) (fmt code : Nat) (v : Fp) : Acc := if fmt = fExa then a.addExa (exaOf code) else a.addValue v

/-- A stored word as a target with an anchor (R70). -/
def onAnchor (anchor : Int) (x : Exa) : Acc := if x.anchor = anchor then Acc.reload x else (Acc.start anchor).addExa x

/-- The LOCAL tensor of the command's outputs (R268): an EXA128 TENSOR at that address. -/
def localOut (h : Here) (d : RedArgs) : Act (Nat × Ten) :=
  let found := h.cmd.outs.findSome? (fun ix =>
    if ix < hDescCount h.prog ∧ num (descAt h.prog ix) 0 1 = dtTensor then
      match parseTen (descAt h.prog ix) h.args with
      | some t => if t.base = d.local' ∧ t.fmt = fExa ∧ t.access.testBit 2 then some (ix, t) else none
      | none => none
    else none)
  match found with
  | some x => pure x
  | none => skip cNotOut 1

/-- A contribution with INTERVAL above 1 (R268): added into LOCAL under its microstep; at the last microstep of N the words themselves, as
EXA128 or FP32 elements with their tags, with LOCAL cleared. -/
def localAdd (h : Here) (d : RedArgs) (a : Arr) : Act (Option (List Nat × List Nat)) := do
  let (ix, t) ← localOut h d
  need (volume t.dims == a.elems.length) cShape 0
  let hk ← ownKeys h (d.local' - 64) 64
  let hd ← readKeys h (hk.take 8)
  let m := d.micro
  let prev := (joinBytes hd).1
  if m = prev then pure none else do
    need (m == prev + 1 || m % d.every == 0) cDesc 3
    let old ← readTen h 1 t
    let words := (a.elems.zip (a.vals.zip old.elems)).map (fun x => (addElem (onAnchor d.anchor (exaOf x.2.2)) a.fmt x.1 x.2.1).finish)
    let tags := (a.tags.zip old.tags).map (fun x => tagOr x.1 x.2)
    let last := m % d.every == d.every - 1
    let put := if last then words.map (fun _ => exaNat (Exa.cleared d.anchor)) else words.map exaNat
    writeTen h 1 t (Arr.of fExa t.dims put (if last then tags.map (fun _ => 0) else tags))
    writeKeys h ((hk.zip (leBytes 8 m)).map (fun x => (x.1, x.2.toNat, 0)))
    bumpElements h ix put.length
    if last then
      let out := if d.mode = 0 then words.map exaNat else words.map (fun x => (drainElem true x 0 none).bits)
      pure (some (out, tags))
    else pure none

/-! ## The instructions -/

/-- The job a context's traffic carries (R256). -/
def State.ctxJob (s : State) (c : Nat) : BitVec 16 := ((s.ctxs[c]?).map (·.job)).getD 0#16

/-- REDUCE.SEND (R249 to R253, R268). -/
def doReduceSend (h : Here) : Act Unit := do
  need (h.w.form == 0) cForm 0
  needFields h 0 0xFFFFFFFF
  needNone h 2
  let d ← redOf h
  need (h.cmd.outs.contains h.w.b) cNotOut 1
  let o ← opnd h 0 false
  need (if d.mode = 0 then o.fmt == fFp16 || o.fmt == fSfp16 || o.fmt == fExa else o.fmt == fFp32) cFormat 0
  let first := d.first + h.w.imm % 2 ^ 32
  let fmt := if d.every > 1 then (if d.mode = 0 then fExa else fFp32) else o.fmt
  need (first % chunkSlots fmt == 0) cDesc 1
  let s ← get
  let r ← getRun h
  let job := s.ctxJob r.ctx
  let a ← fetch h o
  if d.every = 1 then
    let g ← slotGroups a
    holdSends h d (packets d job s.sec.pkg fmt first g.1 a.elems a.tags g.2)
  else
    let g ← localAdd h d a
    match g with
    | none => pure ()
    | some (es, ts) => holdSends h d (packets d job s.sec.pkg fmt first 5 es ts [])

/-- REDUCE.SEND (R250). -/
def execReduceSend (c i : Nat) (s : State) : Host.Outcome State Fault Refusal :=
  onUnit (clusterOk c) "cluster" s (runWord (fun w => w.op == 0x200) .either doReduceSend (fun _ => pure ()) c i s)

/-- A reduction's record; IDLE where it has none (R247). -/
def State.redAt (s : State) (hub r : Nat) : Red :=
  (s.reds.find? (fun x => x.hub == hub && x.r == r)).getD
    { hub := hub, r := r, st := .idle, window := 0#32, base := 0#64, size := 0#64, cfg := 0#64, win := 0#64, complete := [],
      sumSrc := Exa.cleared 0, nanCount := 0, elements := 0, record := none }

/-- The state with a reduction's record changed. -/
def State.setRed (s : State) (hub r : Nat) (f : Red → Red) : State :=
  { s with reds := s.reds.map (fun x => if x.hub == hub && x.r == r then f x else x) }

/-- The fields of the settings in force (R275). -/
def Red.arrival (x : Red) : Bool := fld x.cfg 1 1 == 1
def Red.homeCtx (x : Red) : Nat := fld x.cfg 2 6
def Red.job (x : Red) : Nat := fld x.cfg 16 16
def Red.sources (x : Red) : Nat := fld x.cfg 32 14
def Red.anchor (x : Red) : Int := sext 8 (fld x.cfg 48 8)
def Red.statAnchor (x : Red) : Int := sext 8 (fld x.cfg 56 8)
def Red.slots (x : Red) : Nat := fld x.size 0 26
def Red.slotBytes (x : Red) : Nat := if x.arrival then 4 else 16
def Red.area (x : Red) : Nat := fld x.base 21 27 * 2 ^ 21

/-- Whether window number `a` is earlier than `b` (R258). -/
def earlier (a b : BitVec 32) : Bool := decide ((a - b).toNat ≥ 2 ^ 31)

/-- Slots of an area as words or FP32 codes, with the mark of a poisoned line as BLOT (R6, R246, R318). -/
def State.slotsAt (s : State) (x : Red) (first n : Nat) : List Nat :=
  let sz := x.slotBytes
  let bs := s.load 0 (x.area + first * sz) (n * sz)
  (List.range n).map (fun i =>
    let v := num bs (i * sz) sz
    if !x.arrival && s.poisoned 0 (x.area + (first + i) * sz) sz then exaNat { exaOf v with blot := true } else v)

/-- Slots written back through the last-level memory with KEEP, at the time they reach the controller (R235, R248). -/
def State.putSlots (s : State) (x : Red) (first : Nat) (vs : List Nat) : State :=
  s.store mortarPart 2 0 (x.area + first * x.slotBytes) (vs.flatMap (fun v => leBytes x.slotBytes v)) (s.dieNow x.hub)

/-- The output of a REDUCE.READ or REDUCE.STATS: a TENSOR (R265, R271). -/
def readOut (h : Here) : Act (Opnd × Ten) := do
  let o ← opnd h 0 true
  match o.loc with
  | .ten t => pure (o, t)
  | .area _ => skip cType 0

/-- Exact slots converted by R72 to R77 into an output of drain format `form`. -/
def drainSlots (h : Here) (o : Opnd) (dims : List Nat) (form : Nat) (ws : List Exa) (us : List (Option Nat)) : Act Unit := do
  let tags := ws.map (fun x => if x.blot then tagParity else 0)
  if form = 4 then
    store h o (Arr.of fExa dims (ws.map exaNat) tags)
    bump h o (fun c => { c with elements := sat32 c.elements ws.length })
  else if form = 3 then
    let ps := ws.map (fun x => drainPair x 0)
    store h o (Arr.of fFp32 dims (ps.flatMap (fun q => [q.1.bits, q.2.bits])) (tags.flatMap (fun t => [t, t])))
    bumpRes h o (ps.map (·.1))
    bump h o (fun c => { c with elements := sat32 c.elements ps.length })
  else if form = 2 then
    let gr := o.grouping dims
    let xs := (groups dims gr.1 gr.2).zip ws
    let exps := (List.range (volume (groupDims dims gr.1 gr.2))).map (fun g =>
      groupExp ((xs.filter (fun x => x.1 == g)).filterMap (fun x =>
        if (settled false x.2).isNone then some (x.2.value.natAbs, x.2.anchor - 48) else none)))
    let rs := (xs.zip us).map (fun x => drainElem false x.1.2 (-((exps[x.1.1]?).getD 0)) x.2)
    store h o { fmt := fSfp16, dims := dims, elems := rs.map (·.bits), tags := tags, scales := exps.map scaleOf, axis := gr.1, group := gr.2 }
    bumpRes h o rs
  else storeRes h o dims ((ws.zip us).map (fun x => drainElem (form == 1) x.1 0 x.2)) tags

/-- An FP32 slot as FP16 (R89): a zero or an infinity keeps its sign. -/
def slotHalf (n : Nat) (u : Option Nat) : Res :=
  match fpOf true n with
  | .nan => Res.of (nanBits false)
  | .inf s => Res.of (infBits false s)
  | .fin s m e => if m = 0 then Res.of (zeroBits false s) else encode' false true s m e u

/-- REDUCE.READ (R265, R266). -/
def doReduceRead (h : Here) : Act Unit := do
  need (h.w.form == 0) cForm 0
  needFields h 0x1F 0xFFFFFFFF
  needNone h 2
  let form := h.w.mod % 8
  let stoch := h.w.mod.testBit 3
  let d ← redOf h
  let (o, t) ← readOut h
  let s ← get
  let r ← getRun h
  let x := s.redAt d.hub d.r
  let mine := d.target == s.sec.pkg && x.st != .idle && x.homeCtx == r.ctx
  let mode := d.mode
  need (!mine || b2n x.arrival == mode) cDesc 1
  need (decide (form < 5) && (mode == 0 || decide (form < 2)) && o.fmt == drainFmt form
    && (!stoch || form == 0 || (mode == 0 && form == 2))) cFormat 0
  let n := if form = 3 then t.dims.foldl (· * ·) 1 / 2 else volume t.dims
  need (form != 3 || t.dims.head? == some 2) cShape 0
  let us ← if stoch then do
      let key ← keyAt h h.cmd.rkey 0
      let l ← draws h key 0 o n
      pure (l.map some)
    else pure (List.replicate n none)
  if !mine then halt (Stop.fail stPermit none) else
  let w := BitVec.ofNat 32 d.window
  need (!earlier w x.window) cDesc 1
  if !(x.st = .closed && x.window == w) then hold else
  let first := d.first + h.w.imm % 2 ^ 32
  let have' := min n (x.slots - first)
  let vs := s.slotsAt x first have' ++ (List.range (n - have')).map (fun k => Config.freeNat (s.fresh + k) % 256 ^ x.slotBytes)
  modify (fun s => { s with fresh := s.fresh + (n - have') })
  if mode = 0 then drainSlots h o t.dims form (vs.map exaOf) us
  else storeRes h o t.dims ((vs.zip us).map (fun v => if form = 1 then Res.of v.1 else slotHalf v.1 v.2)) (vs.map (fun _ => 0))
  if h.w.mod.testBit 4 then putRun h (fun r => { r with reads := r.reads ++ [(d.hub, d.r, w)] }) else pure ()

/-- REDUCE.STATS (R271). -/
def doReduceStats (h : Here) : Act Unit := do
  need (h.w.form == 0) cForm 0
  needFields h 0 0
  needNone h 2
  let d ← redOf h
  let (o, t) ← readOut h
  need (o.fmt == fUint8) cFormat 0
  need (volume t.dims == 64) cShape 0
  let s ← get
  let r ← getRun h
  let x := s.redAt d.hub d.r
  if !(d.target = s.sec.pkg && x.st != .idle && x.job == (s.ctxJob r.ctx).toNat) then halt (Stop.fail stPermit none) else
  let w := BitVec.ofNat 32 d.window
  match x.record with
  | some (v, bs) =>
    if v = w then do
      store h o (Arr.of fUint8 t.dims ((sub bs 0 64).map (·.toNat)) (List.replicate 64 0))
      bump h o (fun c => { c with elements := sat32 c.elements 64 })
    else do
      need (!earlier w v) cDesc 1
      hold
  | none => do
    need (!earlier w x.window) cDesc 1
    hold

/-- A wait for a window begins when its instruction first finds it not closed, and ends with it (R254, R265, R271). -/
def markWait (lead i : Nat) (s : State) : State :=
  match s.runOf lead with
  | none => s
  | some r =>
    if r.failed.isNone && r.issued.any (fun x => x.index == i) then
      if r.mortarSince.isSome || s.asking lead then s
      else
        let h := s.hereAt r i
        s.setRun lead (fun r => { r with mortarSince := some (8 + num (descAt h.prog h.w.b) 4 2 / 512 % 2, s.plumb.now) })
    else s.setRun lead (fun r => { r with mortarSince := none })

/-- REDUCE.READ (R265). -/
def execReduceRead (c i : Nat) (s : State) : Host.Outcome State Fault Refusal :=
  onUnit (clusterOk c) "cluster" s <|
    if s.inFlight (fun w => w.op == 0x201) c i then markWait c i (runWord (fun w => w.op == 0x201) .either doReduceRead fillOut c i s) else s

/-- REDUCE.STATS (R271). -/
def execReduceStats (c i : Nat) (s : State) : Host.Outcome State Fault Refusal :=
  onUnit (clusterOk c) "cluster" s <|
    if s.inFlight (fun w => w.op == 0x202) c i then markWait c i (runWord (fun w => w.op == 0x202) .either doReduceStats fillOut c i s) else s

end Sys2Proof.Machine
end

