-- ==== Sys2Proof/Machine/Mortar.lean ====
section
/-! DEFINITION. The mortar units at the home of a reduction (R246 to R248, R256 to R264, R266, R267, R269, R270), the sender's side of
its replies (R253 to R255), and the mortar registers (R275, R276). -/

namespace Sys2Proof.Machine

/-! ## The sender (R253 to R255) -/

/-- A held packet transmitted (R252, R254). -/
def State.transmit (s : State) (x : Send) : State :=
  let hub := servingHub (x.lead / 8)
  let new := x.since == 0#64 && x.sentAt == 0#64
  let p := x.packet
  let y : Send := { x with since := if new then s.plumb.now else x.since, sentAt := s.plumb.now, retryAt := none }
  let s : State := { s with sends := s.sends.map (fun z => if z.tag == x.tag then y else z) }
  s.sendTo hub (s.packet x.target (p.cls.toNat % 8) p.job (.accumulate p))

/-- A command's held packets. -/
def State.sendsOf (s : State) (lead : Nat) : List Send := s.sends.filter (fun x => x.lead == lead)

/-- The send buffers written with KEEP and read back with LAST (R253, R321). -/
def State.flushBuf (s : State) (r : Run) (b : Nat × Nat) : State :=
  let keys := r.overlay.filter (fun c => decide (b.1 ≤ c.1) && decide (c.1 < b.1 + (r.sendBufs.filter (fun x => x.1 == b.1)).foldl (fun n x => n + x.2) 0))
  let bs := keys.map (·.2)
  let part := s.ctxPart r.ctx
  let s := s.store part 2 (b.1 / 2 ^ 48) (b.1 % 2 ^ 48) bs (s.dieNow (servingHub (r.lead / 8)))
  let s := s.readHint part 3 (b.1 / 2 ^ 48) (b.1 % 2 ^ 48) bs.length
  s.setRun r.lead (fun r => { r with overlay := r.overlay.filter (fun c => !(keys.any (fun k => k.1 == c.1))),
                                     outTags := r.outTags.filter (fun t => !(keys.any (fun k => k.1 / 32 == t.1))) })

/-- Step 4 of the commit begun (R253, R256): without a SEND permit the command fails and nothing is transmitted. -/
def State.beginSends (s : State) (r : Run) : State :=
  let mine := s.sendsOf r.lead
  let s := s.setRun r.lead (fun r => { r with sending := true })
  if mine.isEmpty then s
  else if !s.maySend (servingHub (r.lead / 8)) (s.ctxJob r.ctx) then s.failRun r stPermit none
  else
    let firsts := (r.sendBufs.map (·.1)).eraseDups
    let s := firsts.foldl (fun s b => s.flushBuf r (b, 0)) s
    mine.foldl (fun s x => s.transmit x) s

/-- Whether every packet of a command has been added (R254). -/
def State.sendsDone (s : State) (lead : Nat) : Bool := (s.sendsOf lead).all (fun x => x.answer == some .added || x.answer == some .duplicate)

/-- A command's packets forgotten (R255). -/
def State.dropSends (s : State) (lead : Nat) : State := { s with sends := s.sends.filter (fun x => x.lead != lead) }

/-- A packet on its way: its command is in step 4 and the packet has no final answer. -/
def State.openSend (s : State) (tag : Nat) : Option (Run × Send) :=
  match s.sends.find? (fun x => x.tag == tag) with
  | none => none
  | some x =>
    match s.runOf x.lead with
    | none => none
    | some r => if r.sending && r.failed.isNone && x.answer.isNone then some (r, x) else none

/-- The reply to a packet (R254). -/
def replyBody (p : AccPacket) (r : AccReply) : Body := .accumulateReply p.red p.window p.source p.seq r

/-- What a reply does at the sender (R254). -/
def sendReply (s : State) (run : Run) (x : Send) (r : AccReply) : State :=
  match r with
  | .denied => s.failRun run stPermit none
  | .retry =>
    let k := s.cfg (dieAt (servingHub (x.lead / 8))) .morRcptCtl 0 16
    { s with sends := s.sends.map (fun z => if z.tag == x.tag then
        { z with retryAt := some (s.plumb.now + BitVec.ofNat 64 ((if k = 0 then 1 else k) * 1024)) } else z) }
  | _ => { s with sends := s.sends.map (fun z => if z.tag == x.tag then { z with answer := some r } else z) }

/-- ACCUMULATE_REPLY: the sender receives the reply to a packet; one of this package's own homes comes over the die-to-die links
(R252, R254). -/
def accumulateReplyAt (tag : Nat) (r : AccReply) (s : State) : State :=
    match s.openSend tag with
    | none => s
    | some (run, x) =>
      match (if x.target = s.sec.pkg then s.takeLocal (replyBody x.packet r) else some s) with
      | none => s
      | some s => sendReply s run x r

/-- ACCUMULATE_REPLY. -/
def execAccumulateReply (tag : Nat) (r : AccReply) (s : State) : Host.Outcome State Fault Refusal := done s (accumulateReplyAt tag r s)

/-- A packet unanswered for 20 µs, 80,000 ticks, is sent again (R254). -/
def execAccumulateRetransmit (tag : Nat) (s : State) : Host.Outcome State Fault Refusal :=
  done s <|
    match s.openSend tag with
    | none => s
    | some (_, x) => if x.retryAt.isNone && decide ((s.plumb.now - x.sentAt).toNat ≥ 80000) then s.transmit x else s

/-- A packet answered RETRY is sent again after the wait (R254). -/
def execAccumulateRetry (tag : Nat) (s : State) : Host.Outcome State Fault Refusal :=
  done s <|
    match s.openSend tag with
    | none => s
    | some (_, x) =>
      match x.retryAt with
      | some t => if (s.plumb.now - t).toNat < 2 ^ 63 then s.transmit x else s
      | none => s

/-- Whether MOR_RCPT_CTL.TIMEOUT of a hub has passed since a stamp (R254, R275). -/
def State.mortarLate (s : State) (hub : Nat) (since : BitVec 64) : Bool :=
  decide ((s.plumb.now - since).toNat ≥ s.cfg (dieAt hub) .morRcptCtl 16 32 * 4096)

/-- MORTAR_TIMEOUT: a packet without ADDED or DUPLICATE, or a wait of REDUCE.READ or REDUCE.STATS, beyond TIMEOUT fails the command of
lead cluster `c` (R254, R265, R271). -/
def execMortarTimeout (c : Nat) (s : State) : Host.Outcome State Fault Refusal :=
  onUnit (clusterOk c) "cluster" s <|
    match s.runOf c with
    | none => s
    | some r =>
      let sends := r.sending && (s.sendsOf c).any (fun x => x.answer.isNone && s.mortarLate (servingHub (c / 8)) x.since)
      let waits := match r.mortarSince with
        | some (hub, t) => s.mortarLate hub t
        | none => false
      if r.failed.isNone && (sends || waits) then s.failRun r stLink none else s

/-! ## The reduction table (R246, R247, R276) -/

/-- Whether an entry's own fields make it valid (R275). -/
def Red.valid (x : Red) : Bool :=
  fld x.cfg 0 1 == 1 && x.job != 0 && decide (1 ≤ x.sources) && decide (x.sources ≤ 8192) && x.slots != 0
    && fld x.cfg 48 8 != 0x80 && fld x.cfg 56 8 != 0x80

/-- The receipts of a reduction freed (R259, R264, R267). -/
def State.freeReceipts (s : State) (hub r : Nat) : State :=
  { s with receipts := s.receipts.filter (fun e => !(e.hub == hub && e.red == r)) }

/-- A reduction begins to clear for a window (R247): sums and counts start over (R269). -/
def Red.clearing (x : Red) (w : BitVec 32) : Red :=
  { x with st := .clearing, window := w, complete := [], sumSrc := Exa.cleared x.statAnchor, nanCount := 0, elements := 0 }

/-- An entry takes settings (R246, R276): valid, it moves to CLEARING with W = START; else to IDLE. A slot area outside the owner's
partition, or in the other hub's near memory, makes it act as invalid and is recorded. -/
def redTake (s : State) (x : Red) : State :=
  let put := fun (s : State) (y : Red) => { s with reds := s.reds.filter (fun z => !(z.hub == x.hub && z.r == x.r)) ++ [y] }
  let x := { x with record := none }
  if !x.valid then put s { x with st := .idle }
  else if s.ownerArea x.hub x.area (x.slots * x.slotBytes) then put s (x.clearing (BitVec.ofNat 32 (fld x.win 0 32)))
  else (put s { x with st := .idle }).violateArea x.hub x.area

/-- MOR_APPLY on one reduction entry (R276). -/
def redApplyOne (hub : Nat) (s : State) (r : Nat) : State :=
  let b := dieAt hub
  let x := s.redAt hub r
  let y := { x with base := s.reg b (.morRedBase r), size := s.reg b (.morRedSize r), cfg := s.reg b (.morRedCfg r),
                    win := s.reg b (.morRedWin r) }
  let changed := !(x.base == y.base && x.size == y.size && x.cfg == y.cfg && x.win == y.win)
  if !changed && x.st != .fenced then s
  else if x.st = .idle ∨ x.st = .closed ∨ x.st = .fenced
      ∨ (x.st = .opened ∧ !(s.receipts.any (fun e => e.hub == hub && e.red == r))) then redTake s y
  else s.setBits b .morRcptStatus 0x80000

/-- MOR_APPLY (R275, R276): permits take effect at once. -/
def morApplyAt (hub : Nat) (s : State) : State :=
  (List.range 512).foldl (redApplyOne hub) (s.applyNow (dieAt hub) .mor)

/-- MOR_APPLY. -/
def execMorApply (hub : Nat) (s : State) : Host.Outcome State Fault Refusal := onUnit (hubOk hub) "hub" s (morApplyAt hub s)

/-- The bytes of a cleared slot (R247). -/
def Red.clearSlot (x : Red) : Bytes := if x.arrival then leBytes 4 0 else exaBytes (Exa.cleared x.anchor)

/-- Every slot of an area cleared. -/
def State.clearSlots (s : State) (x : Red) : State :=
  (List.range x.slots).foldl (fun s i => s.store mortarPart 2 0 (x.area + i * x.slotBytes) x.clearSlot (s.dieNow x.hub)) s

/-- SLOT_CLEAR_DONE: every slot is cleared and the window opens (R247). -/
def execSlotClearDone (hub r : Nat) (s : State) : Host.Outcome State Fault Refusal :=
  onUnit (hubOk hub && decide (r < 512)) "reduction" s <|
    let x := s.redAt hub r
    if x.st = .clearing then (s.clearSlots x).setRed hub r (fun x => { x with st := .opened }) else s

/-- REDUCE.READs with ADVANCE at their command's commit (R248, R266): the reduction clears for W + 1 and its lines are released. -/
def State.advanceReds (s : State) (reads : List (Nat × Nat × BitVec 32)) : State :=
  reads.foldl (fun s e =>
    let x := s.redAt e.1 e.2.1
    if x.st = .closed ∧ x.window = e.2.2 then
      let s := s.releaseKept e.1 (fun l => l.part == mortarPart && decide (x.area / 64 ≤ l.line) && decide (l.line < ceilDiv (x.area + x.slots * x.slotBytes) 64))
      s.setRed e.1 e.2.1 (fun x => x.clearing (x.window + 1#32))
    else s) s

/-- The reductions of a torn-down home context are fenced (R267). -/
def State.fenceReds (s : State) (ctx : Nat) : State :=
  let mine := s.reds.filter (fun x => x.st != .idle && x.homeCtx == ctx)
  let s := mine.foldl (fun s x => s.freeReceipts x.hub x.r) s
  { s with reds := s.reds.map (fun x => if x.st != .idle && x.homeCtx == ctx then { x with st := .fenced } else x) }

/-! ## The front end (R256 to R263) -/

/-- The receipts of one source in one window. -/
def State.sourceRcpts (s : State) (hub : Nat) (p : AccPacket) : List Receipt :=
  s.receipts.filter (fun e => e.hub == hub && e.job == p.job && e.red == p.red.toNat % 512 && e.window == p.window
    && e.source.toNat == p.source.toNat % 8192)

/-- The receipt entry that covers a chunk (R257). -/
def State.rcptOf (s : State) (hub : Nat) (p : AccPacket) : Option Receipt :=
  (s.sourceRcpts hub p).find? (fun e => e.group == p.seq.toNat / 64)

/-- Row 5 of R258: a chunk that does not fit its reduction. -/
def badChunk (s : State) (x : Red) (p : AccPacket) : Bool :=
  let f := p.format.toNat
  let S := chunkSlots f
  let n := p.elements.toNat
  let at' := p.seq.toNat * S
  let g := p.cls.toNat / 8 % 16 + 5
  let want := n * elemSize f + (if f = fSfp16 then 4 * ceilDiv n (2 ^ g) else 0)
  let mine := s.sourceRcpts x.hub p
  let sources := ((s.receipts.filter (fun e => e.hub == x.hub && e.red == x.r && e.window == x.window)).map (fun e => e.source.toNat)).eraseDups
  p.seq.toNat ≥ p.chunks.toNat || n == 0 || decide (n > S) || decide (at' + n > x.slots) || (decide (n < S) && at' + n != x.slots)
    || p.payload.length != want || (f == fSfp16 && decide (g > 10)) || mine.any (fun e => e.chunks != p.chunks)
    || (mine.isEmpty && decide (sources.length ≥ x.sources))

/-- The rows of R258 up to the eighth: the reply that drops a chunk, none when it is added. -/
def dropChunk (s : State) (x : Red) (p : AccPacket) : Option AccReply :=
  let f := p.format.toNat
  let fits := if x.arrival then f == fFp32 else f == fFp16 || f == fSfp16 || f == fExa
  if x.st = .idle || x.st = .fenced || !fits then some .denied
  else if earlier p.window x.window then some .duplicate
  else if p.window != x.window || x.st == .clearing then some .retry
  else if x.st = .closed then some .duplicate
  else if badChunk s x p then some .denied
  else match s.rcptOf x.hub p with
    | some e =>
      if e.origin != p.origin then some .denied
      else if e.bitmap.getLsbD (p.seq.toNat % 64) then some .duplicate
      else none
    | none => if (s.receipts.filter (fun e => e.hub == x.hub)).length ≥ 131072 then some .retry else none

/-- The elements of a payload as an array (R250, R252). -/
def payloadArr (p : AccPacket) : Arr :=
  let f := p.format.toNat
  let n := p.elements.toNat
  let es := (List.range n).map (fun i => num p.payload (i * elemSize f) (elemSize f))
  let g := 2 ^ (p.cls.toNat / 8 % 16 + 5)
  let sc := if f = fSfp16 then (List.range (ceilDiv n g)).map (fun k => num p.payload (n * elemSize f + 4 * k) 4) else []
  { fmt := f, dims := [n], elems := es, tags := List.replicate n 0, scales := sc, axis := 0, group := g }

/-- An element as an FP32 value for the statistics (R61, R269). -/
def statOf (fmt code scale : Nat) : Fp :=
  if fmt = fExa then fpOf true (drainElem true (exaOf code) 0 none).bits
  else if fmt = fSfp16 then if !scaleOk scale then .nan else fpOf true (lane true (fpMul (fpOf false code) (fpOf true scale))).bits
  else fpOf (fmt == fFp32) code

/-- Whether a value is finite. -/
def isFin : Fp → Bool
  | .fin _ _ _ => true
  | _ => false

/-- Squares of finite values added to a statistics sum, with the number of values left out (R269). -/
def addSquares (sum : Exa) (l : List Fp) : Exa × Nat :=
  ((l.filter isFin).foldl (fun e c => ((Acc.reload e).addFixed (fpMul c c)).finish) sum, (l.filter (fun c => !isFin c)).length)

/-- A chunk's elements added into their slots (R260 to R262). -/
def addChunk (s : State) (x : Red) (p : AccPacket) : State :=
  let a := payloadArr p
  let first := p.seq.toNat * chunkSlots a.fmt
  let old := s.slotsAt x first a.elems.length
  let vals := a.vals
  let new := if x.arrival then (old.zip vals).map (fun y => (lane true (fpAdd (fpOf true y.1) y.2)).bits)
    else (old.zip (a.elems.zip vals)).map (fun y => exaNat (addElem (Acc.reload (exaOf y.1)) a.fmt y.2.1 y.2.2).finish)
  let sc := if a.fmt = fSfp16 then a.scaleList else a.elems.map (fun _ => 0)
  let st := addSquares x.sumSrc ((a.elems.zip sc).map (fun y => statOf a.fmt y.1 y.2))
  (s.putSlots x first new).setRed x.hub x.r (fun x =>
    { x with sumSrc := st.1, nanCount := min (x.nanCount + st.2) 0xFFFFFFFF, elements := x.elements + a.elems.length })

/-- The receipt of an added chunk (R257, R258). -/
def addReceipt (s : State) (hub : Nat) (p : AccPacket) : State :=
  let bit := (1#64) <<< (p.seq.toNat % 64)
  match s.rcptOf hub p with
  | some e => { s with receipts := s.receipts.map (fun z => if z == e then { z with bitmap := z.bitmap ||| bit } else z) }
  | none =>
    let e : Receipt := { hub := hub, job := p.job, red := p.red.toNat % 512, window := p.window,
                         source := BitVec.ofNat 16 (p.source.toNat % 8192), origin := p.origin, group := p.seq.toNat / 64,
                         bitmap := bit, first := s.dieNow hub, chunks := p.chunks }
    { s with receipts := s.receipts ++ [e] }

/-- A source whose receipts hold all its chunks is complete (R251). -/
def noteComplete (s : State) (hub : Nat) (p : AccPacket) : State :=
  let got := ((s.sourceRcpts hub p).map (fun e => ((List.range 64).filter (fun i => e.bitmap.getLsbD i)).length)).foldl (· + ·) 0
  let src := BitVec.ofNat 16 (p.source.toNat % 8192)
  if got = p.chunks.toNat then s.setRed hub (p.red.toNat % 512) (fun x => if x.complete.contains src then x else { x with complete := src :: x.complete })
  else s

/-- The arrival trail record of an added chunk (R263); a trail outside the owner's partition loses it (R463). -/
def trailRecord (s : State) (hub : Nat) (p : AccPacket) : State :=
  let b := dieAt hub
  let n := (s.trailSeq[hub - 8]?).getD 0#32
  let off := s.cfg b .morTrailBase 21 27 * 2 ^ 21
  let log := ringLog (s.cfg b .morTrailSize 0 5)
  let s : State := { s with trailSeq := modNth s.trailSeq (hub - 8) (· + 1#32) }
  if s.ownerArea hub off (32 * 2 ^ log) then
    s.store 0 0 0 (off + 32 * (n.toNat % 2 ^ log)) (leBytes 8 (s.dieNow hub).toNat ++ leBytes 4 n.toNat ++ leBytes 4 p.window.toNat
      ++ leBytes 4 p.seq.toNat ++ leBytes 2 p.source.toNat ++ leBytes 2 p.red.toNat ++ leBytes 2 p.job.toNat ++ leBytes 6 0) (s.dieNow hub)
  else (s.setBits b .morRcptStatus 0x100000).violateArea hub off

/-- A chunk that has passed the ingress check, decided and answered (R258). -/
def frontEnd (s : State) (hub : Nat) (p : AccPacket) : State × AccReply :=
  let x := s.redAt hub (p.red.toNat % 512)
  match dropChunk s x p with
  | some .duplicate => (s.countUnit hub 1, .duplicate)
  | some .retry => (if x.st = .opened ∧ p.window = x.window then s.setBits (dieAt hub) .morRcptStatus 0x40000 else s, .retry)
  | some r => (s, r)
  | none =>
    let s := (addChunk (addReceipt s hub p) x p).countUnit hub 0
    let s := if x.arrival ∧ fld x.cfg 8 1 = 1 then trailRecord s hub p else s
    (noteComplete s hub p, .added)

/-- The ingress check of R256: authenticated origin, permit, and the reduction's job. -/
def ingressOk (s : State) (hub peer : Nat) (p : AccPacket) : Bool :=
  p.origin.toNat % 8192 == peer && s.mayRecv hub p.job peer && (s.redAt hub (p.red.toNat % 512)).job == p.job.toNat

/-- ACCUMULATE: a packet reaches the front end of its hub from a Lintel port whose peer is authenticated, or from this package over the
die-to-die links, and is answered (R252, R256, R258). RED bit 9 names the hub (R249). -/
def accumulateAt (hub : Nat) (port : Option Nat) (peer : Nat) (p : AccPacket) (s : State) : State :=
    if hub ≠ 8 + p.red.toNat / 512 % 2 then s else
    match (match port with
      | some n => if (s.port n).peer = some peer && s.carriesClass n (p.cls.toNat % 8) then some (s, peer) else none
      | none => (s.takeLocal (.accumulate p)).map (fun t => (t, s.sec.pkg))) with
    | none => s
    | some (s, peer) =>
      let (s, r) := if ingressOk s hub peer p then frontEnd s hub p else (s.countUnit hub 2, .denied)
      s.sendTo hub (s.packet (p.origin.toNat % 8192) (p.cls.toNat % 8) p.job (replyBody p r))

/-- ACCUMULATE. -/
def execAccumulate (hub : Nat) (port : Option Nat) (peer : Nat) (p : AccPacket) (s : State) : Host.Outcome State Fault Refusal := onUnit (hubOk hub && decide (port.getD 0 < 30)) "hub or port" s (accumulateAt hub port peer p s)

/-! ## Closing (R264, R269, R270) -/

/-- The statistics record of a closing window (R270). -/
def statRecord (s : State) (x : Red) : Bytes :=
  let vals := (s.slotsAt x 0 x.slots).map (fun v => if x.arrival then fpOf true v else fpOf true (drainElem true (exaOf v) 0 none).bits)
  let sq := addSquares (Exa.cleared x.statAnchor) vals
  let nans := min (x.nanCount + sq.2) 0xFFFFFFFF
  let pair := fun (e : Exa) => let q := drainPair e 0; leBytes 4 q.1.bits ++ leBytes 4 q.2.bits
  let flags := b2n (x.sumSrc.inexactLow || sq.1.inexactLow) + 2 * b2n (x.sumSrc.overflow || sq.1.overflow) + 4 * b2n x.arrival
  let firsts := (s.receipts.filter (fun e => e.hub == x.hub && e.red == x.r && e.window == x.window)).map (fun e => e.first.toNat)
  let red := x.r + (x.hub - 8) * 512
  leBytes 4 x.window.toNat ++ leBytes 2 x.job ++ leBytes 2 red ++ leBytes 2 x.complete.length ++ leBytes 2 flags ++ leBytes 4 nans
    ++ pair x.sumSrc ++ pair sq.1 ++ leBytes 8 x.elements ++ leBytes 8 (firsts.foldl min (firsts.headD 0)) ++ leBytes 8 (s.dieNow x.hub).toNat
    ++ leBytes 8 0

/-- WINDOW_CLOSE: every expected source is complete (R264). -/
def execWindowClose (hub r : Nat) (s : State) : Host.Outcome State Fault Refusal :=
  onUnit (hubOk hub && decide (r < 512)) "reduction" s <|
    let x := s.redAt hub r
    if x.st = .opened ∧ x.complete.length ≥ x.sources then
      (s.setRed hub r (fun x => { x with st := .closed, record := some (x.window, statRecord s x) })).freeReceipts hub r
    else s

/-- The 32 bytes of a receipt entry (R257). -/
def receiptBytes (e : Receipt) : Bytes :=
  leBytes 2 e.job.toNat ++ leBytes 2 (e.red + 0x8000) ++ leBytes 4 e.window.toNat ++ leBytes 2 e.source.toNat ++ leBytes 2 e.origin.toNat
    ++ leBytes 4 e.group ++ leBytes 8 e.bitmap.toNat ++ leBytes 8 e.first.toNat

/-- MOR_RCPT_SEL: a receipt entry copied into MOR_RCPT_DATA (R257, R275). -/
def morRcptSelAt (hub : Nat) (v : BitVec 64) (s : State) : State :=
    let bs := (((s.receipts.filter (fun e => e.hub == hub))[fld v 0 17]?).map receiptBytes).getD []
    (List.range 4).foldl (fun (s : State) k =>
      { s with rcptSel := modNth s.rcptSel (4 * (hub - 8) + k) (fun _ => BitVec.ofNat 64 (num bs (8 * k) 8)) }) s

/-- MOR_RCPT_SEL. -/
def execMorRcptSel (hub : Nat) (v : BitVec 64) (s : State) : Host.Outcome State Fault Refusal := onUnit (hubOk hub) "hub" s (morRcptSelAt hub v s)

end Sys2Proof.Machine
end

