-- ==== Sys2Proof/Machine/Pools.lean ====
section
/-! DEFINITION. Pooling (R208 to R211) and the halo exchange of pinned convolutions (R217, R218). -/

namespace Sys2Proof.Machine

/-! ## Pooling -/

/-- The geometry record of a pooling instruction, its form and its fields (R195, R208). -/
def poolGeo (h : Here) (excl : Bool) : Act Geo := do
  need (h.w.form == 0) cForm 0
  need (h.w.mod &&& 0x3C == h.w.mod && h.w.imm < 2 ^ 32) cReserved 0
  let g ← geometry h 8 true 8 false false excl
  need (g.halo == 0 || h.pin.isSome) cLcores 0
  pure g

/-- The map of a pooling instruction with every lane a channel, FP16 or FP32, with its halo rows (R193, R208, R217). -/
def poolMap (h : Here) (g : Geo) (layout : Nat) (pad : Factor) : Act MapData := do
  let o ← opnd h 0 false
  need (isFloat o.fmt) cFormat 0
  let r ← readMap h 0 layout o.fmt none pad (some g)
  pure r.1

/-- The elements of an argmax tensor with their tags (R208). -/
def argMap (h : Here) (slot layout : Nat) : Act (MapView × List (Nat × Nat)) := do
  let o ← opnd h slot false
  need (o.fmt == fUint8) cFormat slot
  let d ← dimsOf h o
  let v ← mapOf layout (o.isArea && h.pin.isSome) d none
  let a ← fetch h o
  pure (v, a.elems.zip a.tags)

/-- Results in channel-fastest order written to a map of a layout; padded lanes are +0 and count nothing (R193). -/
def storeMap (h : Here) (o : Opnd) (layout c w y n : Nat) (rs : List (Res × Nat)) : Act Unit := do
  let p : Product := { Product.blank with shape := [c, w, y, n], layout := some layout }
  let dm := if o.isArea && h.pin.isSome then drainRows p layout else drainMap p
  let d := outDims h o dm.1
  needShape d dm.1
  let es := dm.2.map (fun q => match q with | some q => (rs[q]?).getD (Res.of 0, 0) | none => (Res.of 0, 0))
  storeRes h o d (es.map (·.1)) (es.map (·.2))

/-- The positions of the window at (oy, ox), in index order ky·KW + kx (R209). -/
def window (g : Geo) (oy ox : Nat) : List (Int × Int) :=
  (List.range g.kh).flatMap (fun ky => (List.range g.kw).map (fun kx =>
    (Int.ofNat (oy * g.sh + ky) - Int.ofNat g.ph, Int.ofNat (ox * g.sw + kx) - Int.ofNat g.pw)))

/-- The maximum of a window's candidates with its argmax byte: the value and the index of the first candidate that is the output, or
of the first NaN; −Inf and 0x80 without a candidate (R209). -/
def poolBest (xs : List (Nat × Fp)) : Fp × Nat :=
  match xs with
  | [] => (.inf true, 0x80)
  | _ =>
    let v := rowBest true (xs.map (·.2))
    (v, ((xs.find? (fun x => x.2 == v)).map (·.1)).getD 0)

/-- POOL.MAX (R209). -/
def doPoolMax (h : Here) : Act Unit := do
  let g ← poolGeo h false
  let x ← poolMap h g (inLayout h) (padOf g)
  let o ← opnd h 2 true
  let a ← opnd h 0 false
  need (o.fmt == a.fmt) cFormat 2
  let oh := if x.view.h = 0 then 0 else outN x.view.h g.ph g.kh g.sh
  let ow := if x.view.w = 0 then 0 else outN x.view.w g.pw g.kw g.sw
  let w := o.fmt == fFp32
  let rs := (positions x.view.n oh ow x.view.c).map (fun (n, oy, ox, c) =>
    let ps := ((window g oy ox).mapIdx (fun k p => (k, p))).filter (fun (q : Nat × Int × Int) => x.holds q.2)
    let fs := ps.map (fun (q : Nat × Int × Int) => (q.1, x.get n c q.2.1 q.2.2))
    let b := poolBest (fs.map (fun (q : Nat × Factor) => (q.1, q.2.v)))
    (b, tagAll (fs.map (fun (q : Nat × Factor) => q.2.t)), fs.isEmpty))
  let write := do
    storeMap h o (outLayout h) x.view.c ow oh x.view.n (rs.map (fun r => (encFp w r.1.1, r.2.1)))
    bump h o (fun c => { c with emptyRows := sat32 c.emptyRows (rs.filter (fun r => r.2.2)).length })
  if h.w.b = noDesc then write
  else
    let am ← opnd h 1 true
    need (am.fmt == fUint8) cFormat 1
    write
    storeMap h am (outLayout h) x.view.c ow oh x.view.n (rs.map (fun r => (Res.of r.1.2, r.2.1)))

/-- The number a window's sum is divided by (R210). -/
def poolN (g : Geo) (inside : Int × Int → Bool) (oy ox : Nat) : Nat :=
  if g.flags.testBit 2 then ((window g oy ox).filter inside).length else g.kh * g.kw

/-- A window's mean: its exact sum drained to FP32, divided by n, converted (R210). -/
def poolMean (wide out32 : Bool) (n : Nat) (xs : List Fp) : Res :=
  if n = 0 then Res.of 0
  else
    let d := drainElem true (rowSum wide xs) 0 none
    let q := encFp true (fpDiv (fpOf true d.bits) (fpOfInt n))
    let r := if out32 then q else cvtFloat false (fpOf true q.bits) none
    { bits := r.bits, ovf := isInf out32 r.bits && (d.ovf || q.ovf || r.ovf),
      unf := (r.bits % 2 ^ (if out32 then 31 else 15) == 0) && (d.unf || q.unf || r.unf), sat := false, inex := false }

/-- POOL.AVG (R210). -/
def doPoolAvg (h : Here) : Act Unit := do
  let g ← poolGeo h true
  needNone h 1
  let x ← poolMap h g (inLayout h) (padOf g)
  let a ← opnd h 0 false
  let o ← opnd h 2 true
  need (isFloat o.fmt) cFormat 2
  let oh := if x.view.h = 0 then 0 else outN x.view.h g.ph g.kh g.sh
  let ow := if x.view.w = 0 then 0 else outN x.view.w g.pw g.kw g.sw
  let rs := (positions x.view.n oh ow x.view.c).map (fun (n, oy, ox, c) =>
    let ps := (window g oy ox).filter (fun (q : Int × Int) => !g.flags.testBit 2 || x.holds q)
    let fs := ps.map (fun (q : Int × Int) => x.get n c q.1 q.2)
    let k := poolN g x.holds oy ox
    (poolMean (a.fmt == fFp32) (o.fmt == fFp32) k (fs.map (fun (f : Factor) => f.v)), tagAll (fs.map (fun (f : Factor) => f.t)), k == 0))
  storeMap h o (outLayout h) x.view.c ow oh x.view.n (rs.map (fun r => (r.1, r.2.1)))
  bump h o (fun c => { c with emptyRows := sat32 c.emptyRows (rs.filter (fun r => r.2.2)).length })

/-- The windows that cover an input position, with the index of the position in each, in ascending (oy, ox) (R211). -/
def covering (g : Geo) (oh ow iy ix : Nat) : List (Nat × Nat × Nat) :=
  (List.range oh).flatMap (fun oy => (List.range ow).filterMap (fun ox =>
    let ky := Int.ofNat (iy + g.ph) - Int.ofNat (oy * g.sh)
    let kx := Int.ofNat (ix + g.pw) - Int.ofNat (ox * g.sw)
    if decide (0 ≤ ky) && decide (ky < Int.ofNat g.kh) && decide (0 ≤ kx) && decide (kx < Int.ofNat g.kw)
    then some (oy, ox, ky.toNat * g.kw + kx.toNat) else none))

/-- The common part of the pooling gradients: `part` gives a window's contribution to the position at an index of it, and the tag
that goes with it (R211). -/
def poolBack (h : Here) (g : Geo) (d : MapData) (part : Nat → Nat → Nat → Nat → Nat → Option Fp × Nat) : Act Unit := do
  let a ← opnd h 0 false
  let o ← opnd h 2 true
  need (o.fmt == a.fmt) cFormat 2
  let oh := outN g.ih g.ph g.kh g.sh
  let ow := outN g.iw g.pw g.kw g.sw
  need (oh == d.view.h && ow == d.view.w) cShape 1
  let w := o.fmt == fFp32
  let rs := (positions d.view.n g.ih g.iw d.view.c).map (fun (n, iy, ix, c) =>
    let ps : List (Option Fp × Nat) := (covering g oh ow iy ix).map (fun (q : Nat × Nat × Nat) => part n c q.1 q.2.1 q.2.2)
    (drainElem w (rowSum w (ps.filterMap (fun (x : Option Fp × Nat) => x.1))) 0 none, tagAll (ps.map (fun (x : Option Fp × Nat) => x.2))))
  storeMap h o (outLayout h) d.view.c g.iw g.ih d.view.n (rs.map (fun r => ({ r.1 with inex := false }, r.2)))

/-- POOL.MAX_BWD (R211). -/
def doPoolMaxBwd (h : Here) : Act Unit := do
  let g ← poolGeo h false
  let d ← poolMap h g (inLayout h) Factor.zero
  let (v, am) ← argMap h 1 (inLayout h)
  need (v.c == d.view.c && v.w == d.view.w && v.h == d.view.h && v.n == d.view.n) cShape 0
  poolBack h g d (fun n c oy ox k =>
    let b := (am[v.at' n c oy ox]?).getD (0x80, 0)
    if b.1 < 0x40 && decide (b.1 < g.kh * g.kw) && b.1 == k then
      let f := d.get n c (Int.ofNat oy) (Int.ofNat ox)
      (some f.v, tagOr f.t b.2)
    else (none, b.2))

/-- POOL.AVG_BWD (R211). -/
def doPoolAvgBwd (h : Here) : Act Unit := do
  let g ← poolGeo h true
  needNone h 1
  let d ← poolMap h g (inLayout h) Factor.zero
  poolBack h g d (fun n c oy ox _ =>
    let f := d.get n c (Int.ofNat oy) (Int.ofNat ox)
    (some (fp32Op (fpDiv f.v (fpOfInt (poolN g (fun p => decide (0 ≤ p.1) && decide (p.1 < Int.ofNat g.ih) && decide (0 ≤ p.2) && decide (p.2 < Int.ofNat g.iw)) oy ox)))), f.t))

/-- The fill of a pooling instruction: its map, and its argmax tensor (R125); its halo rows are free (R218). -/
def poolFill (h : Here) : Act Unit := do
  fillOut h
  if h.w.op = 0x0C0 && h.w.b != noDesc then fillAt h h.w.b 1 [] else pure ()
  haloDone h

/-- POOL.MAX (R208, R209). -/
def execPoolMax (c i : Nat) (s : State) : Host.Outcome State Fault Refusal :=
  onUnit (clusterOk c) "cluster" s (runWord (fun w => w.op == 0x0C0) .either (convDone doPoolMax) poolFill c i s)

/-- POOL.AVG (R208, R210). -/
def execPoolAvg (c i : Nat) (s : State) : Host.Outcome State Fault Refusal :=
  onUnit (clusterOk c) "cluster" s (runWord (fun w => w.op == 0x0C1) .either (convDone doPoolAvg) poolFill c i s)

/-- POOL.MAX_BWD (R208, R211). -/
def execPoolMaxBwd (c i : Nat) (s : State) : Host.Outcome State Fault Refusal :=
  onUnit (clusterOk c) "cluster" s (runWord (fun w => w.op == 0x0C2) .either (convDone doPoolMaxBwd) poolFill c i s)

/-- POOL.AVG_BWD (R208, R211). -/
def execPoolAvgBwd (c i : Nat) (s : State) : Host.Outcome State Fault Refusal :=
  onUnit (clusterOk c) "cluster" s (runWord (fun w => w.op == 0x0C3) .either (convDone doPoolAvgBwd) poolFill c i s)

/-! ## Halo exchange (R217, R218) -/

/-- The byte offsets of one row of a region, its scale included (R136). -/
def rowBytes (a : Area) (r : Nat) : List Nat :=
  range' (a.base + r * a.pitch) (a.cols * elemSize a.fmt)
    ++ (if a.fmt = fSfp16 then range' (a.base + a.rows * a.pitch + 4 * r) 4 else [])

/-- `n` rows copied from one core's region to another's, tags with them (R123). -/
def copyRows (h : Here) (a : Area) (src dst : Nat × Nat) (from' to' : Nat) : Nat → Act Unit
  | 0 => pure ()
  | n + 1 => do
    copyRows h a src dst from' to' n
    let bs ← readScratch h src.1 src.2 (rowBytes a (from' + n))
    writeScratch h dst.1 dst.2 ((rowBytes a (to' + n)).zip bs)

/-- The halo rows of participating core `l` of a pinned convolution or pooling copied from its neighbours (R217). -/
def haloInto (h : Here) (l : Nat) : Act Unit := do
  let ps := pins h.cmd.ncl (hCores h.prog) h.w.lc
  let s2c := h.w.op == 0x083 || h.w.op == 0x084
  let g ← if h.w.op / 64 = 3 then geometry h 8 true 8 false false (h.w.op % 2 == 1) else geometry h 64 (convPass h == 2) 255 s2c false false
  let d ← descOf h h.w.a 0
  match parseArea d, ps[l]? with
  | some a, some (_, j, k) => do
    let st := a.rows - 2 * g.halo
    need (g.halo != 0 && decide (3 * g.halo ≤ a.rows)) cShape 1
    match (if l = 0 then none else ps[l - 1]?) with
    | some (_, j', k') => copyRows h a (j', k') (j, k) st 0 g.halo
    | none => pure ()
    match ps[l + 1]? with
    | some (_, j', k') => copyRows h a (j', k') (j, k) g.halo (st + g.halo) g.halo
    | none => pure ()
  | _, _ => skip cDesc 0

/-- Whether an instruction before a convolution that has not completed writes bytes of its regions (R218). -/
def haloBusy (r : Run) (p : Bytes) (cmd : CmdEntry) (i : Nat) : Bool :=
  match r.issued.find? (fun x => x.index == i) with
  | none => true
  | some me => (r.before i).any (fun k => mustWait ((regionsOf p cmd (wordAt p k)).filter (·.written)) me.regions)

/-- HALO_COPY (R217, R218): the rows are copied when the writers before it have completed and the rows are empty. -/
def doHaloCopy (c i l : Nat) (s : State) : State :=
  match s.runOf c with
  | none => s
  | some r =>
    let h := s.hereAt r i
    if !s.inFlight (fun w => (w.op / 64 == 2 || w.op / 64 == 3) && w.lc != 0) c i || haloBusy r h.prog h.cmd i || r.halos.any (fun f => f.core == l && f.full) then s
    else
      match haloInto h l s with
      | .ok (_, t) => t.setRun c (fun r => { r with halos := { index := i, core := l, full := true } :: r.halos })
      | .error _ => s

/-- HALO_COPY (R217, R218). -/
def execHaloCopy (c i l : Nat) (s : State) : Host.Outcome State Fault Refusal :=
  onUnit (clusterOk c) "cluster" s (doHaloCopy c i l s)

end Sys2Proof.Machine
end

