-- ==== Sys2Proof/Machine/Media.lean ====
section
/-! DEFINITION. Picture slots (R284, R285), MEDIA.PYRAMID (R294), MEDIA.CROP (R295 to R298) and the LEGACY forms (R161, R299). -/

namespace Sys2Proof.Machine

/-! ## Accesses of the media complex -/

/-- The hub whose media complex serves a command (R278). -/
def medHub (lead : Nat) : Nat := servingHub (lead / 8)

/-- A bit of MED_FAULTS rises, and with it the media fault source (R306, R401). -/
def State.medFault (s : State) (hub bit : Nat) : State := (s.setBits (dieAt hub) .medFaults (2 ^ bit)).raise hub srcMedia

/-- The context and the open-stream number of an engine's present work (R306). -/
def State.medWork (s : State) (hub e : Nat) : Option (Nat × Nat) :=
  (s.medBusy.find? (fun b => b.hub == hub && b.engine == e)).bind (fun b => b.stream.map (fun n => (b.ctx, n)))

/-- Samples that engine 8 has produced (R54, R278). -/
def cropCount (h : Here) (n : Nat) : Act Unit := modify (fun s => s.count 7 (medHub h.lead) 8 1 n)

/-- The engine number that stands for the control core that decodes audio, which of the four is free (R278). -/
def byCore : Nat := 15

/-- The engine number of an access that the media complex makes before an engine has taken its stream: which engine makes it is free
(log entry 78). -/
def byAny : Nat := 14

/-- A media address outside the context's partition fails the command; it is recorded under the engine's code (R281, R306, R463). -/
def State.medFail (s : State) (r : Run) (engine space off : Nat) : State :=
  let hub := medHub r.lead
  let s := s.medFault hub 1
  let d := s.draw
  let (k, s) :=
    if engine = byCore then (0x100 + 4 * (hub - 8) + d.1 % 4, d.2)
    else if engine = byAny then (0x400 + 16 * (hub - 8) + d.1 % 10, d.2)
    else (0x400 + 16 * (hub - 8) + engine, s)
  let s := s.violate k r.ctx (some (s.ctxPart r.ctx)) space off
  s.setRun r.lead (fun x => { x with failed := some (BitVec.ofNat 8 stPartition) })

/-- The space that marks a failed media access by an engine in a `Stop.fail`. -/
def medSpace (engine space : Nat) : Nat := 256 + 16 * engine + space

/-- The keys of bytes that a media engine reaches by address: outside the partition it fails; an address of another package is checked at its
target (R281, R328, R464). -/
def medKeys (h : Here) (engine a n : Nat) (wr : Bool) : Act (List Nat) := do
  let s ← get
  let r ← getRun h
  let v := BitVec.ofNat 64 a
  need (!leaseBarAt s h a n) cDesc 0
  if n = 0 then pure []
  else if gPkg v ≠ s.sec.pkg ∧ gOff v + n ≤ 2 ^ 48 then pure (range' (remoteKey (gPkg v) (gSpace v) (gOff v)) n)
  else if gPkg v = s.sec.pkg ∧ s.allowed false (s.ctxPart r.ctx) wr (gSpace v) (gOff v) n then pure (range' (memKey (gSpace v) (gOff v)) n)
  else halt (Stop.fail stPartition (some (medSpace engine (gSpace v), gOff v)))

/-- Bytes that a media engine reads with the OR of their tags, PARITY for a poisoned line (R318); bytes of other packages must have been
fetched (R347). -/
def medRead (h : Here) (engine a n : Nat) : Act (Bytes × Nat) := do
  let ks ← medKeys h engine a n false
  let bs ← readKeys h ks
  pure (bs.map (fun x => BitVec.ofNat 8 x.1), tagAll (bs.map (·.2)))

/-- Bytes that a media engine writes as outputs of its command. -/
def medWrite (h : Here) (engine a : Nat) (bs : Bytes) (tag : Nat) : Act Unit := do
  let ks ← medKeys h engine a bs.length true
  writeKeys h ((ks.zip bs).map (fun x => (x.1, x.2.toNat, tag)))

/-- A command failed by a media instruction: a failed access of an engine is recorded as the engine's (R283). -/
def State.failMedia (s : State) (r : Run) (status : Nat) (at' : Option (Nat × Nat)) : State :=
  match at' with
  | some (sp, off) => if sp ≥ 256 then s.medFail r ((sp - 256) / 16) (sp % 16) off else s.failRun r status at'
  | none => s.failRun r status none

/-- How a media instruction runs: once for its command, with its own record of a failed access (R283). -/
def runMedia (is : Word128 → Bool) (body fill : Here → Act Unit) (lead i : Nat) (s : State) : State :=
  match s.runOf lead with
  | none => s
  | some r =>
    if !s.inFlight is lead i then s else
    match runTargets .once body fill (s.hereAt r i) s with
    | .ok t => t.finish lead i
    | .error e => s.halted r State.failMedia e

/-! ## Slots (R284, R285) -/

/-- One plane of a level: extents and samples in row order. -/
structure Plane where
  w  : Nat
  h  : Nat
  px : List Nat
  deriving DecidableEq, Repr

/-- A picture slot: depth, layout, header fields, and its levels, each a list of planes. -/
structure Slot where
  depth  : Nat
  layout : Nat
  key    : Bool
  frame  : Nat
  sample : Nat
  levels : List (List Plane)
  deriving DecidableEq, Repr

/-- Half an extent, rounded up. -/
def halfUp (n : Nat) : Nat := (n + 1) / 2

/-- The planes of a layout: whether each is subsampled along x and along y (R284). -/
def planeSubs (layout : Nat) : List (Bool × Bool) :=
  let full := (false, false)
  match layout with
  | 0 => [full]
  | 1 => [full, (true, true), (true, true)]
  | 2 => [full, (true, false), (true, false)]
  | 3 => [full, full, full]
  | 4 => [full, full, full]
  | 5 => [full, full, full, full]
  | 6 => [full, full]
  | _ => [full]

/-- The extents of the planes at level 0 (R284). -/
def planeDims (layout w h : Nat) : List (Nat × Nat) :=
  (planeSubs layout).map (fun p => (if p.1 then halfUp w else w, if p.2 then halfUp h else h))

/-- The extents of the next level. -/
def halfDims (l : List (Nat × Nat)) : List (Nat × Nat) := l.map (fun p => (halfUp p.1, halfUp p.2))

/-- The extents of a number of levels. -/
def levelDims : Nat → List (Nat × Nat) → List (List (Nat × Nat))
  | 0, _ => []
  | n + 1, l => l :: levelDims n (halfDims l)

/-- Bytes per sample of a depth (R284). -/
def sampleBytes (depth : Nat) : Nat := if depth > 8 then 2 else 1

/-- The row pitch of a plane (R284). -/
def planePitch (depth w : Nat) : Nat := ceilDiv (w * sampleBytes depth) 64 * 64

/-- The bytes of one level. -/
def levelBytes (depth : Nat) (l : List (Nat × Nat)) : Nat := (l.map (fun p => planePitch depth p.1 * p.2)).foldl (· + ·) 0

/-- The bytes of a slot (R285). -/
def slotSize (depth layout w h levels : Nat) : Nat :=
  64 + ((levelDims levels (planeDims layout w h)).map (levelBytes depth)).foldl (· + ·) 0

/-- The level-0 luma extents of a slot. -/
def Slot.dims (x : Slot) : Nat × Nat := match x.levels with
  | (p :: _) :: _ => (p.w, p.h)
  | _ => (0, 0)

/-- A sample of a plane; taps outside take the nearest edge sample. -/
def Plane.at' (p : Plane) (y x : Int) : Nat :=
  let cx := (max 0 (min x (Int.ofNat p.w - 1))).toNat
  let cy := (max 0 (min y (Int.ofNat p.h - 1))).toNat
  (p.px[cy * p.w + cx]?).getD 0

/-- The bytes of a slot's planes by offset within the slot: the first offset of each level, and the cells. -/
def planeCells (depth : Nat) (off : Nat) : List Plane → Nat × List (Nat × Nat)
  | [] => (off, [])
  | p :: t =>
    let sb := sampleBytes depth
    let pitch := planePitch depth p.w
    let mine := p.px.mapIdx (fun i v => (List.range sb).map (fun k => (off + i / max 1 p.w * pitch + i % max 1 p.w * sb + k, v / 256 ^ k % 256)))
    let r := planeCells depth (off + pitch * p.h) t
    (r.1, mine.flatten ++ r.2)

/-- The offsets of a slot's levels with their cells. -/
def slotLevels (depth : Nat) (off : Nat) : List (List Plane) → List (Nat × List (Nat × Nat))
  | [] => []
  | l :: t => let r := planeCells depth off l; (off, r.2) :: slotLevels depth r.1 t

/-- All bytes of a slot by offset (R284). -/
def Slot.cells (x : Slot) : List (Nat × Nat) :=
  let ls := slotLevels x.depth 64 x.levels
  let d := x.dims
  let hd := leBytes 4 d.1 ++ leBytes 4 d.2 ++ leBytes 1 x.depth ++ leBytes 1 x.layout ++ leBytes 1 x.levels.length ++ leBytes 1 (b2n x.key)
    ++ leBytes 4 x.frame ++ leBytes 8 x.sample ++ leBytes 8 0
    ++ ((List.range 8).map (fun k => leBytes 4 ((ls[k]?.map (·.1)).getD 0))).flatten
  (hd.mapIdx (fun i b => (i, b.toNat))) ++ (ls.map (·.2)).flatten

/-- The header of an empty slot (R284). -/
def emptyCells : List (Nat × Nat) := (List.range 64).map (fun i => (i, 0))

/-- A slots operand: a UINT8 TENSOR of RANK 2 (R283). -/
def slotsOpnd (h : Here) (slot : Nat) (wr : Bool) : Act (Opnd × Ten) := do
  let o ← opnd h slot wr
  match o.loc with
  | .area _ => skip cType slot
  | .ten t => do
    need (t.fmt == fUint8) cFormat slot
    need (t.dims.length == 2) cShape 1
    pure (o, t)

/-- The key of byte `e` of slot `n` of a tensor. -/
def slotKey (s : State) (h : Here) (slot : Nat) (t : Ten) (n e : Nat) : Except Stop Nat :=
  let off := Int.ofNat (t.base % 2 ^ 48) + Int.ofNat e * (t.steps[0]?).getD 0 + Int.ofNat n * (t.steps[1]?).getD 0
  keyOf s h slot (gPkg (BitVec.ofNat 64 t.base)) (gSpace (BitVec.ofNat 64 t.base)) off.toNat

/-- Cells of a slot written with a tag. -/
def putSlot (h : Here) (slot : Nat) (t : Ten) (n tag : Nat) (cells : List (Nat × Nat)) : Act Unit := do
  let s ← get
  match cells.mapM (fun c => (slotKey s h slot t n c.1).map (fun k => (k, c.2, tag))) with
  | .ok l => writeKeys h l
  | .error e => halt e

/-- Bytes of a slot read, as values with tags. -/
def slotBytes (h : Here) (slot : Nat) (t : Ten) (n : Nat) (offs : List Nat) : Act (List (Nat × Nat)) := do
  let s ← get
  match offs.mapM (fun e => slotKey s h slot t n e) with
  | .ok ks => readKeys h ks
  | .error e => halt e

/-- Planes read from a slot, one after the other. -/
def readPlanes (h : Here) (slot : Nat) (t : Ten) (n depth off : Nat) : List (Nat × Nat) → Act (List Plane × Nat)
  | [] => pure ([], 0)
  | (w, ht) :: rest => do
    let sb := sampleBytes depth
    let pitch := planePitch depth w
    let bs ← slotBytes h slot t n ((List.range ht).flatMap (fun y => (List.range (w * sb)).map (fun x => off + y * pitch + x)))
    let vs := (chunks (bs.length + 1) sb bs).map joinBytes
    let (ps, tg) ← readPlanes h slot t n depth (off + pitch * ht) rest
    pure ({ w := w, h := ht, px := vs.map (·.1) } :: ps, tagOr tg (tagAll (vs.map (·.2))))

/-- Levels read from a slot at the offsets of its header. -/
def readLevels (h : Here) (slot : Nat) (t : Ten) (n depth : Nat) : List (Nat × List (Nat × Nat)) → Act (List (List Plane) × Nat)
  | [] => pure ([], 0)
  | (off, ds) :: rest => do
    let (ps, t1) ← readPlanes h slot t n depth off ds
    let (ls, t2) ← readLevels h slot t n depth rest
    pure (ps :: ls, tagOr t1 t2)

/-- Slot `n` of an operand with its tag; none for an empty slot, and for one whose header no module writes or whose planes leave it
(log entry 23). -/
def readSlot (h : Here) (slot : Nat) (t : Ten) (n : Nat) : Act (Option Slot × Nat) := do
  let size := (t.dims[0]?).getD 0
  if size < 64 then pure (none, 0) else
  let hb ← slotBytes h slot t n (List.range 64)
  let hd : Bytes := hb.map (fun x => BitVec.ofNat 8 x.1)
  let tg := tagAll (hb.map (·.2))
  let w := num hd 0 4
  let ht := num hd 4 4
  let depth := num hd 8 1
  let layout := num hd 9 1
  let levels := num hd 10 1
  let ds := levelDims levels (planeDims layout w ht)
  let offs := (List.range levels).map (fun k => num hd (32 + 4 * k) 4)
  let fits := (offs.zip ds).all (fun x => decide (x.1 + levelBytes depth x.2 ≤ size))
  if w = 0 || ht == 0 || !(depth == 8 || depth == 10 || depth == 16) || decide (layout > 7) || levels == 0 || decide (levels > 8) || !fits
  then pure (none, tg)
  else do
    let (ls, t2) ← readLevels h slot t n depth (offs.zip ds)
    pure (some { depth := depth, layout := layout, key := (num hd 11 1).testBit 0, frame := num hd 12 4, sample := num hd 16 8,
                 levels := ls }, tagOr tg t2)

/-! ## The pyramid (R294) -/

/-- A saturating INT32 sum of weighted INT16 samples in order (R90). -/
def imacSum (l : List (Int × Int)) : Int × Bool :=
  l.foldl (fun a x => let r := satInt 32 (a.1 + x.1 * x.2); (r.1, a.2 || r.2)) (0, false)

/-- The filter's coefficients (R294). -/
def pyrC : List Int := [1, 3, 3, 1]

/-- One sample of the next level with its saturations (R294). -/
def pyrAt (depth : Nat) (p : Plane) (y x : Nat) : Nat × Bool :=
  let taps := (List.range 4).flatMap (fun i => (List.range 4).map (fun j =>
    (((pyrC[i]?).getD 0) * ((pyrC[j]?).getD 0),
     sample16 (depth > 8) (p.at' (2 * Int.ofNat y + Int.ofNat i - 1) (2 * Int.ofNat x + Int.ofNat j - 1)))))
  let a := imacSum (taps.map (fun t => (t.1, t.2.1)))
  let r := narrow 6 true a.1
  (r.1.toNat, a.2 || r.2 || taps.any (fun t => t.2.2))

/-- The next level of a plane, and how many of its samples saturated. -/
def pyrPlane (depth : Nat) (p : Plane) : Plane × Nat :=
  let w := halfUp p.w
  let h := halfUp p.h
  let vs := (List.range h).flatMap (fun y => (List.range w).map (fun x => pyrAt depth p y x))
  ({ w := w, h := h, px := vs.map (·.1) }, (vs.filter (·.2)).length)

/-- The levels built from level 0, and the saturations. -/
def pyramid (depth : Nat) : Nat → List Plane → List (List Plane) × Nat
  | 0, _ => ([], 0)
  | 1, l => ([l], 0)
  | n + 2, l =>
    let q := l.map (pyrPlane depth)
    let r := pyramid depth (n + 1) (q.map (·.1))
    (l :: r.1, (q.map (·.2)).foldl (· + ·) 0 + r.2)

/-- One slot of MEDIA.PYRAMID. -/
def pyramidSlot (h : Here) (o : Opnd) (a b : Ten) (levels n : Nat) : Act Unit := do
  let (x, tg) ← readSlot h 0 a n
  match x with
  | none => putSlot h 1 b n tg emptyCells
  | some x => do
    let r := pyramid x.depth levels (x.levels.headD [])
    let d := x.dims
    need (decide (slotSize x.depth x.layout d.1 d.2 levels ≤ (b.dims[0]?).getD 0)) cShape 1
    putSlot h 1 b n tg { x with levels := r.1 }.cells
    cropCount h (((r.1.drop 1).map (fun l => (l.map (fun p => p.px.length)).foldl (· + ·) 0)).foldl (· + ·) 0)
    bump h o (fun c => { c with saturated := sat32 c.saturated r.2 })

/-- MEDIA.PYRAMID (R294). -/
def doPyramid (h : Here) : Act Unit := do
  need (h.w.form == 0) cForm 0
  needFields h 0 0xF
  needNone h 2
  need (decide (1 ≤ h.w.imm) && decide (h.w.imm ≤ 8)) cReserved 0
  let (_, a) ← slotsOpnd h 0 false
  let (o, b) ← slotsOpnd h 1 true
  let n := (a.dims[1]?).getD 0
  need (n == (b.dims[1]?).getD 0) cShape 1
  for k in List.range n do
    pyramidSlot h o a b h.w.imm k
  bump h o (fun c => { c with elements := sat32 c.elements (volume b.dims) })

/-- MEDIA.PYRAMID (R294). -/
def execMediaPyramid (c i : Nat) (s : State) : Host.Outcome State Fault Refusal :=
  onUnit (clusterOk c) "cluster" s (runMedia (fun w => w.op == 0x242) doPyramid fillOut c i s)

/-! ## Crops (R295 to R298) -/

/-- A crop record (R295). -/
structure CropRec where
  mode   : Nat
  colour : Nat
  epoch  : Nat
  key    : Nat
  ow     : Nat
  oh     : Nat
  x0     : Nat
  y0     : Nat
  cw     : Nat
  ch     : Nat
  smin   : Nat
  smax   : Nat
  flipP  : Nat
  dmin   : Int
  dmax   : Int
  deriving DecidableEq, Repr

/-- A crop record of the constant pool, checked (R295); none where it lies outside or a field is out of range. -/
def parseCrop (p : Bytes) (off : Nat) : Option CropRec :=
  let at' := hConstOff p + off
  if off % 16 != 0 || decide (off + 32 > hConstBytes p) then none else
  let r : CropRec := { mode := num p at' 1, colour := num p (at' + 1) 1, epoch := num p (at' + 2) 1, key := num p (at' + 4) 2,
                       ow := num p (at' + 6) 2, oh := num p (at' + 8) 2, x0 := num p (at' + 10) 2, y0 := num p (at' + 12) 2,
                       cw := num p (at' + 14) 2, ch := num p (at' + 16) 2, smin := num p (at' + 18) 2, smax := num p (at' + 20) 2,
                       flipP := num p (at' + 22) 4, dmin := sext 16 (num p (at' + 26) 2), dmax := sext 16 (num p (at' + 28) 2) }
  let base := decide (r.mode < 2) && decide (r.colour < 3) && num p (at' + 3) 1 == 0 && num p (at' + 30) 2 == 0
    && decide (1 ≤ r.ow) && decide (r.ow ≤ 16384) && decide (1 ≤ r.oh) && decide (r.oh ≤ 16384)
  let rest := if r.mode = 0 then r.epoch == 0xFF
    else decide (r.epoch < 8) && decide (1 ≤ r.smin) && decide (r.smin ≤ r.smax) && decide (r.smax ≤ 256) && decide (r.dmin ≤ r.dmax)
  if base && rest then some r else none

/-- The geometry of one crop: rectangle, flip and brightness offset. -/
structure CropGeo where
  x0    : Nat
  y0    : Nat
  cw    : Nat
  ch    : Nat
  flip  : Bool
  delta : Int
  deriving DecidableEq, Repr

/-- A rectangle clamped to the picture; CW 0 is the whole picture (R295). -/
def clampRect (x0 y0 cw ch w h : Nat) : CropGeo :=
  if cw = 0 then { x0 := 0, y0 := 0, cw := w, ch := h, flip := false, delta := 0 }
  else
    let x := min x0 (w - 1)
    let y := min y0 (h - 1)
    { x0 := x, y0 := y, cw := max 1 (min (x0 + cw) w - x), ch := max 1 (min (y0 + ch) h - y), flip := false, delta := 0 }

/-- The augmentation of one crop (R297). -/
def augment (r : CropRec) (key : Quad) (sample epoch w h : Nat) : CropGeo :=
  let o := quill key (BitVec.ofNat 32 (2 * 2 ^ 30)) sample epoch
  let q1 := (quill key (BitVec.ofNat 32 (2 * 2 ^ 30 + 1)) sample epoch).1.toNat
  let q2 := (quill key (BitVec.ofNat 32 (2 * 2 ^ 30 + 2)) sample epoch).1.toNat
  let sz := r.smin + (o.1.toNat / 65536) * (r.smax - r.smin + 1) / 65536
  let cw := max 1 (w * sz / 256)
  let ch := max 1 (h * sz / 256)
  { x0 := (o.2.1.toNat % 65536) * (w - cw + 1) / 65536, y0 := (o.2.1.toNat / 65536) * (h - ch + 1) / 65536, cw := cw, ch := ch,
    flip := decide (q1 < r.flipP),
    delta := r.dmin + Int.ofNat ((q2 / 65536) * (r.dmax - r.dmin + 1).toNat / 65536) }

/-- The level of a crop: the largest below `levels` whose samples are not finer than the output's, else 0 (R295). -/
def cropLevel (cw ch ow oh levels : Nat) : Nat :=
  ((List.range levels).reverse.find? (fun l => decide (cw ≥ ow * 2 ^ l) && decide (ch ≥ oh * 2 ^ l))).getD 0

/-- One resampled sample of a plane (R296), with its saturation. -/
def cropAt (depth : Nat) (p : Plane) (g : CropGeo) (ow oh sx sy u v : Nat) : Int × Bool :=
  let qx := Int.ofNat ((2 * g.x0 * ow + (2 * u + 1) * g.cw) * 65536 / (2 * ow * 2 ^ sx)) - 32768
  let qy := Int.ofNat ((2 * g.y0 * oh + (2 * v + 1) * g.ch) * 65536 / (2 * oh * 2 ^ sy)) - 32768
  let ix := qx / 65536
  let iy := qy / 65536
  let fx := (qx % 65536) / 512
  let fy := (qy % 65536) / 512
  let tap := fun y x => sample16 (depth > 8) (p.at' y x)
  let a := tap iy ix
  let b := tap iy (ix + 1)
  let c := tap (iy + 1) ix
  let d := tap (iy + 1) (ix + 1)
  let acc := imacSum [((128 - fx) * (128 - fy), a.1), (fx * (128 - fy), b.1), ((128 - fx) * fy, c.1), (fx * fy, d.1)]
  let r := narrow 14 true acc.1
  (r.1, acc.2 || r.2 || a.2 || b.2 || c.2 || d.2)

/-- A value clamped to the samples of a depth (R298). -/
def clampTo (depth : Nat) (v : Int) : Int := max 0 (min v (2 ^ depth - 1))

/-- The colour coefficients (R298). -/
def colourK (colour : Nat) : Int × Int × Int × Int × Int :=
  if colour = 1 then (9539, 13075, 3209, 6660, 16525) else (9539, 14686, 1747, 4366, 17305)

/-- Y, Cb and Cr at one position as R, G and B (R298). -/
def toRgb (colour depth : Nat) (y cb cr : Int) : List (Int × Bool) :=
  let k := colourK colour
  let one : Int := 2 ^ (depth - 8)
  let y := y - 16 * one
  let u := cb - 128 * one
  let v := cr - 128 * one
  let fin := fun (l : List (Int × Int)) =>
    let a := imacSum l
    let r := narrow 13 true a.1
    (clampTo depth r.1, a.2 || r.2)
  [fin [(k.1, y), (k.2.1, v)], fin [(k.1, y), (-k.2.2.1, u), (-k.2.2.2.1, v)], fin [(k.1, y), (k.2.2.2.2, u)]]

/-- A finished sample in the output format (R298). -/
def cropCode (fmt depth : Nat) (v : Int) : Nat × Bool :=
  if fmt = fUint16 then (v.toNat, false)
  else if fmt = fUint8 then
    let r := narrow (depth - 8) true v
    (r.1.toNat % 256 + (if r.1 > 255 then 255 - r.1.toNat % 256 else 0), r.2)
  else ((encFp false (.fin false v.toNat (-(Int.ofNat depth)))).bits, false)

/-- The channels of one output position of a slot, resampled and finished but for flip and format. -/
def cropPixel (x : Slot) (colour : Nat) (g : CropGeo) (level : Nat) (planes : List Plane) (ow oh u v : Nat) : List (Int × Bool) :=
  let subs := planeSubs x.layout
  let raw := (planes.zip subs).map (fun p => cropAt x.depth p.1 g ow oh (level + b2n p.2.1) (level + b2n p.2.2) u v)
  let yuv := x.layout == 1 || x.layout == 2 || x.layout == 3
  let bright := fun (k : Nat) (v : Int × Bool) => if k > 0 then v else (clampTo x.depth (v.1 + g.delta), v.2)
  let brightAll := fun (k : Nat) (v : Int × Bool) => if k > 2 then v else (clampTo x.depth (v.1 + g.delta), v.2)
  if yuv && colour != 0 then
    match raw with
    | [a, b, c] => ((toRgb colour x.depth a.1 b.1 c.1).map (fun r => (r.1, r.2 || a.2 || b.2 || c.2))).mapIdx brightAll
    | _ => raw
  else if x.layout = 4 ∨ x.layout = 5 then raw.mapIdx brightAll
  else if x.layout = 7 then raw
  else raw.mapIdx bright

/-- One crop in the order of R134: channel, row, column; channels beyond the slot's are +0. -/
def cropOut (x : Slot) (colour fmt : Nat) (g : CropGeo) (level : Nat) (planes : List Plane) (ow oh chans : Nat) : List (Nat × Bool) :=
  let px := (List.range oh).flatMap (fun v => (List.range ow).map (fun u =>
    cropPixel x colour g level planes ow oh (if g.flip then ow - 1 - u else u) v))
  (List.range chans).flatMap (fun k => px.map (fun l =>
    match l[k]? with
    | none => (0, false)
    | some v => let c := cropCode fmt x.depth v.1; (c.1, c.2 || v.2)))

/-- The output of a crop: a TENSOR of UINT8, UINT16 or FP16 with DIMS (OW, OH, C, N) (R295). -/
def cropOpnd (h : Here) : Act (Opnd × Ten) := do
  let o ← opnd h 1 true
  match o.loc with
  | .area _ => skip cType 1
  | .ten t => do
    need (t.fmt == fUint8 || t.fmt == fUint16 || t.fmt == fFp16) cFormat 1
    need (t.dims.length == 4) cShape 3
    pure (o, t)

/-- The crops of every slot made by `f` (the codes of one crop, or none for an empty slot) and written with their counts (R298). -/
def cropAll (h : Here) (f : Slot → Act (List (Nat × Bool))) : Act Unit := do
  let (_, a) ← slotsOpnd h 0 false
  let (o, t) ← cropOpnd h
  let n := (t.dims[3]?).getD 0
  need (decide (n ≤ (a.dims[1]?).getD 0)) cShape 3
  let per := volume (t.dims.take 3)
  let mut es : List (Nat × Bool) := []
  let mut tags : List Nat := []
  let mut empties := 0
  for k in List.range n do
    let (x, tg) ← readSlot h 0 a k
    match x with
    | none =>
      es := es ++ List.replicate per (0, false)
      empties := empties + 1
    | some x => do
      let l ← f x
      es := es ++ l
    tags := tags ++ List.replicate per tg
  let nEmpty := empties
  let nSat := (es.filter (·.2)).length
  store h o (Arr.of t.fmt t.dims (es.map (·.1)) tags)
  cropCount h (per * n)
  bump h o (fun c => { c with emptyRows := sat32 c.emptyRows nEmpty, saturated := sat32 c.saturated nSat,
                              elements := sat32 c.elements (per * n) })

/-- The extents of the output must be the record's. -/
def needSize (h : Here) (ow oh : Nat) : Act Unit := do
  let (_, t) ← cropOpnd h
  need ((t.dims[0]?).getD 0 == ow) cShape 0
  need ((t.dims[1]?).getD 0 == oh) cShape 1

/-- The key of MODE 1 (R295, R297). -/
def cropKey (h : Here) (r : CropRec) : Act Quad :=
  if r.mode = 0 then pure (0#32, 0#32, 0#32, 0#32)
  else if r.key = noDesc then skip cKey 0
  else if r.key ≥ hDescCount h.prog then skip cDesc 3
  else match parseKey (descAt h.prog r.key) with
    | some (k, 2) => pure (quadOf k)
    | _ => skip cDesc 3

/-- MEDIA.CROP (R295 to R298). -/
def doCrop (h : Here) : Act Unit := do
  need (h.w.form == 0) cForm 0
  needFields h 0 0xFFFFFFFF
  needNone h 2
  match parseCrop h.prog h.w.imm with
  | none => skip cDesc 3
  | some r => do
    let key ← cropKey h r
    needSize h r.ow r.oh
    let (_, t) ← cropOpnd h
    cropAll h (fun x => do
      let d := x.dims
      let g := if r.mode = 0 then clampRect r.x0 r.y0 r.cw r.ch d.1 d.2 else augment r key x.sample (h.arg r.epoch) d.1 d.2
      let l := cropLevel g.cw g.ch r.ow r.oh x.levels.length
      pure (cropOut x r.colour t.fmt g l ((x.levels[l]?).getD []) r.ow r.oh ((t.dims[2]?).getD 0)))

/-- MEDIA.CROP (R295). -/
def execMediaCrop (c i : Nat) (s : State) : Host.Outcome State Fault Refusal :=
  onUnit (clusterOk c) "cluster" s (runMedia (fun w => w.op == 0x243) doCrop fillOut c i s)

/-! ## LVA-4100 forms (R161, R299) -/

/-- The checks every LEGACY opcode shares. -/
def legacyHead (h : Here) (modMask immMask : Nat) : Act Unit := do
  need ((hFlags h.prog).testBit 0) cCompat 0
  need (h.w.form == 0) cForm 0
  needFields h modMask immMask
  needNone h 2

/-- The 16-byte record of LEGACY_CROP and LEGACY_RESIZE: X0, Y0, CW, CH, OW, OH (R299). -/
def legacyRec (h : Here) : Act (List Nat) := do
  let off := h.w.imm % 2 ^ 32
  let p := h.prog
  let l := (List.range 6).map (fun k => num p (hConstOff p + off + 2 * k) 2)
  need (decide (off + 16 ≤ hConstBytes p) && num p (hConstOff p + off + 12) 4 == 0
    && decide (1 ≤ (l[4]?).getD 0) && decide ((l[4]?).getD 0 ≤ 16384) && decide (1 ≤ (l[5]?).getD 0) && decide ((l[5]?).getD 0 ≤ 16384)) cDesc 3
  pure l

/-- Source samples moved unchanged: `f` gives the source column and row of an output position; a subsampled plane gives the sample that
covers it (R299, log entry 24). -/
def movePixels (x : Slot) (fmt ow oh chans : Nat) (f : Nat → Nat → Nat × Nat) : List (Nat × Bool) :=
  let ps := (x.levels.headD []).zip (planeSubs x.layout)
  (List.range chans).flatMap (fun k => (List.range oh).flatMap (fun v => (List.range ow).map (fun u =>
    match ps[k]? with
    | none => (0, false)
    | some (p, sx, sy) =>
      let q := f u v
      cropCode fmt x.depth (Int.ofNat (p.at' (Int.ofNat (if sy then q.2 / 2 else q.2)) (Int.ofNat (if sx then q.1 / 2 else q.1)))))))

/-- LEGACY_CROP (R299). -/
def doLegacyCrop (h : Here) : Act Unit := do
  legacyHead h 0 0xFFFFFFFF
  let l ← legacyRec h
  let at' := fun k => (l[k]?).getD 0
  need (at' 4 == at' 2) cShape 0
  need (at' 5 == at' 3) cShape 1
  needSize h (at' 4) (at' 5)
  let (_, t) ← cropOpnd h
  cropAll h (fun x => pure (movePixels x t.fmt (at' 4) (at' 5) ((t.dims[2]?).getD 0) (fun u v => (at' 0 + u, at' 1 + v))))

/-- LEGACY_RESIZE: a pyramid built from level 0 to the level the crop takes, then the crop with COLOUR 0 (R161, R299). -/
def doLegacyResize (h : Here) : Act Unit := do
  legacyHead h 0 0xFFFFFFFF
  let l ← legacyRec h
  let at' := fun k => (l[k]?).getD 0
  needSize h (at' 4) (at' 5)
  let (_, t) ← cropOpnd h
  cropAll h (fun x => do
    let d := x.dims
    let g := clampRect (at' 0) (at' 1) (at' 2) (at' 3) d.1 d.2
    let lev := cropLevel g.cw g.ch (at' 4) (at' 5) 8
    let p := pyramid x.depth (lev + 1) (x.levels.headD [])
    pure (cropOut x 0 t.fmt g lev ((p.1[lev]?).getD []) (at' 4) (at' 5) ((t.dims[2]?).getD 0)))

/-- LEGACY_FLIP (R299): modifier bit 0 chooses the axis. -/
def doLegacyFlip (h : Here) : Act Unit := do
  legacyHead h 1 0
  let (_, t) ← cropOpnd h
  let ow := (t.dims[0]?).getD 0
  let oh := (t.dims[1]?).getD 0
  cropAll h (fun x => do
    need (x.dims.1 == ow) cShape 0
    need (x.dims.2 == oh) cShape 1
    pure (movePixels x t.fmt ow oh ((t.dims[2]?).getD 0)
      (fun u v => if h.w.mod.testBit 0 then (u, oh - 1 - v) else (ow - 1 - u, v))))

/-- LEGACY_ROTATE (R161, R299): quarter turns counter-clockwise. -/
def doLegacyRotate (h : Here) : Act Unit := do
  legacyHead h 0 3
  let (_, t) ← cropOpnd h
  let ow := (t.dims[0]?).getD 0
  let oh := (t.dims[1]?).getD 0
  let turn := h.w.imm % 4
  cropAll h (fun x => do
    let w := x.dims.1
    let ht := x.dims.2
    need ((if turn % 2 = 0 then w else ht) == ow) cShape 0
    need ((if turn % 2 = 0 then ht else w) == oh) cShape 1
    pure (movePixels x t.fmt ow oh ((t.dims[2]?).getD 0) (fun u v =>
      if turn = 0 then (u, v) else if turn = 1 then (w - 1 - v, u) else if turn = 2 then (w - 1 - u, ht - 1 - v) else (v, ht - 1 - u))))

/-- LEGACY_CROP (R299). -/
def execLegacyCrop (c i : Nat) (s : State) : Host.Outcome State Fault Refusal :=
  onUnit (clusterOk c) "cluster" s (runMedia (fun w => w.op == 0x250) doLegacyCrop fillOut c i s)

/-- LEGACY_RESIZE (R299). -/
def execLegacyResize (c i : Nat) (s : State) : Host.Outcome State Fault Refusal :=
  onUnit (clusterOk c) "cluster" s (runMedia (fun w => w.op == 0x251) doLegacyResize fillOut c i s)

/-- LEGACY_FLIP (R299). -/
def execLegacyFlip (c i : Nat) (s : State) : Host.Outcome State Fault Refusal :=
  onUnit (clusterOk c) "cluster" s (runMedia (fun w => w.op == 0x252) doLegacyFlip fillOut c i s)

/-- LEGACY_ROTATE (R299). -/
def execLegacyRotate (c i : Nat) (s : State) : Host.Outcome State Fault Refusal :=
  onUnit (clusterOk c) "cluster" s (runMedia (fun w => w.op == 0x253) doLegacyRotate fillOut c i s)

end Sys2Proof.Machine
end

