-- ==== Sys2Proof/Machine/Packing.lean ====
section
/-! DEFINITION. MEDIA.PACK (R304, R305) and MEDIA.ENCODE (R301 to R303). -/

namespace Sys2Proof.Machine

/-- A STREAM descriptor of a kind in OP_A (R281): a reserved kind is inconsistent, another kind is another operand. -/
def streamOpnd (h : Here) (kind : Nat) : Act Bytes := do
  let d ← descOf h h.w.a 0
  need (num d 0 1 == dtStream) cType 0
  need (decide (num d 1 1 < 3)) cDesc 0
  need (num d 1 1 == kind) cType 0
  pure d

/-- An output TENSOR that a STREAM names, with a format and a number of elements. -/
def streamOut (h : Here) (ix fmt : Nat) (ok : Ten → Bool) : Act (Opnd × Ten) := do
  let o ← opndAt h ix 0 true
  match o.loc with
  | .area _ => skip cType 0
  | .ten t => do
    need (t.fmt == fmt) cFormat 0
    need (ok t) cShape 0
    pure (o, t)

/-- Elements written to an output TENSOR in element order, with the count of elements. -/
def putElems (h : Here) (o : Opnd) (t : Ten) (es tags : List Nat) : Act Unit := do
  store h o (Arr.of t.fmt t.dims es tags)
  bump h o (fun c => { c with elements := sat32 c.elements es.length })

/-! ## Packing (R304, R305) -/

/-- A list entry (R304). -/
structure PackEntry where
  sample : Nat
  source : Nat
  length : Nat
  deriving DecidableEq, Repr

/-- A segment of a row: a sample's, or padding when it has no source (R305). -/
structure PackSeg where
  row    : Nat
  start  : Nat
  len    : Nat
  mark   : Nat
  sample : Nat
  source : Option Nat
  cut    : Bool
  deriving DecidableEq, Repr

/-- How far the packer has come (R305). -/
structure Packer where
  row    : Nat
  used   : Nat
  segs   : Nat
  packed : Nat
  halted : Bool
  out    : List PackSeg
  deriving DecidableEq, Repr

/-- The SAMPLE of a padding segment (R305). -/
def padSample : Nat := 2 ^ 64 - 1

/-- A row closed: a padding segment where positions remain (R305). -/
def Packer.close (p : Packer) (L : Nat) : Packer :=
  let pad : PackSeg := { row := p.row, start := p.used, len := L - p.used, mark := p.segs, sample := padSample, source := none, cut := false }
  { p with row := p.row + 1, used := 0, segs := 0, out := if p.used < L then p.out ++ [pad] else p.out }

/-- One entry of the list (R305). -/
def Packer.take (L maxRows : Nat) (p : Packer) (e : PackEntry) : Packer :=
  if p.halted then p else
  let n := min e.length L
  let p := if n > 0 && (decide (p.used + n > L) || p.segs == 4095) then p.close L else p
  if p.row = maxRows then { p with halted := true }
  else if n = 0 then { p with packed := p.packed + 1 }
  else
    let g : PackSeg := { row := p.row, start := p.used, len := n, mark := p.segs, sample := e.sample, source := some e.source,
                         cut := decide (n < e.length) }
    { p with used := p.used + n, segs := p.segs + 1, packed := p.packed + 1, out := p.out ++ [g] }

/-- The remaining rows closed (R305). -/
def Packer.finish (L : Nat) : Nat → Packer → Packer
  | 0, p => p
  | n + 1, p => (p.close L).finish L n

/-- The rows that a list fills (R305). -/
def pack (L maxRows : Nat) (es : List PackEntry) : Packer :=
  let p := es.foldl (Packer.take L maxRows) { row := 0, used := 0, segs := 0, packed := 0, halted := false, out := [] }
  p.finish L (maxRows - p.row)

/-- The entry of a segment in its row's segment table (R305). -/
def segBytes (g : PackSeg) : Bytes := leBytes 8 g.sample ++ leBytes 4 g.start ++ leBytes 4 (g.len + (if g.cut then 2 ^ 31 else 0))

/-- The elements of a segment, read from its source, or +0 for padding. -/
def segData (h : Here) (es per : Nat) (g : PackSeg) : Act (List (Nat × Nat)) :=
  match g.source with
  | none => pure (List.replicate (g.len * per) (0, 0))
  | some a => do
    let (bs, tg) ← medRead h 9 a (g.len * per * es)
    pure ((chunks (bs.length + 1) es bs).map (fun b => (leNat b, tg)))

/-- MEDIA.PACK (R304, R305). -/
def doPack (h : Here) : Act Unit := do
  need (h.w.form == 0) cForm 0
  needFields h 0 0
  needNone h 2
  let d ← streamOpnd h 2
  let fmt := num d 2 1
  let L := num d 4 4
  let rows := num d 8 4
  let per := num d 12 2
  need (decide (fmt ≤ 7) && decide (1 ≤ L) && decide (L ≤ 1048576) && decide (1 ≤ per) && num d 14 2 == 0
    && num d 16 8 % 32 == 0 && allZero (sub d 36 92)) cDesc 0
  match pickArg h.args (num d 3 1) (num d 24 4) with
  | none => skip cDesc 0
  | some count => do
    let o ← opnd h 1 true
    match o.loc with
    | .area _ => skip cType 1
    | .ten t => do
      need (t.fmt == fmt) cFormat 1
      need (t.dims == [per, L, rows]) cShape (axisOf t.dims [per, L, rows])
      let (om, tm) ← streamOut h (num d 28 2) fUint16 (fun x => x.dims == [L, rows])
      let (op, tp) ← streamOut h (num d 30 2) fInt32 (fun x => x.dims == [L, rows])
      let (os, ts) ← streamOut h (num d 32 2) fUint8 (fun x => volume x.dims == 65536 * rows)
      let (ores, tr) ← streamOut h (num d 34 2) fUint8 (fun x => volume x.dims == 16)
      let (lb, _) ← medRead h 9 (num d 16 8) (32 * count)
      let p := pack L rows ((List.range count).map (fun k =>
        { sample := num lb (32 * k) 8, source := num lb (32 * k + 8) 8, length := num lb (32 * k + 16) 4 }))
      let mut es : List (Nat × Nat) := []
      for g in p.out do
        let l ← segData h (elemSize fmt) per g
        es := es ++ l
      putElems h o t (es.map (·.1)) (es.map (·.2))
      let marks := p.out.flatMap (fun g => List.replicate g.len g.mark)
      putElems h om tm marks (marks.map (fun _ => 0))
      let poss := p.out.flatMap (fun g => List.range g.len)
      putElems h op tp poss (poss.map (fun _ => 0))
      let tab := (List.range rows).flatMap (fun r =>
        let b := ((p.out.filter (fun g => g.row == r)).map segBytes).flatten
        (b ++ List.replicate (65536 - b.length) 0#8).map (·.toNat))
      putElems h os ts tab (tab.map (fun _ => 0))
      let mine := p.out.filter (fun g => g.source.isSome)
      let res := leBytes 4 p.packed ++ leBytes 4 ((mine.map (·.row)).eraseDups).length ++ leBytes 4 (mine.filter (·.cut)).length ++ leBytes 4 0
      putElems h ores tr (res.map (·.toNat)) (res.map (fun _ => 0))

/-- The fill of every output of a skipped MEDIA.PACK (R159). -/
def packFill (h : Here) : Act Unit := do
  fillAt h h.w.b 1 []
  let d := descAt h.prog h.w.a
  if h.w.a < hDescCount h.prog ∧ num d 0 2 = dtStream + 256 * 2 then
    for k in [28, 30, 32, 34] do
      fillAt h (num d k 2) 0 []

/-- MEDIA.PACK (R304). -/
def execMediaPack (c i : Nat) (s : State) : Host.Outcome State Fault Refusal :=
  onUnit (clusterOk c) "cluster" s (runMedia (fun w => w.op == 0x244) doPack packFill c i s)

/-! ## Encoding (R301 to R303) -/

/-- A media report (R291). -/
structure MedReport where
  stamp     : BitVec 64
  sample    : Nat
  delivered : Nat
  units     : Nat
  frames    : Nat
  status    : Nat
  reason    : Nat
  detail    : Nat
  attempts  : Nat
  flags     : Nat
  deriving DecidableEq, Repr

/-- The 64 bytes of a report. -/
def MedReport.bytes (r : MedReport) : Bytes :=
  leBytes 8 r.stamp.toNat ++ leBytes 8 r.sample ++ leBytes 8 r.delivered ++ leBytes 4 r.units ++ leBytes 2 r.frames ++ leBytes 1 r.status
    ++ leBytes 1 r.reason ++ leBytes 4 r.detail ++ leBytes 1 r.attempts ++ leBytes 1 r.flags ++ leBytes 26 0

/-- The statuses of a report (R14, R291). -/
def mEmpty : Nat := 0x01
def mDim : Nat := 0x04
def mDamaged : Nat := 0x05
def mBudget : Nat := 0x06

/-- The reasons of R290. -/
def rSyntax : Nat := 0x01
def rTruncated : Nat := 0x02
def rUnsupported : Nat := 0x03
def rNoKey : Nat := 0x04
def rMissing : Nat := 0x05
def rInput : Nat := 0x08
def rWidth : Nat := 0x10
def rHeight : Nat := 0x11
def rSlot : Nat := 0x12
def rWork : Nat := 0x13
def rBudget : Nat := 0x20
def rFull : Nat := 0x30
def rReset : Nat := 0x31

/-- A stopped stream: MED_FAULTS, the event, and the count of stopped streams (R45, R54, R290, R306). -/
def State.medStop (s : State) (hub ctx unit stream status : Nat) : State :=
  let s := s.medFault hub 0
  let s := if unit < 16 then s.count 7 hub unit 2 1 else s
  s.event hub kMediaStopped ctx unit (BitVec.ofNat 8 status) (leBytes 2 stream)

/-- A report's first 64 bytes of a TENSOR from byte `off` of its elements in order. -/
def putReport (h : Here) (o : Opnd) (t : Ten) (bs : Bytes) : Act Unit := do
  let s ← get
  match tenKeys s h o.slot t with
  | .error e => halt e
  | .ok ks => writeKeys h (((ks.take bs.length).zip bs).map (fun x => (x.1, x.2.toNat, 0)))

/-- An output TENSOR of the command that begins at an address (R301). -/
def outAt (h : Here) (a : Nat) : Option (Nat × Ten) :=
  h.cmd.outs.findSome? (fun ix =>
    if ix < hDescCount h.prog ∧ num (descAt h.prog ix) 0 1 = dtTensor then
      match parseTen (descAt h.prog ix) h.args with
      | some t => if t.base = a ∧ t.access.testBit 2 then some (ix, t) else none
      | none => none
    else none)

/-- Bytes of an ENCODE stream written at `off` of the output TENSOR that begins at an address, with their count of elements (R95, R303). -/
def encodeOut (h : Here) (engine a off : Nat) (bs : Bytes) (tag : Nat) : Act Unit := do
  medWrite h engine (a + off) bs tag
  match outAt h a with
  | some (ix, t) => bumpElements h ix (bs.length / elemSize t.fmt)
  | none => pure ()

/-- An encode under way (R302, R303). -/
structure Enc where
  bitsEnd  : Nat
  indexEnd : Nat
  frames   : Nat
  since    : Nat
  fresh    : Bool
  refs     : Bytes
  work     : Bytes
  bits     : Bytes
  index    : Bytes
  units    : Nat
  done     : Nat
  stop     : Option Nat
  tag      : Nat
  deriving DecidableEq, Repr

/-- The state record that an encode starts from: an all-zero record, or one whose check fails, is a new stream (R303). -/
def Enc.start (record work : Bytes) : Enc × Bool :=
  let bad := !allZero record && Config.stateCheck (sub record 12 48) != BitVec.ofNat 32 (num record 60 4)
  let record := if bad then List.replicate 64 0#8 else record
  ({ bitsEnd := num record 0 8, indexEnd := num record 8 4, frames := num record 12 4, since := num record 16 4, fresh := allZero record,
     refs := sub record 20 40, work := work, bits := [], index := [], units := 0, done := 0, stop := none, tag := 0 }, bad)

/-- The state record that an encode leaves. -/
def Enc.record (e : Enc) : Bytes :=
  let tail := leBytes 4 e.frames ++ leBytes 4 e.since ++ sub e.refs 0 40
  leBytes 8 e.bitsEnd ++ leBytes 4 e.indexEnd ++ tail ++ leBytes 4 (Config.stateCheck tail).toNat

/-- One picture encoded, or the stop before it (R302, R303). -/
def Enc.picture (d : Bytes) (first : Bool) (e : Enc) (x : Option Slot) (tag : Nat) : Enc :=
  if e.stop.isSome then e else
  match x with
  | none => { e with stop := some rInput }
  | some x =>
    if x.layout ≠ 1 ∨ x.dims ≠ (num d 4 2, num d 6 2) ∨ x.depth ≠ num d 3 1 then { e with stop := some rInput }
    else
      let every := num d 10 2
      let key := e.fresh || (first && e.done == 0) || (every != 0 && decide (e.since + 1 ≥ every))
      let p := Config.encodePicture d e.refs e.work key ((x.levels.headD []).map (·.px))
      if e.bitsEnd + p.bits.length > num d 32 8 ∨ e.indexEnd ≥ num d 48 4 then { e with stop := some rFull }
      else
        { e with bitsEnd := e.bitsEnd + p.bits.length, indexEnd := e.indexEnd + 1, frames := (e.frames + 1) % 2 ^ 32,
                 since := if key then 0 else (e.since + 1) % 2 ^ 32, fresh := false, refs := p.refs,
                 work := p.work.take e.work.length, bits := e.bits ++ p.bits,
                 index := e.index ++ leBytes 6 e.bitsEnd ++ leBytes 1 (b2n key) ++ leBytes 1 0 ++ leBytes 4 p.bits.length ++ leBytes 4 e.frames,
                 units := e.units + p.units, done := e.done + 1, tag := tagOr e.tag tag }

/-- An ENCODE descriptor's fields in range (R301). -/
def encodeOk (d : Bytes) : Bool :=
  let codec := num d 2 1
  let depth := num d 3 1
  let w := num d 4 2
  let ht := num d 6 2
  (codec == 1 || codec == 2) && (depth == 8 || (depth == 10 && codec == 2))
    && decide (16 ≤ w) && decide (w ≤ 8192) && w % 2 == 0 && decide (16 ≤ ht) && decide (ht ≤ 8192) && ht % 2 == 0
    && (codec == 2 || (decide (num d 8 1 ≤ 51) && decide (num d 9 1 ≤ 51))) && num d 12 4 == 0
    && num d 52 8 % 2 ^ 21 == 0 && decide (num d 60 4 ≥ 5 * levelBytes depth (planeDims 1 w ht)) && allZero (sub d 66 62)

/-- MEDIA.ENCODE (R301 to R303). -/
def doEncode (h : Here) : Act Unit := do
  need (h.w.form == 0) cForm 0
  needFields h 0x1F 0
  needNone h 2
  let d ← streamOpnd h 1
  need (encodeOk d) cDesc 0
  need (h.cmd.outs.contains h.w.a && (outAt h (num d 16 8)).isSome && (outAt h (num d 24 8)).isSome
    && (outAt h (num d 40 8)).isSome) cNotOut 0
  let (orep, trep) ← do
    let o ← opndAt h (num d 64 2) 0 true
    match o.loc with
    | .area _ => skip cType 0
    | .ten t => do
      need (decide (volume t.dims * elemSize t.fmt ≥ 64)) cDesc 0
      pure (o, t)
  let (_, a) ← slotsOpnd h 1 false
  let hub := medHub h.lead
  let pick ← (fun s => .ok (s.drawBool) : Act Bool)
  let engine := if pick then 4 else 5
  let (record, t0) ← medRead h engine (num d 16 8) 64
  let (work, t1) ← medRead h engine (num d 52 8) (num d 60 4)
  let (e0, reset) := Enc.start record work
  let first := h.w.mod.testBit 0 || (h.w.mod.testBit 1 && h.arg (h.w.mod / 4 % 8) != 0)
  let mut e := { e0 with tag := tagOr t0 t1 }
  for k in List.range ((a.dims[1]?).getD 0) do
    let (x, tg) ← readSlot h 1 a k
    e := Enc.picture d first e x tg
  encodeOut h engine (num d 24 8) e0.bitsEnd e.bits e.tag
  encodeOut h engine (num d 40 8) (16 * e0.indexEnd) e.index 0
  medWrite h engine (num d 52 8) e.work e.tag
  encodeOut h engine (num d 16 8) 0 e.record e.tag
  let (dl, now) ← (fun s => let r := s.draw; .ok ((r.1, r.2.dieNow hub), r.2) : Act (Nat × BitVec 64))
  let bad := e.stop == some rInput
  let rep : MedReport :=
    { stamp := now, sample := e0.frames, delivered := dl, units := e.units, frames := e.done, status := if bad then mDamaged else 0,
      reason := match e.stop with
        | some r => r
        | none => if reset then rReset else 0
      detail := if e.stop.isSome then e.bitsEnd else 0, attempts := 0, flags := if e.done < (a.dims[1]?).getD 0 then 4 else 0 }
  putReport h orep trep rep.bytes
  bumpElements h orep.ix (64 / elemSize trep.fmt)
  let n := e.done
  let units := e.units
  let px := num d 4 2 * num d 6 2
  modify (fun s => (s.count 7 hub engine 0 units).count 7 hub engine 1 (n * px))
  let r ← getRun h
  modify (fun s => if reset then s.medFault hub 2 else s)
  modify (fun s => if bad then s.medStop hub r.ctx engine 0 mDamaged else s)
  putRun h (fun r => { r with damaged := r.damaged || bad })

/-- A skipped MEDIA.ENCODE fills its REPORT and leaves the buffers that its STREAM names by address as they were (log entry 25). -/
def encodeFill (h : Here) : Act Unit := do
  let d := descAt h.prog h.w.a
  if h.w.a < hDescCount h.prog ∧ num d 0 2 = dtStream + 256 then fillAt h (num d 64 2) 0 []

/-- MEDIA.ENCODE (R302). -/
def execMediaEncode (c i : Nat) (s : State) : Host.Outcome State Fault Refusal :=
  onUnit (clusterOk c) "cluster" s (runMedia (fun w => w.op == 0x241) doEncode encodeFill c i s)

end Sys2Proof.Machine
end

