-- ==== Sys2Proof/Machine/Streams.lean ====
section
/-! DEFINITION. MEDIA.DECODE and its streams: samples, pictures, budgets and replacement (R280 to R293), audio features (R300), and the
weights of the media engines (R286, R306). -/

namespace Sys2Proof.Machine

/-! ## The descriptor and the sample table (R281, R282) -/

/-- A DECODE descriptor with its arguments bound (R281). -/
structure Dec where
  samples : Nat
  levels  : Nat
  table   : Nat
  reserve : Nat
  rcount  : Nat
  listId  : Nat
  budget  : Nat
  rmax    : Nat
  epoch   : Nat
  key     : Quad
  maxW    : Nat
  maxH    : Nat
  bytes   : Nat
  work    : Nat
  room    : Nat
  report  : Nat
  bins    : Nat
  deriving DecidableEq, Repr

/-- The key of replacements: a KEY descriptor of purpose 3, or none where nothing is replaced (R281). -/
def decKey (p : Bytes) (ix rmax : Nat) : Option Quad :=
  if ix = noDesc then (if rmax = 0 then some (0#32, 0#32, 0#32, 0#32) else none)
  else if ix ≥ hDescCount p then none
  else match parseKey (descAt p ix) with
    | some (k, 3) => some (quadOf k)
    | _ => none

/-- A DECODE descriptor checked (R281); none where it is inconsistent. -/
def parseDec (h : Here) (d : Bytes) : Option Dec := do
  let samples ← pickArg h.args (num d 2 1) (num d 4 4)
  let rmax := num d 36 1
  let key ← decKey h.prog (num d 38 2) rmax
  let bins := num d 62 1
  if num d 3 1 = 0 ∨ num d 3 1 > 8 ∨ samples > 65536 ∨ num d 8 8 % 64 ≠ 0 ∨ num d 16 8 % 64 ≠ 0 ∨ num d 28 4 ≥ 2 ^ 30 ∨ rmax > 15
      ∨ num d 37 1 ≥ 8 ∨ (rmax > 0 ∧ num d 24 4 = 0) then none
  else if num d 40 2 = 0 ∨ num d 40 2 > 16384 ∨ num d 42 2 = 0 ∨ num d 42 2 > 16384 ∨ num d 44 4 % 64 ≠ 0 ∨ num d 48 8 % 2 ^ 21 ≠ 0
      ∨ ¬(bins = 0 ∨ bins = 64 ∨ bins = 80 ∨ bins = 128) ∨ allZero (sub d 63 65) = false then none
  else some { samples := samples, levels := num d 3 1, table := num d 8 8, reserve := num d 16 8, rcount := num d 24 4, listId := num d 28 4,
              budget := num d 32 4, rmax := rmax, epoch := h.arg (num d 37 1), key := key, maxW := num d 40 2, maxH := num d 42 2,
              bytes := num d 44 4, work := num d 48 8, room := num d 56 4, report := num d 60 2, bins := bins }

/-- A sample entry (R282). -/
structure SampleEntry where
  sample  : Nat
  data    : Nat
  bytes   : Nat
  auCount : Nat
  auIndex : Nat
  first   : Nat
  step    : Nat
  count   : Nat
  codec   : Nat
  deriving DecidableEq, Repr

/-- A sample entry's fields; none where they break their ranges (R282). -/
def parseSample (b : Bytes) : Option SampleEntry :=
  let e : SampleEntry :=
    { sample := num b 0 8, data := num b 8 8, bytes := num b 16 4, auCount := num b 20 4, auIndex := num b 24 8, first := num b 32 4,
      step := num b 36 2, count := num b 38 2, codec := num b 40 1 }
  if e.sample < 2 ^ 44 ∧ e.codec < 8 ∧ (e.codec < 3 → e.step ≠ 0) ∧ allZero (sub b 41 23) = true then some e else none

/-- How many slots an entry owns (R283). -/
def slotCount (b : Bytes) : Nat := if num b 40 1 < 3 then num b 38 2 else min 1 (num b 38 2)

/-- The engines that decode a codec; none for audio, which a control core decodes (R278). -/
def codecEngines (codec : Nat) : List Nat :=
  if codec < 3 then [0, 1, 2, 3] else if codec = 3 then [6] else if codec = 4 then [7] else []

/-! ## Engines (R286, R306) -/

/-- The weight of a context's turns, 0 acting as 1 (R306). -/
def State.medWeight (s : State) (hub ctx : Nat) : Nat := max 1 (s.cfg (dieAt hub) (.medShare ctx) 0 8)

/-- Whether another engine holds a stream as its present work. -/
def State.onOther (s : State) (x : Stream) (e : Nat) : Bool :=
  s.medBusy.any (fun b => b.hub == x.hub && b.engine != e && b.stream == some x.number)

/-- The engine that holds a stream as its present work. -/
def State.holder (s : State) (x : Stream) : Option MedBusy := s.medBusy.find? (fun b => b.hub == x.hub && b.stream == some x.number)

/-- The engine that reads what a stream needs: its own, the control core of a recording, or which engine no rule names (R278, R463). -/
def State.reader (s : State) (x : Stream) : Nat :=
  match s.holder x with
  | some b => b.engine
  | none => if (codecEngines (num x.entry 40 1)).isEmpty then byCore else byAny

/-- The streams an engine may take, in the order of opening. -/
def State.medOpen (s : State) (hub e : Nat) : List Stream :=
  s.streams.filter (fun x => x.hub == hub && (codecEngines (num x.entry 40 1)).contains e && !s.onOther x e)

/-- The stream an engine takes at a picture boundary: weighted round-robin over contexts, within a context the one opened earliest; an idle
engine goes on from the turn it stood at (R286, log entry 26). -/
def State.medPick (s : State) (hub e : Nat) : Option Stream :=
  let l := s.medOpen hub e
  let next := fun (c : Nat) => ((List.range 64).map (fun k => (c + 1 + k) % 64)).findSome? (fun c => l.find? (fun x => x.ctx == c))
  match s.medBusy.find? (fun b => b.hub == hub && b.engine == e) with
  | some b =>
    match l.find? (fun x => x.ctx == b.ctx && decide (b.turns < s.medWeight hub b.ctx)) with
    | some x => some x
    | none => next b.ctx
  | none => next 63

/-- The present work of an engine set; the turns go on within one context. -/
def State.setBusy (s : State) (x : Stream) (e : Nat) : State :=
  let old := s.medBusy.find? (fun b => b.hub == x.hub && b.engine == e)
  let turns := match old with
    | some b => if b.ctx == x.ctx && decide (b.turns < s.medWeight x.hub x.ctx) then b.turns else 0
    | none => 0
  let b : MedBusy := { hub := x.hub, engine := e, ctx := x.ctx, stream := some x.number, turns := turns }
  { s with medBusy := b :: s.medBusy.filter (fun b => !(b.hub == x.hub && b.engine == e)) }

/-- The state with a stream changed. -/
def State.setStream (s : State) (x : Stream) : State :=
  { s with streams := s.streams.map (fun y => if y.hub == x.hub && y.number == x.number then x else y) }

/-- The present work of a stream's engine given up; the turns of the contexts stand (R286). -/
def State.freeEngine (s : State) (x : Stream) : State :=
  { s with medBusy := s.medBusy.map (fun b => if b.hub == x.hub && b.stream == some x.number then { b with stream := none } else b) }

/-- The streams of a command abandoned (R288, R390). -/
def State.dropStreams (s : State) (lead : Nat) : State :=
  let mine := s.streams.filter (fun x => x.lead == lead)
  let s := mine.foldl (fun s x => s.freeEngine x) s
  { s with streams := s.streams.filter (fun x => x.lead != lead) }

/-- The unit of a stream's events: its engine, or a control core for audio (R278); which core, or which engine where the entry names
none, is free. -/
def State.streamUnit (s : State) (x : Stream) : Nat × State :=
  match s.holder x with
  | some b => (b.engine, s)
  | none =>
    match codecEngines (num x.entry 40 1) with
    | [e] => (e, s)
    | [] =>
      let r := s.draw
      (if num x.entry 40 1 < 8 then 16 + r.1 % 4 else r.1 % 8, r.2)
    | _ =>
      let r := s.draw
      (r.1 % 4, r.2)

/-! ## How a stream ends (R288 to R293) -/

/-- The instruction of a stream as its command holds it. -/
def decOf (h : Here) : Option Dec := parseDec h (descAt h.prog h.w.a)

/-- The slots operand of a stream. -/
def streamSlots (h : Here) : Act (Opnd × Ten) := slotsOpnd h 1 true

/-- The report of a sample recorded with its command (R291). -/
def addReport (h : Here) (sample : Nat) (bs : Bytes) : Act Unit :=
  putRun h (fun r => { r with media := r.media.map (fun u => if u.index == h.w.ix then { u with reports := u.reports ++ [(sample, bs)] } else u) })

/-- A sample ends: its slots without a picture become empty, its report is recorded, and its stream closes (R284, R290, R291). A stop
under R289 or R290 raises its event. -/
def endStream (h : Here) (x : Stream) (status reason detail : Nat) (exhausted : Bool) : Act Unit := do
  let (o, t) ← streamSlots h
  for k in List.range x.own do
    if !x.slots.contains k then putSlot h 1 t (x.slot + k) 0 emptyCells
  bump h o (fun c => { c with saturated := sat32 c.saturated x.sat })
  let (d1, u1, now) ← (fun s =>
    let a := s.draw
    let b := a.2.draw
    .ok ((a.1, b.1, b.2.dieNow x.hub), b.2) : Act (Nat × Nat × BitVec 64))
  let frames := x.slots.length
  let rep : MedReport :=
    { stamp := now, sample := x.orig, delivered := if exhausted then d1 else num x.entry 0 8,
      units := if exhausted then u1 else x.units, frames := frames, status := status, reason := reason, detail := detail,
      attempts := x.attempts,
      flags := (if exhausted then 2 else b2n (decide (x.attempts > 0))) + (if frames < x.own then 4 else 0) }
  addReport h x.sample rep.bytes
  putRun h (fun r => { r with dimLimit := r.dimLimit || status == mDim, damaged := r.damaged || status == mDamaged,
                              budget := r.budget || status == mBudget })
  modify (fun s =>
    let s := if status = mDim ∨ status = mDamaged then
        let u := s.streamUnit x
        u.2.medStop x.hub x.ctx u.1 x.number status
      else s
    let s := s.freeEngine x
    { s with streams := s.streams.filter (fun y => !(y.hub == x.hub && y.number == x.number)) })

/-- A sample that has delivered what it could: OK, or BUDGET_REPLACED after a replacement (R293). -/
def endWell (h : Here) (x : Stream) : Act Unit :=
  if x.attempts = 0 then endStream h x 0 0 0 false else endStream h x mBudget rBudget 0 false

/-- The access-unit index of a video entry (R280). -/
def auIndex (h : Here) (engine : Nat) (e : SampleEntry) : Act Bytes := do
  if e.codec < 3 ∧ e.auCount ≠ 0 then
    let (b, _) ← medRead h engine e.auIndex (16 * e.auCount)
    pure b
  else pure []

/-- The index entry at which decoding begins: the last with KEY whose FRAME is at or below the first wanted (R280). -/
def startEntry (ix : Bytes) (n first : Nat) : Option Nat :=
  (List.range n).reverse.find? (fun k => num ix (16 * k + 6) 1 % 2 == 1 && decide (num ix (16 * k + 12) 4 ≤ first))

/-- A stream begins the entry it holds: its starting point, or the stop NO_KEY (R280). -/
def beginEntry (h : Here) (x : Stream) : Act Unit := do
  match parseSample x.entry with
  | none => endStream h x mDamaged rSyntax 0xFFFFFFFF false
  | some e =>
    if slotCount x.entry = 0 then endWell h x
    else do
      let s ← get
      let ix ← auIndex h (s.reader x) e
      if ix.isEmpty then modify (fun s => s.setStream { x with start := 0 })
      else match startEntry ix e.auCount e.first with
        | none => endStream h x mDamaged rNoKey 0 false
        | some k => modify (fun s => s.setStream { x with start := k })

/-- An over-budget sample: what it wrote is discarded, and the next attempt takes a reserve entry, or none is left (R292, R293). -/
def replaceSample (h : Here) (dec : Dec) (x : Stream) : Act Unit := do
  let (_, t) ← streamSlots h
  let s ← get
  let keys := x.slots.flatMap (fun k => (List.range ((t.dims[0]?).getD 0)).filterMap (fun e =>
    match slotKey s h 1 t (x.slot + k) e with
    | .ok a => some a
    | .error _ => none))
  putRun h (fun r => { r with overlay := r.overlay.filter (fun c => !keys.contains c.1),
                              outTags := r.outTags.filter (fun g => !keys.contains (g.1 * 32)) })
  let x := { x with slots := [], sat := 0 }
  let a := x.attempts + 1
  if a > dec.rmax then endStream h x mBudget rBudget 0 true
  else do
    let w := (quill dec.key (BitVec.ofNat 32 (3 * 2 ^ 30 + dec.listId)) (x.orig * 16 + a) dec.epoch).1.toNat
    let (b, _) ← medRead h (s.reader x) (dec.reserve + 64 * (w * dec.rcount / 2 ^ 32)) 64
    let same := codecEngines (num b 40 1) == codecEngines (num x.entry 40 1)
    modify (fun s => if same then s else s.freeEngine x)
    let x := { x with entry := b, attempts := a, start := 0, place := 0, units := 0 }
    modify (fun s => s.setStream x)
    beginEntry h x

/-! ## MEDIA.DECODE (R283) -/

/-- The REPORT tensor of a DECODE stream. -/
def reportOut (h : Here) (dec : Dec) : Act (Opnd × Ten) := do
  let o ← opndAt h dec.report 0 true
  match o.loc with
  | .area _ => skip cType 0
  | .ten t => do
    need (decide (volume t.dims * elemSize t.fmt ≥ 64 * dec.samples)) cDesc 0
    pure (o, t)

/-- What MEDIA.DECODE does when it starts: its checks, and its place among the command's decodes (R281, R283). -/
def startDecode (h : Here) : Act Unit := do
  need (h.w.form == 0) cForm 0
  needFields h 0 0
  needNone h 2
  let d ← streamOpnd h 0
  match parseDec h d with
  | none => skip cDesc 0
  | some dec => do
    let (_, t) ← streamSlots h
    need ((t.dims[0]?).getD 0 == dec.bytes) cShape 0
    let _ ← reportOut h dec
    let (tb, _) ← medRead h byAny dec.table (64 * dec.samples)
    let slots := ((List.range dec.samples).map (fun k => slotCount (sub tb (64 * k) 64))).foldl (· + ·) 0
    need (decide (slots ≤ (t.dims[1]?).getD 0)) cShape 1
    let _ ← medKeys h byAny dec.reserve (64 * dec.rcount) false
    let _ ← medKeys h byAny dec.work dec.room true
    if dec.samples = 0 then pure ()
    else putRun h (fun r => { r with media := r.media ++ [{ index := h.w.ix, next := 0, reports := [] }] })

/-- What MEDIA.DECODE writes once every sample has ended: the reports in table order; its work area holds what no rule states
(R286, R288, R291). -/
def endDecode (h : Here) (u : MedUse) : Act Unit := do
  match decOf h with
  | none => pure ()
  | some dec => do
    let (o, t) ← reportOut h dec
    let bs := ((List.range dec.samples).map (fun k => ((u.reports.find? (fun r => r.1 == k)).map (·.2)).getD (List.replicate 64 0#8))).flatten
    putReport h o t bs
    bump h o (fun c => { c with elements := sat32 c.elements (64 * dec.samples / elemSize t.fmt) })
    let (so, st) ← streamSlots h
    bump h so (fun c => { c with elements := sat32 c.elements (volume st.dims) })
    let v := BitVec.ofNat 64 dec.work
    let s ← get
    putRun h (fun r => { r with loose := if gPkg v = s.sec.pkg then r.loose ++ [(memKey (gSpace v) (gOff v), dec.room)] else r.loose
                                media := r.media.filter (fun y => y.index != h.w.ix) })

/-- The fill of a skipped MEDIA.DECODE: slots and reports (R159). -/
def decodeFill (h : Here) : Act Unit := do
  fillAt h h.w.b 1 []
  let d := descAt h.prog h.w.a
  if h.w.a < hDescCount h.prog ∧ num d 0 2 = dtStream then fillAt h (num d 60 2) 0 []

/-- A decode given up: its streams and its place among the command's decodes. -/
def State.dropDecode (s : State) (lead i : Nat) : State :=
  let mine := s.streams.filter (fun x => x.lead == lead && x.index == i)
  let s := mine.foldl (fun s x => s.freeEngine x) s
  ({ s with streams := s.streams.filter (fun x => !(x.lead == lead && x.index == i)) } : State).setRun lead
    (fun r => { r with media := r.media.filter (fun u => u.index != i) })

/-- A part of a media instruction in flight: an address that fails stops its command, and one that may not be read skips the whole
instruction (R159, R240). -/
def runPart (body : Here → Act Unit) (lead i : Nat) (s : State) : State :=
  match s.runOf lead with
  | none => s
  | some r =>
    if !s.inFlight (fun w => w.op == 0x240) lead i then s else
    match body (s.hereAt r i) s with
    | .ok (_, t) => t
    | .error e =>
      match e.why with
      | .skip _ _ =>
        match runOne (fun _ _ => .error e) decodeFill (s.hereAt r i) (s.dropDecode lead i) with
        | .ok t => t.finish lead i
        | .error f => s.halted r State.failMedia f
      | _ => s.halted r State.failMedia e

/-- Whether a decode of a command has begun. -/
def Run.decoding (r : Run) (i : Nat) : Option MedUse := r.media.find? (fun u => u.index == i)

/-- MEDIA.DECODE: it starts, then waits for its samples, then completes (R283). -/
def decodeStep (lead i : Nat) (s : State) : State :=
  match s.runOf lead with
  | none => s
  | some r =>
    match r.decoding i with
    | some u =>
      match decOf (s.hereAt r i) with
      | some dec =>
        if u.reports.length < dec.samples then s
        else
          let t := runPart (fun h => endDecode h u) lead i s
          if ((t.runOf lead).bind (fun r => r.decoding i)).isNone then t.finish lead i else t
      | none => s
    | none =>
      if !s.inFlight (fun w => w.op == 0x240) lead i then s else
      match runTargets .once startDecode decodeFill (s.hereAt r i) s with
      | .ok t => if ((t.runOf lead).bind (fun r => r.decoding i)).isSome then t else t.finish lead i
      | .error e => s.halted r State.failMedia e

/-- MEDIA.DECODE (R283). -/
def execMediaDecode (c i : Nat) (s : State) : Host.Outcome State Fault Refusal :=
  onUnit (clusterOk c) "cluster" s (decodeStep c i s)

/-! ## STREAM_OPEN and STREAM_SWITCH (R286) -/

/-- The lowest open-stream number of a hub that is not in use. -/
def State.streamNumber (s : State) (hub : Nat) : Nat :=
  ((List.range 256).find? (fun k => !(s.streams.any (fun x => x.hub == hub && x.number == k)))).getD 0

/-- The engines of its class that take a stream when it opens: those whose turn at this picture boundary it is; none while other streams
come first (R286, log entry 26). -/
def State.takers (s : State) (x : Stream) : List Nat :=
  let s : State := { s with streams := s.streams ++ [x] }
  (codecEngines (num x.entry 40 1)).filter (fun e => (s.medPick x.hub e).map (·.number) == some x.number)

/-- A stream opens: an engine of its class takes it, which of several is free, or a control core (R278, R286). -/
def openStream (x : Stream) : Act Unit := fun s =>
  let l := s.takers x
  let s : State := { s with streams := s.streams ++ [x] }
  let d := s.draw
  .ok ((), if l.isEmpty then s else d.2.setBusy x ((l[d.1 % l.length]?).getD 0))

/-- Sample `n` of a decode opens when an engine can take it (R283, R286). -/
def openSample (n : Nat) (h : Here) : Act Unit := do
  let r ← getRun h
  let s ← get
  let hub := medHub h.lead
  let full := decide ((s.streams.filter (fun x => x.hub == hub)).length ≥ 256)
    || decide ((s.streams.filter (fun x => x.lead == h.lead && x.index == h.w.ix)).length ≥ 16)
  match decOf h, r.decoding h.w.ix with
  | some dec, some u =>
    if u.next ≠ n ∨ n ≥ dec.samples ∨ full = true then pure ()
    else do
      let (tb, _) ← medRead h byAny dec.table (64 * (n + 1))
      let eb := sub tb (64 * n) 64
      let slot := ((List.range n).map (fun k => slotCount (sub tb (64 * k) 64))).foldl (· + ·) 0
      let x : Stream :=
        { hub := hub, number := s.streamNumber hub, lead := h.lead, index := h.w.ix, sample := n, ctx := r.ctx, orig := num eb 0 8,
          slot := slot, own := slotCount eb, entry := eb, attempts := 0, start := 0, place := 0, units := 0, sat := 0, slots := [] }
      let opened := putRun h (fun r =>
        { r with media := r.media.map (fun u => if u.index == h.w.ix then { u with next := n + 1 } else u) })
      if x.own = 0 ∧ (parseSample eb).isSome then do
        opened
        endStream h x mEmpty 0 0 false
      else if (s.takers x).isEmpty && !(codecEngines (num eb 40 1)).isEmpty then pure ()
      else do
        opened
        openStream x
        beginEntry h x
  | _, _ => pure ()

/-- STREAM_OPEN (R286). -/
def execStreamOpen (c i n : Nat) (s : State) : Host.Outcome State Fault Refusal :=
  onUnit (clusterOk c) "cluster" s (runPart (openSample n) c i s)

/-- STREAM_SWITCH: at a picture boundary an engine takes the next stream (R286). -/
def execStreamSwitch (hub e : Nat) (s : State) : Host.Outcome State Fault Refusal :=
  onUnit (hubOk hub && decide (e < 10)) "media engine" s
    (match s.medPick hub e with
     | some x => s.setBusy x e
     | none => s)

/-- MED_APPLY: the weights come into force at a picture boundary (R306). -/
def medApplyAt (hub : Nat) (s : State) : State :=
  s.applyNow (dieAt hub) .med

/-- MED_APPLY. -/
def execMedApply (hub : Nat) (s : State) : Host.Outcome State Fault Refusal := onUnit (hubOk hub) "hub" s (medApplyAt hub s)

/-! ## Pictures (R284, R285, R287, R289, R292) -/

/-- The access units of a stream decoded so far with the next: their bytes by the index, or the whole sample where there is none; with the
byte offset of the next (R280, R291). -/
def unitsFor (ix data : Bytes) (e : SampleEntry) (x : Stream) : List Bytes × Nat :=
  if ix.isEmpty then ([data], Config.unitOffset e.codec data x.place)
  else ((List.range (x.place + 1)).map (fun k =>
      let at' := 16 * (x.start + k)
      (data.drop (num ix at' 6)).take (num ix (at' + 8) 4)),
    num ix (16 * (x.start + x.place)) 6)

/-- The access unit at which a stream stands, none past the last entry of its index; one that its data does not hold whole is truncated, and
the index gives its picture's number (R280, R290). -/
def unitAt (ix data : Bytes) (e : SampleEntry) (x : Stream) : CodedUnit :=
  let n := x.start + x.place
  let u := Config.decodeUnit e.codec (unitsFor ix data e x).1 x.place
  if ix.isEmpty then u
  else if e.auCount ≤ n then { key := false, claims := [], picture := .finished }
  else
    let cut := decide (num ix (16 * n) 6 + num ix (16 * n + 8) 4 > data.length)
    match u.picture with
    | .coded hd body => { u with picture := .coded { hd with frame := num ix (16 * n + 12) 4 } (if cut then .damaged rTruncated else body) }
    | .damaged r => { u with picture := .damaged (if cut then rTruncated else r) }
    | .finished => { u with picture := .damaged (if cut then rTruncated else rSyntax) }

/-- Which of its sample's slots a picture fills, if any (R282, R284, R293). -/
def wantedSlot (e : SampleEntry) (own frame : Nat) : Option Nat :=
  if e.codec ≥ 3 then some 0
  else if e.first ≤ frame ∧ (frame - e.first) % e.step = 0 ∧ (frame - e.first) / e.step < min e.count own
  then some ((frame - e.first) / e.step) else none

/-- How many pictures a sample delivers in all. -/
def wantedCount (e : SampleEntry) (own : Nat) : Nat := if e.codec ≥ 3 then 1 else min e.count own

/-- Whether the decoders accept a picture (R279). -/
def pictureAccepted (hd : PictureHead) (codec : Nat) : Bool :=
  hd.plain && match codec with
  | 0 => hd.depth == 8 && (hd.chroma == .c420 || hd.chroma == .mono)
  | 1 => (hd.depth == 8 || hd.depth == 10) && hd.chroma == .c420
  | 2 => (hd.depth == 8 || hd.depth == 10) && (hd.chroma == .c420 || hd.chroma == .mono)
  | 3 => hd.depth == 8 && hd.chroma != .other
  | _ => [0, 2, 3, 4, 6].contains hd.colour && [1, 2, 4, 8, 16].contains hd.depth

/-- The layout of a picture's slot: a PNG's by its colour type, with tRNS for a palette image alone, and a JPEG whose component identifiers
are the letters R, G and B is RGB (R284). -/
def pictureLayout (hd : PictureHead) (codec : Nat) : Nat :=
  if codec = 4 then
    match hd.colour with
    | 2 => 4
    | 3 => if hd.trns then 5 else 4
    | 4 => 6
    | 6 => 5
    | _ => 0
  else if codec = 3 ∧ hd.ids = [0x52, 0x47, 0x42] then 4
  else match hd.chroma with
    | .c420 => 1
    | .c422 => 2
    | .c444 => 3
    | _ => 0

/-- Whether a picture's samples are indices into a palette. -/
def pictureIndexed (hd : PictureHead) (codec : Nat) : Bool := codec == 4 && hd.colour == 3

/-- The bits of a sample in a picture's slot: PNG samples are widened to 8, and a palette gives 8 bits (R284). -/
def pictureBits (hd : PictureHead) (codec : Nat) : Nat :=
  if pictureIndexed hd codec || decide (hd.depth ≤ 8) then 8 else if hd.depth ≤ 10 then 10 else 16

/-- The planes of a palette image: red, green and blue, with alpha where a tRNS chunk is present; an entry without an alpha is opaque
(R284). None where an index has no entry. -/
def palettePlanes (trns : Bool) (palette : List (Nat × Nat × Nat)) (alphas ixs : List Nat) : Option (List (List Nat)) := do
  let cs ← ixs.mapM (fun i => palette[i]?)
  some ([cs.map (·.1), cs.map (·.2.1), cs.map (·.2.2)] ++ (if trns then [ixs.map (fun i => (alphas[i]?).getD 255)] else []))

/-- The planes of a picture as its slot holds them: a palette image by its palette, PNG samples of depth 1, 2 and 4 widened to 8 bits (R284);
or the reason for which there are none. -/
def slotPlanes (hd : PictureHead) (codec : Nat) : PictureBody → Except Nat (List (List Nat))
  | .damaged reason => .error (if 1 ≤ reason ∧ reason ≤ 7 then reason else rSyntax)
  | .planes ps palette alphas =>
    if pictureIndexed hd codec then
      match palettePlanes hd.trns palette alphas (ps.headD []) with
      | some l => .ok l
      | none => .error rSyntax
    else
      let f := if codec ≠ 4 then 1 else if hd.depth = 1 then 255 else if hd.depth = 2 then 85 else if hd.depth = 4 then 17 else 1
      .ok (ps.map (fun p => p.map (· * f)))

/-- The slot of a decoded picture with its pyramid, and the samples that saturated (R284, R294). -/
def pictureSlot (e : SampleEntry) (levels : Nat) (key : Bool) (hd : PictureHead) (planes : List (List Nat)) : Slot × Nat :=
  let d := pictureBits hd e.codec
  let l0 := ((planeDims (pictureLayout hd e.codec) hd.width hd.height).zip planes).map (fun p => ({ w := p.1.1, h := p.1.2, px := p.2 } : Plane))
  let py := pyramid d levels l0
  ({ depth := d, layout := pictureLayout hd e.codec, key := key, frame := if e.codec < 3 then hd.frame else 0, sample := e.sample,
     levels := py.1 }, py.2)

/-- The first claimed size above the limits: reason and claimed value (R289). -/
def claimStop (dec : Dec) (codec : Nat) (claims : List (Nat × Nat)) : Option (Nat × Nat) :=
  let cap := fun (m : Nat) => if codec < 3 then min m 8192 else m
  claims.findSome? (fun c =>
    if c.1 > cap dec.maxW then some (rWidth, c.1) else if c.2 > cap dec.maxH then some (rHeight, c.2) else none)

/-- The bytes of the reference pictures that a picture needs: at most 17 pictures of its own size, none for stills (R285, log entry 9). -/
def referenceBytes (codec : Nat) (units : List Bytes) (place : Nat) (hd : PictureHead) : Nat :=
  if codec ≥ 3 then 0
  else min 17 (Config.references codec units place) * levelBytes (pictureBits hd codec) (planeDims (pictureLayout hd codec) hd.width hd.height)

/-- Why the areas of its stream cannot hold a picture (R285). -/
def roomStop (dec : Dec) (codec : Nat) (units : List Bytes) (place : Nat) (hd : PictureHead) : Option Nat :=
  if slotSize (pictureBits hd codec) (pictureLayout hd codec) hd.width hd.height dec.levels > dec.bytes then some rSlot
  else if referenceBytes codec units place hd > dec.room then some rWork
  else none

/-- What an access unit does to its stream (R280, R289 to R292). -/
inductive UnitFate where
  | stop (status reason detail : Nat)
  | over
  | picture (hd : PictureHead) (cost : Nat) (body : Except Nat (List (List Nat)))
  deriving Repr

/-- The work units of a picture (R292). -/
def pictureCost (hd : PictureHead) : Nat := ceilDiv hd.width 16 * ceilDiv hd.height 16

/-- What becomes of an access unit: without an index the first must be a random access point; the sizes its headers claim are compared with
the limits before its picture, then what it uses, its slot and its references, and then the budget, all before its data is decoded
(R279, R280, R285, R289, R290, R292; log entry 78). -/
def unitFate (dec : Dec) (e : SampleEntry) (x : Stream) (ix data : Bytes) : UnitFate :=
  let u := unitAt ix data e x
  let (units, off) := unitsFor ix data e x
  if e.codec < 3 ∧ ix = [] ∧ x.place = 0 ∧ u.key = false then .stop mDamaged rNoKey off
  else match claimStop dec e.codec u.claims with
  | some (reason, v) => .stop mDim reason v
  | none =>
    match u.picture with
    | .finished => .stop mDamaged rMissing off
    | .damaged reason => .stop mDamaged (if 1 ≤ reason ∧ reason ≤ 7 then reason else rSyntax) off
    | .coded hd body =>
      match claimStop dec e.codec [(hd.width, hd.height)] with
      | some (reason, v) => .stop mDim reason v
      | none =>
        if !pictureAccepted hd e.codec then .stop mDamaged rUnsupported off
        else match roomStop dec e.codec units x.place hd with
        | some reason => .stop mDim reason off
        | none =>
          if dec.budget ≠ 0 ∧ x.units + (pictureCost hd) > dec.budget then .over
          else .picture hd (pictureCost hd) (slotPlanes hd e.codec body)

/-- The next picture of a stream in decode order (R287 to R293). -/
def decodeOne (h : Here) (dec : Dec) (e : SampleEntry) (x : Stream) (engine : Nat) : Act Unit := do
  let ix ← auIndex h engine e
  let (data, tg) ← medRead h engine e.data e.bytes
  match unitFate dec e x ix data with
  | .stop status reason detail => endStream h x status reason detail false
  | .over => replaceSample h dec x
  | .picture hd cost body => do
    modify (fun s => s.count 7 x.hub engine 0 cost)
    modify (fun s => { s with medBusy := s.medBusy.map (fun b =>
      if b.hub == x.hub && b.engine == engine then { b with turns := b.turns + 1 } else b) })
    let off := (unitsFor ix data e x).2
    let key := (unitAt ix data e x).key
    let x := { x with place := x.place + 1, units := x.units + cost }
    match body with
    | .error reason => endStream h x mDamaged reason off false
    | .ok planes => do
      modify (fun s => s.count 7 x.hub engine 1 (hd.width * hd.height))
      match wantedSlot e x.own hd.frame with
      | none => modify (fun s => s.setStream x)
      | some k => do
        let (_, t) ← streamSlots h
        let p := pictureSlot e dec.levels key hd planes
        putSlot h 1 t (x.slot + k) tg p.1.cells
        let x := { x with sat := x.sat + p.2, slots := if x.slots.contains k then x.slots else x.slots ++ [k] }
        if x.slots.length ≥ wantedCount e x.own then endWell h x else modify (fun s => s.setStream x)

/-- Where sample `n` of an instruction is an engine's present work and the engine's turn has not passed on, its next picture. -/
def pictureStep (n : Nat) (h : Here) : Act Unit := do
  let s ← get
  match s.streams.find? (fun x => x.lead == h.lead && x.index == h.w.ix && x.sample == n) with
  | none => pure ()
  | some x =>
    match s.holder x, decOf h, parseSample x.entry with
    | some b, some dec, some e =>
      if (s.medPick x.hub b.engine).map (·.number) = some x.number then decodeOne h dec e x b.engine else pure ()
    | _, _, _ => pure ()

/-- PICTURE_DECODE (R287). -/
def execPictureDecode (c i n : Nat) (s : State) : Host.Outcome State Fault Refusal :=
  onUnit (clusterOk c) "cluster" s (runPart (pictureStep n) c i s)

/-! ## Audio (R300) -/

/-- Working precision of the tables below. -/
def audioW : Nat := 192

/-- A value at scale 2^audioW rounded to 2^−64, so that exact values come out exact. -/
def tidy (v : Int) : Int := (v + 2 ^ 127) / 2 ^ 128

/-- cos(2πn/d) and sin(2πn/d) at scale 2^64. -/
def cosTurn (n d : Nat) : Int := tidy (sinAt audioW (2 * piAt audioW * Int.ofNat n / Int.ofNat d) 1)
def sinTurn (n d : Nat) : Int := tidy (sinAt audioW (2 * piAt audioW * Int.ofNat n / Int.ofNat d) 0)

/-- A value at scale 2^64 times 32767 rounded to the nearest integer, a half upwards. -/
def times32767 (v : Int) : Int := (v * 32767 + 2 ^ 63) / 2 ^ 64

/-- The analysis window (R300). -/
def audioWindow (nw : Nat) : List Int :=
  (List.range nw).map (fun n => ((2 ^ 64 - cosTurn n nw) * 32767 + 2 ^ 64) / 2 ^ 65)

/-- A complex INT16 value. -/
abbrev Cpx := Int × Int

/-- One butterfly with the twiddle e^(−2πi k/n) (R300): product pairs saturate into INT32 and narrow by 15, sums narrow by 1. -/
def butterfly (w : Int × Int) (a b : Cpx) : Cpx × Cpx :=
  let tr := (narrow 15 true (satInt 32 (w.1 * b.1 + w.2 * b.2)).1).1
  let ti := (narrow 15 true (satInt 32 (w.1 * b.2 - w.2 * b.1)).1).1
  (((narrow 1 true (a.1 + tr)).1, (narrow 1 true (a.2 + ti)).1), ((narrow 1 true (a.1 - tr)).1, (narrow 1 true (a.2 - ti)).1))

/-- The elements at even and at odd places. -/
def evens {α : Type} : List α → List α
  | [] => []
  | [a] => [a]
  | a :: _ :: t => a :: evens t

/-- Radix-2 decimation in time over 2^`k` values; `tw` are the twiddles of this size. -/
def fft : Nat → List (Int × Int) → List Cpx → List Cpx
  | 0, _, l => l
  | k + 1, tw, l =>
    let e := fft k (evens tw) (evens l)
    let o := fft k (evens tw) (evens (l.drop 1))
    let r := (tw.zip (e.zip o)).map (fun x => butterfly x.1 x.2.1 x.2.2)
    r.map (·.1) ++ r.map (·.2)

/-- The twiddles of a transform of 2^`k` values: cosine and sine of the first half turn (R300). -/
def twiddles (k : Nat) : List (Int × Int) :=
  (List.range (2 ^ (k - 1))).map (fun j => (times32767 (cosTurn j (2 ^ k)), times32767 (sinTurn j (2 ^ k))))

/-- The power spectrum of one frame (R300). -/
def audioPower (k : Nat) (tw : List (Int × Int)) (win x : List Int) : List Int :=
  let v := (x.zip win).map (fun p => ((narrow 15 true (p.1 * p.2)).1, (0 : Int)))
  let l := fft k tw (v ++ List.replicate (2 ^ k - v.length) (0, 0))
  (l.take (2 ^ (k - 1) + 1)).map (fun c => (satInt 32 (c.1 * c.1 + c.2 * c.2)).1)

/-- The corner frequencies of the filters at scale 2^audioW: equally spaced on 2595 log10(1 + f/700) from 0 to fs/2 (R300). -/
def melCorners (fs bins : Nat) : List Int :=
  let top := lnAt audioW ((Int.ofNat (1400 + fs)) * 2 ^ audioW / 1400)
  (List.range (bins + 2)).map (fun j =>
    if j = 0 then 0
    else if j = bins + 1 then Int.ofNat fs * 2 ^ audioW / 2
    else 700 * (expAt audioW (top * Int.ofNat j / Int.ofNat (bins + 1)) - 2 ^ audioW))

/-- The FP32 weight of spectrum line `k` in the triangle a, b, c: linear in frequency (R300, log entry 27). -/
def melWeight (fs n k : Nat) (a b c : Int) : Fp :=
  let f := Int.ofNat (k * fs) * 2 ^ audioW / Int.ofNat n
  if f ≤ a ∨ c ≤ f then .fin false 0 0
  else
    let v := if f ≤ b then (f - a) * 2 ^ audioW / (b - a) else (c - f) * 2 ^ audioW / (c - b)
    fpOf true (encFp true (.fin false v.toNat (-(Int.ofNat audioW)))).bits

/-- The weights of every filter. -/
def melWeights (fs n bins : Nat) : List (List Fp) :=
  let cs := melCorners fs bins
  (List.range bins).map (fun m => (List.range (n / 2 + 1)).map (fun k =>
    melWeight fs n k ((cs[m]?).getD 0) ((cs[m + 1]?).getD 0) ((cs[m + 2]?).getD 0)))

/-- The feature of one filter: exact sum in an automatic window, FP32, logarithm, FP16 (R300). -/
def melFeature (power : List Int) (ws : List Fp) : Nat :=
  let ps := (power.zip ws).map (fun p => fpMul (fpOf true (encFp true (fpOfInt p.1)).bits) p.2)
  let e := drainElem true (accumulate (Acc.start (-128)) ps).finish 0 none
  let y := encFp true (fpAdd (fpOf true e.bits) (.fin false 1 0))
  (encFp false (fpOf true (vecFn fnLog2 (fpOf true y.bits)).bits)).bits

/-- The mono INT16 samples of a recording (R300): stereo mixed in 32 bits, 24-bit samples narrowed. -/
def monoSamples (channels depth : Nat) (d : List Int) : List Int :=
  let l := if channels = 2 then (chunks (d.length + 1) 2 d).map (fun p => ((p[0]?).getD 0 + (p[1]?).getD 0 + 1) / 2) else d
  if depth = 24 then l.map (fun v => (narrow 8 true v).1) else l

/-- The feature plane of a recording: its frames and codes (R300). -/
def audioFeatures (fs bins : Nat) (x : List Int) : Nat × List Nat :=
  let nw := fs / 40
  let hop := fs / 100
  if x.length < nw then (0, [])
  else
    let frames := (x.length - nw) / hop + 1
    let k := if fs = 16000 then 9 else if fs = 24000 then 10 else 11
    let tw := twiddles k
    let win := audioWindow nw
    let ws := melWeights fs (2 ^ k) bins
    (frames, (List.range frames).flatMap (fun t =>
      let p := audioPower k tw win ((x.drop (hop * t)).take nw)
      ws.map (melFeature p)))

/-- Whether the control core accepts a recording (R279). -/
def soundAccepted (codec rate channels depth : Nat) : Bool :=
  (channels == 1 || channels == 2) && match codec with
  | 5 => depth == 16 && [16000, 24000, 48000].contains rate
  | 6 => (depth == 16 || depth == 24) && [16000, 24000, 48000].contains rate
  | _ => rate == 48000

/-- A recording decoded into its slot: its budget is spent packet by packet, before a damage that ends it (R279, R290, R292, R300). -/
def decodeSound (h : Here) (dec : Dec) (e : SampleEntry) (x : Stream) : Act Unit := do
  let (data, tg) ← medRead h byCore e.data e.bytes
  match Config.decodeAudio e.codec data with
  | .damaged reason => endStream h x mDamaged (if 1 ≤ reason ∧ reason ≤ 7 then reason else rSyntax) 0 false
  | .coded plain rate channels depth packets stop =>
    if dec.bins = 0 || !plain || !soundAccepted e.codec rate channels depth then endStream h x mDamaged rUnsupported 0 false
    else do
      let d := packets.flatten
      let cost := channels * ceilDiv (d.length / channels) 256
      if dec.budget ≠ 0 ∧ cost > dec.budget then replaceSample h dec x
      else do
        let x := { x with units := cost, place := 1 }
        match stop with
        | some reason =>
          endStream h x mDamaged (if 1 ≤ reason ∧ reason ≤ 7 then reason else rSyntax) (Config.unitOffset e.codec data packets.length) false
        | none => do
          let (frames, codes) := audioFeatures rate dec.bins (monoSamples channels depth d)
          if frames = 0 then
            endStream h x (if x.attempts = 0 then mEmpty else mBudget) (if x.attempts = 0 then 0 else rBudget) 0 false
          else if slotSize 16 7 dec.bins frames 1 > dec.bytes then endStream h x mDim rSlot 0 false
          else do
            let (_, t) ← streamSlots h
            let p : Slot := { depth := 16, layout := 7, key := false, frame := 0, sample := e.sample,
                              levels := [[{ w := dec.bins, h := frames, px := codes }]] }
            putSlot h 1 t x.slot tg p.cells
            endWell h { x with slots := [0] }

/-- Sample `n` of an instruction when it is a recording. -/
def soundStep (n : Nat) (h : Here) : Act Unit := do
  let s ← get
  match s.streams.find? (fun x => x.lead == h.lead && x.index == h.w.ix && x.sample == n) with
  | none => pure ()
  | some x =>
    match decOf h, parseSample x.entry with
    | some dec, some e => if e.codec ≥ 5 then decodeSound h dec e x else pure ()
    | _, _ => pure ()

/-- AUDIO_DECODE (R278, R300). -/
def execAudioDecode (c i n : Nat) (s : State) : Host.Outcome State Fault Refusal :=
  onUnit (clusterOk c) "cluster" s (runPart (soundStep n) c i s)

end Sys2Proof.Machine
end

