-- ==== Sys2Proof/Machine/Issue.lean ====
section
/-! DEFINITION. The opcodes and the fill of a skipped word by its kind (R125, R143, R159), and CHAIN.BEGIN, whose skip fills the outputs of
every word of its chain (R149). -/

namespace Sys2Proof.Machine

/-! ## Words by kind -/

/-- The opcodes of R143. -/
def knownOp (op : Nat) : Bool :=
  [0x000, 0x040, 0x080, 0x081, 0x082, 0x083, 0x084, 0x0C0, 0x0C1, 0x0C2, 0x0C3, 0x100, 0x101, 0x102, 0x140].contains op
    || (decide (0x180 ≤ op) && decide (op ≤ 0x187))
    || [0x1C0, 0x200, 0x201, 0x202, 0x240, 0x241, 0x242, 0x243, 0x244, 0x250, 0x251, 0x252, 0x253].contains op
    || [0x280, 0x2C0, 0x300, 0x301, 0x302, 0x340, 0x341, 0x342, 0x380, 0x381, 0x382].contains op

/-- The fill of a skipped word by its opcode (R125, R159). -/
def wordFill (h : Here) : Act Unit :=
  let op := h.w.op
  if op = 0x000 then (if h.w.form = 1 then castFill h else fillOut h)
  else if op / 64 = 1 ∨ op / 64 = 2 then productFill h
  else if op / 64 = 3 then poolFill h
  else if op / 64 = 4 then attendFill h
  else if op = 0x140 then scatterFill h
  else if op = 0x1C0 then drainFill h
  else if op = 0x240 then decodeFill h
  else if op = 0x241 then encodeFill h
  else if op = 0x244 then packFill h
  else if op / 64 = 14 then statFill h
  else fillOut h

/-- CHAIN.BEGIN (R113, R149). -/
def execChainBegin (c i : Nat) (s : State) : Host.Outcome State Fault Refusal :=
  onUnit (clusterOk c) "cluster" s (runWord (fun w => w.op == 0x300) .once doChainBegin (chainFill wordFill) c i s)

end Sys2Proof.Machine
end

