-- ==== Sys2Proof/Machine/Keystone.lean ====
section
/-! DEFINITION. The keystone apart from its commands: instruction pages and loads (R120 to R122, R130), grouped settings at the command
boundary (R190, R213, R389, R400), the release and the kill of a running command (R390), the issue of its instructions under the region
scoreboard (R110, R111, R118), and the retirement of cores (R127, R399). -/

namespace Sys2Proof.Machine

/-- A keystone. -/
def State.keystone (s : State) (k : Nat) : Keystone := (s.keystones[k]?).getD Keystone.reset

/-- The state with a keystone changed. -/
def State.setKeystone (s : State) (k : Nat) (f : Keystone → Keystone) : State := { s with keystones := modNth s.keystones k f }

/-- The commands that run on a cluster. -/
def State.runsOn (s : State) (k : Nat) : List Run := s.runs.filter (fun r => r.clusters.contains k)

/-- The primary context of a cluster (R389). -/
def State.primary (s : State) (k : Nat) : Option Nat :=
  let v := s.live' (cluAt k) .keySched
  if fld v 6 1 = 1 then some (fld v 0 6) else none

/-- The fill context of a cluster; one equal to the primary acts as invalid (R389). -/
def State.fillCtx (s : State) (k : Nat) : Option Nat :=
  let v := s.live' (cluAt k) .keySched
  if fld v 14 1 = 1 ∧ s.primary k ≠ some (fld v 8 6) then some (fld v 8 6) else none

/-- The clusters granted to a context, and those where it is the fill context (R389). -/
def State.grantedTo (s : State) (c : Nat) : List Nat := (List.range 64).filter (fun k => s.primary k == some c)
def State.fillOf (s : State) (c : Nat) : List Nat := (List.range 64).filter (fun k => s.fillCtx k == some c)

/-- A usable cluster holds at least one unretired core (R154). -/
def State.usableClu (s : State) (k : Nat) : Bool := !(s.liveCores k).isEmpty

/-! ## Pages in use (R120, R121) -/

/-- Whether a command of a program references page `p` of cluster `k`. -/
def Program.usesPage (x : Program) (cmd k p : Nat) : Bool :=
  ((x.place[cmd]?).getD []).contains k &&
  match x.pages[cmd]? with
  | some (first, n) => decide (first ≤ p) && decide (p < first + n)
  | none => false

/-- Whether entry `n` of a queue had been enqueued when the load that a keystone is busy with began to wait (R121, R130). -/
def Keystone.accepted (x : Keystone) (c q : Nat) (n : BitVec 32) : Bool :=
  x.loadSeen.any (fun y => y.1 == c && y.2.1 == q && (y.2.2 - n).toNat != 0 && decide ((y.2.2 - n).toNat < 2 ^ 31))

/-- Whether a page's load waits or runs (R121). -/
def Keystone.loadingPage (x : Keystone) (p : Nat) : Bool := ((x.pages[p]?).map (·.waiting)).getD false

/-- The queued and running commands that reference page `p` of cluster `k` and are of a kind: the pending entries of every context that is
neither absent nor torn down. While a load into the page waits, only those enqueued before it are accepted for it (R121). -/
def State.refsOf (s : State) (k p : Nat) (is : Program → Bool) : Nat :=
  (List.range 64).foldl (fun n c =>
    let x := s.ctx c
    if x.st = .absent ∨ x.st = .tornDown then n else
    (List.range x.queues.length).foldl (fun n q =>
      match x.queues[q]? with
      | none => n
      | some y =>
        if !y.valid then n else
        n + ((List.range (min y.waiting (2 ^ y.log2))).filter (fun i =>
          let e := s.entryOf y (y.records.toNat + i)
          let n := y.records + BitVec.ofNat 32 i
          e.kind == 0 && (!(s.keystone k).loadingPage p || (s.keystone k).accepted c q n)
            && match s.entryProg c (if i = 0 then y else { y with prog := none }) e with
            | some x => is x && x.usesPage e.cmd k p
            | none => false)).length) n) 0

/-- The queued and running commands that reference a page (R120). -/
def State.pageRefs (s : State) (k p : Nat) : Nat := s.refsOf k p (fun _ => true)

/-- The tails of all queues as they stand. -/
def State.tailsSeen (s : State) : List (Nat × Nat × BitVec 32) :=
  (List.range 64).flatMap (fun c => ((s.ctx c).queues.mapIdx (fun q y => (c, q, y.tailSeen))))

/-! ## Page loads (R121, R130) -/

/-- An apply of the load group reaches its boundary: the load waits for its page, or a source outside the owner's partition ends it with
nothing loaded. -/
def State.loadBegin (s : State) (k : Nat) : State :=
  if !(s.keystone k).loadAsk then s else
  let s := s.force (cluAt k) .keyLoad
  let src := s.cfg (cluAt k) .keyLoadSrc 6 42 * 64
  let v := s.live' (cluAt k) .keyLoadCtl
  let words := min (fld v 3 13) 4096
  let s := s.setKeystone k (fun x => { x with loadAsk := false, loadPage := fld v 0 3, loadWords := words, loadOwner := fld v 16 6,
                                              loadTag := BitVec.ofNat 32 (fld v 24 32), loadSrc := src })
  if (pageStarts src (16 * words)).all (fun o => s.ownerPage 0 o) then
    let seen := s.tailsSeen
    s.setKeystone k (fun x => { x with load := .waiting, loadSeen := seen, pages := modNth x.pages (fld v 0 3) (fun y => { y with waiting := true }) })
  else ((s.setKeystone k (fun x => { x with load := .done })).setBits (cluAt k) .keyLoadStatus 8).keyEvent k

/-- IMEM_LOAD_START: no command references the page any more (R121); a load of no words clears the page (R130). -/
def execImemLoadStart (k : Nat) (s : State) : Host.Outcome State Fault Refusal :=
  onUnit (clusterOk k) "cluster" s <|
    let x := s.keystone k
    if x.load = .waiting ∧ s.pageRefs k x.loadPage = 0 then
      if x.loadWords = 0 then
        (s.setKeystone k (fun x => { x with load := .done, pages := modNth x.pages x.loadPage (fun _ => ImemPage.clear) })).keyEvent k
      else
        s.setKeystone k (fun x => { x with load := .loading, pages := modNth x.pages x.loadPage (fun y => { y with loaded := false }) })
    else s

/-- IMEM_LOAD_DONE: the image has been read from near memory (R130). -/
def execImemLoadDone (k : Nat) (s : State) : Host.Outcome State Fault Refusal :=
  onUnit (clusterOk k) "cluster" s <|
    let x := s.keystone k
    if x.load = .loading then
      let page : ImemPage := { owner := x.loadOwner, loaded := true, waiting := false, tag := x.loadTag, words := x.loadWords,
                               image := s.load 0 x.loadSrc (16 * x.loadWords), prog := none }
      (s.setKeystone k (fun x => { x with load := .done, pages := modNth x.pages x.loadPage (fun _ => page) })).keyEvent k
    else s

/-! ## The command boundary (R190, R213, R389, R400) -/

/-- The cluster-memory grants put into force: the blocks of a grant that changes are cleared, and an overlap is recorded (R213). -/
def State.clmForce (s : State) (k : Nat) : State :=
  let old := s.actGrants k
  let before := fun g => s.live' (cluAt k) (.clmGrant g)
  let t := s.force (cluAt k) .clm
  let t := (old.filter (fun x => before x.1 != t.live' (cluAt k) (.clmGrant x.1))).foldl (fun (t : State) x =>
    let a := cluKey k (x.2.2.2.1 * 65536)
    let n := (x.2.2.2.2 + 1 - x.2.2.2.1) * 65536
    { t with mem := memClear t.mem a n, memTags := t.memTags.filter (fun e => decide (32 * e.1 < a) || decide (a + n ≤ 32 * e.1)),
             indet := cutRanges t.indet a n }) t
  if ((List.range 4).filter (fun g => (t.grantAt k g).isSome)).length > (t.actGrants k).length
  then (t.setBits (cluAt k) .clmFaults 1).keyEvent k else t

/-- A cluster at a command boundary: when no command runs on it, every pending setting of it comes into force. -/
def State.boundary (s : State) (k : Nat) : State :=
  if !(s.runsOn k).isEmpty then s else
  let s := ((s.loadBegin k).force (cluAt k) .keySched).force (cluAt k) .wlk
  let s := if s.hasPend (cluAt k) .clm then s.clmForce k else s
  s.setKeystone k (fun x => { x with reserved := match x.reserved with
    | some (c, q) => if s.primary k = some c then some (c, q) else none
    | none => none })

/-! ## The release of a command -/

/-- The engines of a cluster's cores at the end of a command: those that have beaten run null beats; the grants of the other cores end
(R106, R447). -/
def State.freeUnits (s : State) (cl : List Nat) : State :=
  let mine := fun (core : Nat) => cl.contains (core / 16)
  { s with
    engines := s.engines.map (fun e => if mine (e.no / 4) then { Engine.cleared e.no with nullBeat := true } else e)
    power := { s.power with
      waiting := s.power.waiting.filter (fun u => !mine (u / 2))
      granted := s.power.granted.filter (fun u => !mine (u / 2) || s.engines.any (fun e => e.no / 4 == u / 2)) } }

/-- The wake-up units in ascending order with one more. -/
def addUnit : List Nat → Nat → List Nat
  | [], u => [u]
  | x :: t, u => if u < x then u :: x :: t else if u = x then x :: t else x :: addUnit t u

/-- The engines of a command's clusters at its start: both sets clear (R106), null beats taken over, and the cores without a grant waiting
for one (R446, R447). -/
def State.takeUnits (s : State) (cl : List Nat) : State :=
  let need := (cl.flatMap (fun k => (s.liveCores k).flatMap (fun l => [2 * (16 * k + l), 2 * (16 * k + l) + 1]))).filter
    (fun u => !s.power.granted.contains u)
  { s with
    engines := s.engines.filter (fun e => !cl.contains (e.no / 64))
    power := { s.power with waiting := need.foldl addUnit s.power.waiting } }

/-- What a command held besides its outputs is given up: media streams (R288), unsent packets, remote accesses, scratchpads (R108),
accumulators (R106); its clusters come to their boundary. -/
def State.release (s : State) (r : Run) : State :=
  let s := (s.dropStreams r.lead).dropSends r.lead
  let mine := fun (k : Nat) (w : Nat) => decide (128 * r.lead ≤ k / 2 ^ w) && decide (k / 2 ^ w < 128 * r.lead + 128)
  let now := s.plumb.now
  let s : State := { s with
    runs := s.runs.filter (fun x => x.lead != r.lead)
    remotes := s.remotes.filter (fun x => x.use != .command r.lead)
    mirror := s.mirror.map (fun e => if e.lead == some r.lead then { e with lead := none } else e)
    scratch := s.scratch.filter (fun c => !mine c.1 22)
    scratchG := s.scratchG.filter (fun g => !mine g.1 17) }
  let s := s.freeUnits r.clusters
  r.clusters.foldl (fun s k =>
    (s.setKeystone k (fun x => { x with lastCmd := now, walkGen := r.gen.getD x.walkGen })).boundary k) s

/-- Whether a command can be killed: it has not failed, is before step 5 of its commit, and its remote accumulates have not begun or are all answered
(R254, R383, R390). -/
def State.killable (s : State) (r : Run) : Bool := !r.wrote && r.failed.isNone && !(r.sending && !(s.sendsOf r.lead).isEmpty)

/-- A running command killed; it stays at the head of its queue, its outputs stay indeterminate, and its pieces that are done stay done
(R157, R384, R390). `event`: teardown kills without one (R396). -/
def State.killRun (s : State) (r : Run) (status : Nat) (event : Bool) : State :=
  let s := if event then s.event (r.lead / 8) kKilled r.ctx r.lead (BitVec.ofNat 8 status) (leBytes 1 r.queue ++ leBytes 4 r.entry.toNat) else s
  let s := s.count 2 (r.lead / 8) r.lead 1 1
  let s := s.setQueue r.ctx r.queue (fun q => { q with killed := true, rerun := r.rerun, takes := r.takes })
  s.release r

/-! ## Issue (R110, R111, R118) -/

/-- The first instruction of a command that the scoreboard lets issue does so; a word that is no opcode is skipped at once in every place
it names (R110, R143, R159). One whose code cannot be corrected kills the command, which runs again; R45 names no event for it (R398, log
entry 105). -/
def issueNext (s : State) (lead : Nat) : State :=
  match s.runOf lead with
  | none => s
  | some r =>
    let h := s.hereAt r r.next
    if r.failed.isSome || r.sending then s else
    match r.firstFree h.prog h.cmd 0 (r.unissued h.cmd) with
    | none => s
    | some k =>
      let t := s.hereAt r k
      if r.struck.code.contains k then s.killRun r 0 false
      else if !knownOp t.w.op then (logNamed t cUnknown s).setRun lead (fun r => r.passed k)
      else s.setRun lead (fun r => { r.passed k with issued := r.issued ++ [{ index := k, regions := regionsOf h.prog h.cmd t.w }] })

/-- INSTRUCTION_ISSUE (R110). -/
def execInstructionIssue (c : Nat) (s : State) : Host.Outcome State Fault Refusal :=
  onUnit (clusterOk c) "cluster" s (issueNext s c)

/-! ## Retirement (R127, R154, R395, R399) -/

/-- Contexts that a retirement leaves without a usable cluster are torn down with BLOTTED_OUTPUT (R154, R395). -/
def State.noClusters (s : State) : State :=
  (List.range 64).foldl (fun s c =>
    let l := if (s.grantedTo c).isEmpty then s.fillOf c else s.grantedTo c
    if !l.isEmpty && l.all (fun k => !s.usableClu k) then s.beginTeardown c stBlotted else s) s

/-- A record of the firmware's history in the NOR device: retirements, fault reports and recovery events; the manual gives no layout (R413). -/
def State.norRecord (s : State) (b : Bytes) : State := { s with fuses := { s.fuses with records := s.fuses.records ++ [b] } }

/-- A physical core retired at the command boundary: its bit, the event with the failing command, the source and vector 64; its cluster
holds queued commands for re-translation (R127, R399). -/
def State.retireCore (s : State) (ctx no : Nat) (entry : BitVec 32) : State :=
  let k := no / 16
  let s := s.setKeystone k (fun x =>
    { x with retired := if x.retired.contains (no % 16) then x.retired else (no % 16) :: x.retired, hold := true })
  let s := (s.event (k / 8) kRetired ctx no 0#8 (leBytes 4 entry.toNat)).norRecord (leBytes 2 no)
  ((s.keyEvent k).vector 64).noClusters

/-! ## The keystone's own rows -/

/-- KEY_APPLY: the load group applied, at once on an idle keystone; discarded while a load is active (R130). -/
def keyApplyAt (k : Nat) (s : State) : State :=
    if (s.keystone k).load = .waiting ∨ (s.keystone k).load = .loading then s.setBits (cluAt k) .keyLoadStatus 4
    else ((s.stage (cluAt k) .keyLoad).setKeystone k (fun x => { x with loadAsk := true })).boundary k

/-- KEY_APPLY. -/
def execKeyApply (k : Nat) (s : State) : Host.Outcome State Fault Refusal := onUnit (clusterOk k) "cluster" s (keyApplyAt k s)

/-- KEY_INJECT: armed only while debug is unlocked with SCOPE bit 1 (R130, R430). -/
def keyInjectAt (k : Nat) (v : BitVec 64) (s : State) : State :=
    if s.sec.debug ∧ s.sec.scope.getLsbD 1 ∧ fld v 8 1 = 1 then s.setKeystone k (fun x => { x with inject := x.inject ++ [(fld v 0 4, fld v 4 4)] }) else s

/-- KEY_INJECT. -/
def execKeyInject (k : Nat) (v : BitVec 64) (s : State) : Host.Outcome State Fault Refusal := onUnit (clusterOk k) "cluster" s (keyInjectAt k v s)

/-- KEY_SCHED_APPLY without PREEMPT (R389). -/
def keySchedApplyAt (k : Nat) (s : State) : State :=
  (s.stage (cluAt k) .keySched).boundary k

/-- KEY_SCHED_APPLY. -/
def execKeySchedApply (k : Nat) (s : State) : Host.Outcome State Fault Refusal := onUnit (clusterOk k) "cluster" s (keySchedApplyAt k s)

/-- KEY_SCHED_APPLY with PREEMPT: the cluster's running commands are killed where that is still possible; another completes its commit
first (R389, R390). -/
def keySchedPreemptAt (k : Nat) (s : State) : State :=
    let s := s.stage (cluAt k) .keySched
    let s := ((s.runsOn k).filter s.killable).foldl (fun s r => s.killRun r stPreempt true) s
    s.boundary k

/-- KEY_SCHED_PREEMPT. -/
def execKeySchedPreempt (k : Nat) (s : State) : Host.Outcome State Fault Refusal := onUnit (clusterOk k) "cluster" s (keySchedPreemptAt k s)

/-- WLK_APPLY (R190). -/
def wlkApplyAt (k : Nat) (s : State) : State :=
  (s.stage (cluAt k) .wlk).boundary k

/-- WLK_APPLY. -/
def execWlkApply (k : Nat) (s : State) : Host.Outcome State Fault Refusal := onUnit (clusterOk k) "cluster" s (wlkApplyAt k s)

/-- CLM_APPLY (R213). -/
def clmApplyAt (k : Nat) (s : State) : State :=
  (s.stage (cluAt k) .clm).boundary k

/-- CLM_APPLY. -/
def execClmApply (k : Nat) (s : State) : Host.Outcome State Fault Refusal := onUnit (clusterOk k) "cluster" s (clmApplyAt k s)

end Sys2Proof.Machine
end

