-- ==== Sys2Proof/Machine/Commands.lean ====
section
/-! DEFINITION. Commands from queue entry to record: readiness and choice (R148, R220, R378, R381), start, reservation and fill work (R382,
R391, R392), the commit (R126, R383 to R388), failure (R215, R395), pieces (R156, R157), kills, suspension and teardown (R376, R390,
R396). -/

namespace Sys2Proof.Machine

/-! ## Readiness (R121, R148, R381) -/

/-- Whether a command's leading SYNC words no longer hold its start: an illegal one, and one on a queue that is not valid, holds nothing
(R148). -/
def State.syncsReached (s : State) (c : Nat) (p : Bytes) (cmd : CmdEntry) (args : List (BitVec 32)) : Bool :=
  (List.range (min 8 cmd.count)).all (fun n =>
    let w := wordAt p (cmd.first + n)
    let placed := (List.range (n + 1)).all (fun k => (wordAt p (cmd.first + k)).op == 0x2C0)
    let legal := w.form == 0 && w.a == noDesc && w.b == noDesc && w.c == noDesc && syncFields w && w.lc / 2 ^ hCores p == 0
    !placed || !legal ||
    match s.queue c (w.imm % 16) with
    | none => true
    | some x =>
      let goal := if w.mod = 0 then w.imm / 16 else ((args[w.imm / 16 % 8]?).getD 0#32).toNat
      !x.valid || decide ((x.records.toNat + 2 ^ 32 - goal) % 2 ^ 30 < 2 ^ 29))

/-- The pages of a command of a program, cluster by cluster. -/
def Program.pagesOf (x : Program) (cmd : Nat) : List (Nat × Nat) :=
  match x.pages[cmd]? with
  | none => []
  | some (first, n) => (((x.place[cmd]?).getD []).eraseDups).flatMap (fun k => (range' first n).map (fun p => (k, p)))

/-- An instruction page. -/
def State.page (s : State) (k p : Nat) : ImemPage := (((s.keystone k).pages)[p]?).getD ImemPage.clear

/-- A load into one of the pages of entry `n` of a queue holds it: it runs, or it waits and the entry came after it (R121). -/
def State.pagesLoading (s : State) (c q : Nat) (n : BitVec 32) (l : List (Nat × Nat)) : Bool :=
  l.any (fun x => (s.page x.1 x.2).waiting && !((s.keystone x.1).load == .waiting && (s.keystone x.1).accepted c q n))

/-- A page holds another context's image (R122). -/
def State.pagesForeign (s : State) (c : Nat) (l : List (Nat × Nat)) : Bool :=
  l.any (fun x => let y := s.page x.1 x.2; y.loaded && y.owner != c)

/-- One of a program's pages holds the code of another program of its context whose commands are still queued or running: the translator does
not load over it (R121, log entry 10). -/
def State.pagesTaken (s : State) (uid : Nat) (l : List (Nat × Nat)) : Bool :=
  l.any (fun x => match (s.page x.1 x.2).prog with
    | some u => u != uid && s.refsOf x.1 x.2 (fun p => p.uid == u) != 0
    | none => false)

/-- Whether every output of a command is an empty tensor (R135). -/
def noOutput (p : Bytes) (cmd : CmdEntry) (args : List Nat) : Bool :=
  cmd.outs.all (fun ix => decide (ix < hDescCount p) && num (descAt p ix) 0 1 == dtTensor &&
    match parseTen (descAt p ix) args with
    | some t => volume t.dims == 0
    | none => false)

/-- How the next entry of a queue starts. -/
inductive Begin where
  | reject (detail : Nat)
  | badWait
  | mark
  | foreign
  | empty
  | run (p : Program)
  deriving DecidableEq, Repr

/-- How the next entry of a queue starts; none while it is not ready (R140, R378, R381). A command whose cluster is held for
re-translation or holds no usable core waits (R127). -/
def State.ready (s : State) (c q : Nat) : Option (Queue × QEntry × Begin) :=
  match s.nextEntry c q with
  | none => none
  | some (x, e) =>
    match s.entryReject c x e with
    | some d => some (x, e, .reject d)
    | none =>
      if e.flags / 4 % 2 = 1 ∧ !s.waitAllowed c e then some (x, e, .badWait)
      else if !s.waitDone e then none
      else if e.kind = 1 then some (x, e, .mark)
      else match s.entryProg c x e with
        | none => none
        | some p =>
          let cmd := cmdAt p.image e.cmd
          let l := p.pagesOf e.cmd
          let cl := (p.place[e.cmd]?).getD []
          if s.pagesLoading c q x.records l || !s.syncsReached c p.image cmd e.args then none
          else if cmd.count = 0 ∨ cmd.ncl = 0 ∨ noOutput p.image cmd (e.args.map (·.toNat)) then some (x, e, .empty)
          else if s.pagesForeign c l then some (x, e, .foreign)
          else if s.pagesTaken p.uid l || cl.isEmpty || cl.any (fun k => (s.keystone k).hold || !s.usableClu k) then none
          else some (x, e, .run p)

/-- Where the entries of a context that run on no cluster are dealt with: its granted clusters, or its fill clusters. -/
def State.homeOf (s : State) (c : Nat) : List Nat := if (s.grantedTo c).isEmpty then s.fillOf c else s.grantedTo c

/-- The physical clusters of a start. -/
def State.startOn (s : State) (c : Nat) (e : QEntry) : Begin → List Nat
  | .run p => (((p.place[e.cmd]?).getD []).eraseDups)
  | _ => s.homeOf c

/-- The least of a list of clusters. -/
def leastOf (l : List Nat) : Nat := l.foldl min 63

/-- The place of a queue's turn in a keystone's turns: its priority, for the primary or the fill context (R220, R391). -/
def turnAt (prio : Nat) (fill : Bool) : Nat := prio % 4 + (if fill then 4 else 0)

/-- A queue has had its turn on some clusters among those of its priority (R220). -/
def State.tookTurn (s : State) (cl : List Nat) (q prio : Nat) (fill : Bool) : State :=
  cl.foldl (fun s k => s.setKeystone k (fun y => { y with turns := modNth y.turns (turnAt prio fill) (fun _ => (q + 1) % 16) })) s

/-- The command that a cluster starts for its primary or its fill context among those of its queues that pass: the highest priority first,
then the queues' turn (R220). -/
def State.pickEntry (s : State) (c k : Nat) (fill : Bool) (pass : Nat → Queue → QEntry → Begin → Bool) : Option (Nat × Queue × QEntry × Begin) :=
  let cands := (List.range 16).filterMap (fun q =>
    match s.ready c q with
    | some (x, e, st) => if st ≠ .mark ∧ (s.startOn c e st).contains k ∧ pass q x e st then some (q, x, e, st) else none
    | none => none)
  let rank := fun (y : Nat × Queue × QEntry × Begin) =>
    16 * y.2.1.prio + (y.1 + 16 - ((s.keystone k).turns[turnAt y.2.1.prio fill]?).getD 0) % 16
  cands.foldl (fun best y => match best with
    | none => some y
    | some b => if rank y < rank b then some y else best) none

/-! ## Entries that run nothing (R140, R378) -/

/-- An entry commits without running: status and instruction entries, then its notice (R383). -/
def State.commitEntry (s : State) (c q : Nat) (e : QEntry) (status : Nat) (entries : List Bytes) : State :=
  let lead := leastOf (s.homeOf c)
  let stamp := s.dieNow (lead / 8)
  let s := (s.putRecord c q (.plain stamp status 0) entries).notice c q lead e.flags e.notify status
  s.count 2 (lead / 8) lead 0 1

/-- An entry fails: its event, record and notice, and the teardown that STALE_SHARD and PARTITION_VIOLATION cause (R14, R395). -/
def State.failEntry (s : State) (c q : Nat) (x : Queue) (e : QEntry) (status : Nat) : State :=
  let lead := leastOf (s.homeOf c)
  let s := s.event (lead / 8) kFailed c lead (BitVec.ofNat 8 status) (leBytes 1 q ++ leBytes 4 x.records.toNat)
  let s := (s.putRecord c q (.plain (s.dieNow (lead / 8)) status 0) []).notice c q lead e.flags e.notify status
  s.beginTeardown c status

/-- The one instruction entry of a rejected entry (R378); what R378 does not state of it is free. -/
def State.rejectBytes (s : State) (q : Nat) (x : Queue) (detail : Nat) : Bytes × State :=
  let lead := leastOf []
  let stamp := s.dieNow (lead / 8)
  let (lcore, s) := s.draw
  let (native, s) := s.draw
  let (clu, s) := s.draw
  let (reps, s) := s.draw
  let e : SkipEntry := { index := 0, cause := cReserved, lcore := lcore, cluster := clu, repeats := reps, detail := detail }
  (skipBytes stamp x.records.toNat q e 0xFFFFFFFF native, s)

/-- An entry that runs nothing dealt with; a `run` is left alone. -/
def State.dealEntry (s : State) (c q : Nat) (x : Queue) (e : QEntry) (st : Begin) : State :=
  match st with
  | .reject d => let (b, s) := s.rejectBytes q x d; s.commitEntry c q e stSkipped [b]
  | .badWait =>
    let v := BitVec.ofNat 64 e.waitAt
    let s := s.violate (0x200 + leastOf (s.homeOf c)) c (some (s.ctxPart c)) (gSpace v) (gOff v)
    s.failEntry c q x e stPartition
  | .mark => s.commitEntry c q e stEmpty []
  | .empty => s.commitEntry c q e stEmpty []
  | .foreign => s.failEntry c q x e stPartition
  | .run _ => s

/-- MARK: a MARK entry commits at once, writes nothing and reports EMPTY (R378). -/
def execMark (ctx q : Nat) (s : State) : Host.Outcome State Fault Refusal :=
  onUnit (ctxOk ctx) "context" s <|
    match s.ready ctx q with
    | some (x, e, st) => if e.kind = 1 then s.dealEntry ctx q x e st else s
    | none => s

/-! ## Start (R106, R108, R163, R382, R384, R391, R392) -/

/-- The part of a range of keys that lies in pages a partition may write (R327). -/
def State.writable (s : State) (p : Nat) (r : Nat × Nat) : List (Nat × Nat) :=
  let page := r.1 / 2 ^ 21
  (List.range (ceilDiv (r.1 % 2 ^ 21 + r.2) (2 ^ 21))).filterMap (fun i =>
    let a := max r.1 ((page + i) * 2 ^ 21)
    let b := min (r.1 + r.2) ((page + i + 1) * 2 ^ 21)
    if s.pageOk false p true (a / 2 ^ 48) (a % 2 ^ 48) then some (a, b - a) else none)

/-- The bytes of the memory outputs of a command, as keys and lengths (R384), where its partition may write them: a write that fails
the check performs nothing (R327). -/
def outRanges (s : State) (h : Here) : List (Nat × Nat) :=
  h.cmd.outs.flatMap (fun ix =>
    if ix < hDescCount h.prog ∧ num (descAt h.prog ix) 0 1 = dtTensor then
      match parseTen (descAt h.prog ix) h.args with
      | none => []
      | some t =>
        let sc := if t.fmt = 2 then (spanKeys s h 0 t.sbase (t.sbase % 2 ^ 48) (4 * t.groups)).toOption.getD [] else []
        let l := keyRuns (((tenKeys s h 0 t).toOption.getD [] ++ sc).filter (fun k => !isRemote k && !isClu k))
        match s.runOf h.lead with
        | some r => l.flatMap (s.writable (s.ctxPart r.ctx))
        | none => []
    else [])

/-- A program's native code put by the translator into those of its pages that hold neither it nor an image that firmware has loaded for its
context; the tag it chooses is free (R120, R130). -/
def State.placePages (s : State) (p : Program) (cmd : Nat) : State :=
  (p.pagesOf cmd).foldl (fun s x =>
    let y := s.page x.1 x.2
    if y.prog = some p.uid || (y.loaded && y.prog.isNone && y.owner == p.ctx) || y.waiting then s else
    let (tag, s) := s.draw
    let y : ImemPage := { owner := p.ctx, loaded := true, waiting := false, tag := BitVec.ofNat 32 tag,
                          words := min 4096 (Config.nativeCount p.image cmd 0 p.mapVer), image := [], prog := some p.uid }
    s.setKeystone x.1 (fun k => { k with pages := modNth k.pages x.2 (fun _ => y) })) s

/-- The scratchpads of a lead cluster by offset from its first slot, and put back. -/
def State.takeScratch (s : State) (lead : Nat) : List Host.Cell × List (Nat × BitVec 2) :=
  let a := 128 * lead * 2 ^ 22
  let b := 128 * lead * 2 ^ 17
  ((s.scratch.filter (fun c => decide (a ≤ c.1) && decide (c.1 < a + 128 * 2 ^ 22))).map (fun c => (c.1 - a, c.2)),
   (s.scratchG.filter (fun g => decide (b ≤ g.1) && decide (g.1 < b + 128 * 2 ^ 17))).map (fun g => (g.1 - b, g.2)))

def State.putScratch (s : State) (lead : Nat) (t : Staged) : State :=
  { s with scratch := t.scratch.foldl (fun m c => memSet m (128 * lead * 2 ^ 22 + c.1) c.2) s.scratch,
           scratchG := t.grans.foldl (fun l g => kvSet l (128 * lead * 2 ^ 17 + g.1) g.2) s.scratchG }

/-- The faults that a command on some clusters meets (R216, R318, R398; log entries 98 and 105). -/
def State.struckIn (s : State) (cl : List Nat) : Struck :=
  { clu := (Config.cluStruck s.fresh).filter (fun g => isClu (32 * g) && cl.contains (32 * g / 2 ^ 24 % 64))
    llm := Config.llmStruck s.fresh
    acc := (Config.accStruck s.fresh).filter (fun x => cl.contains (x.2.2 / 16) && (s.liveCores (x.2.2 / 16)).contains (x.2.2 % 16))
    code := Config.codeStruck s.fresh }

/-- A command starts on its clusters: scratchpads and accumulators are clear (R106, R108), its roots are read (R163) or, at a later piece,
what its earlier pieces staged is taken up (R157); its outputs become indeterminate to all others (R384). -/
def State.startRun (s : State) (c q : Nat) (x : Queue) (e : QEntry) (p : Program) (fill : Bool) : State :=
  let cl := (p.place[e.cmd]?).getD []
  let lead := leastOf cl
  let now := s.plumb.now
  let bad := s.struckIn cl
  let takes := if x.killed then x.takes else []
  let s : State := { s with fresh := s.fresh + 1 }
  let base : Run := { Run.blank with lead := lead, clusters := cl, ctx := c, queue := q, entry := x.records, fill := fill, prog := p.uid,
                                     cmd := e.cmd, step := e.step, args := e.args, flags := BitVec.ofNat 8 e.flags,
                                     notify := BitVec.ofNat 64 e.notify, started := s.dieNow (lead / 8), pieces := piecesOf p.image e.cmd,
                                     rerun := x.rerun, takes := takes, next := (cmdAt p.image e.cmd).first, struck := bad,
                                     stalls := modNth Run.blank.stalls 10 (fun _ => x.fillKill) }
  let s := s.release base
  let s := cl.foldl (fun s k => s.setKeystone k (fun y =>
    { y with reserved := none, gated := false, lastCmd := now })) s
  let s := s.tookTurn cl q x.prio fill
  let s := (s.takeUnits cl).placePages p e.cmd
  let s := match x.staged with
    | some t =>
      let kept : Run := { t.run with lead := lead, clusters := cl, fill := fill, struck := bad, rerun := x.rerun, takes := takes,
                                     stalls := modNth t.run.stalls 10 (· + x.fillKill) }
      ({ s with runs := s.runs ++ [kept] } : State).putScratch lead t
    | none =>
      let s : State := { s with runs := s.runs ++ [base] }
      readRoots (s.hereAt base base.next) s
  s.setQueue c q (fun y => { y with prog := some p.uid, hide := outRanges s (s.hereAt base base.next), killed := false, fillKill := 0 })

/-- Whether a primary command runs on a cluster. -/
def State.primaryBusy (s : State) (k : Nat) : Bool := (s.runsOn k).any (fun r => !r.fill)

/-- Whether a cluster's reservation leaves it to a queue (R382). -/
def State.freeFor (s : State) (k c q : Nat) : Bool :=
  match (s.keystone k).reserved with
  | none => true
  | some y => y == (c, q)

/-- The primary command that a cluster would start (R220, R382). -/
def State.primaryNext (s : State) (k : Nat) : Option (Nat × Nat × Queue × QEntry × Begin) :=
  match s.primary k with
  | none => none
  | some c =>
    (s.pickEntry c k false (fun q _ e st => s.freeFor k c q && ((s.startOn c e st).all (fun k => s.primary k == some c) || (s.grantedTo c).isEmpty))).map
      (fun y => (c, y.1, y.2.1, y.2.2.1, y.2.2.2))

/-- The fill commands on clusters killed where they can be (R392). -/
def State.killFills (s : State) (cl : List Nat) : State :=
  let l := s.runs.filter (fun r => r.fill && r.clusters.any cl.contains && s.killable r)
  l.foldl (fun s r => s.killRun r stKillFill true) s

/-- COMMAND_START: the keystone of a cluster starts the next ready command of its primary context, killing fill work in its way; a command
of several clusters reserves those that are free until it has them all (R220, R381, R382, R392). -/
def execCommandStart (k : Nat) (s : State) : Host.Outcome State Fault Refusal :=
  onUnit (clusterOk k) "cluster" s <|
    if s.primaryBusy k then s else
    match s.primaryNext k with
    | none => s
    | some (c, q, x, e, st) =>
      match st with
      | .run p =>
        let cl := s.startOn c e st
        if leastOf cl ≠ k then s
        else
          let keep := fun (s : State) => (cl.filter (fun k => !s.primaryBusy k && s.freeFor k c q)).foldl
            (fun s k => s.setKeystone k (fun y => { y with reserved := some (c, q) })) s
          if cl.any (fun k => s.primaryBusy k || !s.freeFor k c q) then keep s
          else
            let s := s.killFills cl
            if cl.any (fun k => !(s.runsOn k).isEmpty) then keep s else s.startRun c q x e p false
      | st => (s.dealEntry c q x e st).tookTurn [k] q x.prio false

/-- Whether a command may run as fill (R391): FILL_ELIGIBLE, no resident map, LEASE, REDUCE.SEND, MEDIA.DECODE or MEDIA.ENCODE. -/
def mayFill (p : Bytes) (cmd : CmdEntry) (args : List Nat) : Bool :=
  let map := fun ix => decide (ix < hDescCount p) && num (descAt p ix) 0 1 == dtTensor &&
    match parseTen (descAt p ix) args with
    | some t => t.base / 2 ^ 48 % 8 == 3 && inCluWindow (t.base % 2 ^ 48) && decide (t.base % 2 ^ 24 ≥ 0x400000)
    | none => false
  cmd.flags % 2 == 1 && !cmd.outs.any map && (List.range cmd.count).all (fun k =>
    let w := wordAt p (cmd.first + k)
    !w.leases && w.op != 0x200 && w.op != 0x240 && w.op != 0x241 && !([w.a, w.b, w.c].any map))

/-- What the fill slot of a cluster takes from context `c`: a command that may run as fill on clusters without other work, and, for a context
without granted clusters, entries that run nothing (R391). -/
def State.fillPass (s : State) (c : Nat) (_ : Nat) (_ : Queue) (e : QEntry) (st : Begin) : Bool :=
  match st with
  | .run p => (s.startOn c e st).all (fun k => s.fillCtx k == some c && (s.runsOn k).isEmpty)
                && mayFill p.image (cmdAt p.image e.cmd) (e.args.map (·.toNat))
  | _ => (s.grantedTo c).isEmpty

/-- FILL_COMMAND_START: a cluster without primary work starts the next ready command of its fill context (R391). -/
def execFillCommandStart (k : Nat) (s : State) : Host.Outcome State Fault Refusal :=
  onUnit (clusterOk k) "cluster" s <|
    match s.fillCtx k with
    | none => s
    | some c =>
      if !(s.runsOn k).isEmpty then s else
      match s.pickEntry c k true (s.fillPass c) with
      | none => s
      | some (q, x, e, .run p) => if leastOf (s.startOn c e (.run p)) = k then s.startRun c q x e p true else s
      | some (q, x, e, st) => (s.dealEntry c q x e st).tookTurn [k] q x.prio true

/-! ## What a commit publishes (R117, R185, R215, R321, R383) -/

/-- Cells cut into runs within 64-byte lines. -/
def lineRuns : List Host.Cell → List (Nat × Bytes)
  | [] => []
  | (k, b) :: t =>
    match lineRuns t with
    | (a, bs) :: l => if a = k + 1 ∧ a / 64 = k / 64 then (k, b :: bs) :: l else (k, [b]) :: (a, bs) :: l
    | [] => [(k, [b])]

/-- Memory cells of a command performed with the hints of their lines (R321). -/
def State.putCells (s : State) (r : Run) (cells : List Host.Cell) (stamp : BitVec 64) : State :=
  (lineRuns cells).foldl (fun s x =>
    let hint := ((r.hints.find? (fun e => e.1 == x.1 / 64)).map (·.2)).getD 0
    s.store (s.ctxPart r.ctx) hint (x.1 / 2 ^ 48) (x.1 % 2 ^ 48) x.2 stamp) s

/-- Cells of resident maps written with the tags of their granules (R123, R214). -/
def State.putMaps (s : State) (r : Run) (cells : List Host.Cell) : State :=
  cells.foldl (fun (s : State) c =>
    let t := (kvGet r.outTags (c.1 / 32)).getD 0#2
    { s with mem := memSet s.mem c.1 c.2, indet := cutRanges s.indet c.1 1,
             memTags := if t = 0#2 then kvDel s.memTags (c.1 / 32) else kvSet s.memTags (c.1 / 32) t }) s

/-- Step 5 of the commit for the outputs: held cells and key-value rows performed, the working area dropped (R185, R213, R383). -/
def State.publish (s : State) (r : Run) (stamp : BitVec 64) : State :=
  let here := r.overlay.filter (fun c => !isRemote c.1 && !isWorking c.1)
  let s := (s.putCells r (here.filter (fun c => !isClu c.1)) stamp).putMaps r (here.filter (fun c => isClu c.1))
  let s := s.putCells r r.scatter stamp
  { s with indet := s.indet ++ r.loose }

/-- The granules that a command would publish with their tags: its outputs, those in other packages too, and its held key-value rows (R125,
R126, R185). -/
def Run.published (r : Run) : List (Nat × BitVec 2) :=
  r.outTags.filter (fun t => !isWorking (32 * t.1)) ++ r.scatterTags

/-- The bytes of a command's remote outputs as WRITE packets, sent before its commit (R347). -/
def State.sendRemote (s : State) (r : Run) : State :=
  let cells := r.overlay.filter (fun c => isRemote c.1)
  let hub := servingHub (r.lead / 8)
  let s := s.setRun r.lead (fun r => { r with remSent := true })
  (keyRuns (cells.map (·.1))).foldl (fun (s : State) x =>
    let pkg := x.1 / 2 ^ 52 - 1
    let space := x.1 / 2 ^ 48 % 16
    let off := x.1 % 2 ^ 48
    let bs := (cells.filter (fun c => decide (x.1 ≤ c.1) && decide (c.1 < x.1 + x.2))).map (·.2)
    let (tag, s) := s.newTag
    let a := gAddr pkg space off
    let u : Remote := { tag := tag, use := .command r.lead, addr := a, bytes := bs.length, since := s.plumb.now }
    let s : State := { s with remotes := s.remotes ++ [u] }
    s.sendBy hub (s.packet pkg (s.cutClass r pkg space off) (s.ctxJob r.ctx) (.write a tag bs))) s

/-- The count blocks of a command's output tensors, as addresses with their 32 bytes (R95). An output that names no descriptor, or none that is
a consistent COUNT_BLOCK, has no block written (log entry 96). -/
def countBlocks (h : Here) (r : Run) : List (Nat × Bytes) :=
  h.cmd.outs.filterMap (fun ix =>
    if ix < hDescCount h.prog ∧ num (descAt h.prog ix) 0 1 = dtTensor then
      match parseTen (descAt h.prog ix) h.args with
      | none => none
      | some t =>
        if t.count ≥ hDescCount h.prog then none else
        (parseCount (descAt h.prog t.count)).map (fun a =>
          let c := (r.counts.find? (fun c => c.desc == ix)).getD
            { desc := ix, overflow := 0, underflow := 0, nan := 0, saturated := 0, emptyRows := 0, inexactLow := 0, elements := 0 }
          (a, leBytes 4 c.overflow ++ leBytes 4 c.underflow ++ leBytes 4 c.nan ++ leBytes 4 c.saturated ++ leBytes 4 c.emptyRows
            ++ leBytes 4 c.inexactLow ++ leBytes 4 c.elements ++ leBytes 4 0))
    else none)

/-- Whether a count block lies in the context's partition (R95). -/
def State.blockOk (s : State) (c a : Nat) : Bool :=
  let v := BitVec.ofNat 64 a
  gPkg v == s.sec.pkg && s.allowed false (s.ctxPart c) true (gSpace v) (gOff v) 32

/-- The instruction entries of a command in order, with MORE_SKIPS as the 64th; what R160 does not state of it is free (R160). -/
def State.entriesOf (s : State) (r : Run) (stamp : BitVec 64) : List Bytes × State :=
  let es := r.skips.foldl (fun (acc : List Bytes × State) e =>
    let (native, s) := acc.2.draw
    (acc.1 ++ [skipBytes stamp r.entry.toNat r.queue e e.index native], s)) ([], s)
  if r.moreSkips = 0 then es else
  let (lcore, s) := es.2.draw
  let (quento, s) := s.draw
  let (native, s) := s.draw
  let (clu, s) := s.draw
  let (reps, s) := s.draw
  let e : SkipEntry := { index := 0, cause := cMore, lcore := lcore, cluster := clu, repeats := reps, detail := r.moreSkips }
  (es.1 ++ [skipBytes stamp r.entry.toNat r.queue e quento native], s)

/-- The sum of one count over a command's outputs, saturating (R95). -/
def Run.sum (r : Run) (f : Counts → Nat) : Nat := r.counts.foldl (fun n c => sat32 n (f c)) 0

/-- The status of a command that commits (R14, R15, R96): EMPTY when none of its instructions has written anything, into memory or into a
REGION, and either none was skipped or its outputs are all empty (log entry 96). -/
def Run.status (r : Run) (h : Here) : Nat :=
  let wrote := !(r.overlay.filter (fun c => !isWorking c.1)).isEmpty || !r.scatter.isEmpty || !r.sendBufs.isEmpty || !r.leases.isEmpty
    || !r.reads.isEmpty || r.counts.any (fun c => c.elements != 0)
  committedStatus (!wrote && (r.skips.isEmpty || noOutput h.prog h.cmd h.args)) (!r.skips.isEmpty) (r.skips.all (fun e => e.cause == cFused)) r.dimLimit
    r.damaged r.budget (r.sum (·.saturated)) (r.sum (·.overflow)) (r.sum (·.nan))

/-- The granules of a command's outputs that carry SKIP (R125, R184). -/
def Run.blotted (r : Run) : List Nat := (r.published.filter (fun t => t.2.getLsbD 1)).map (·.1)

/-- What a command's record tells (R385). -/
def Run.record (r : Run) (stamp : BitVec 64) (status blots : Nat) : RecordArgs :=
  { stamp := stamp, status := status, ovf := r.sum (·.overflow), udf := r.sum (·.underflow), nans := r.sum (·.nan),
    sat := r.sum (·.saturated), empties := r.sum (·.emptyRows), gen := r.gen, blots := blots, stalls := r.stalls, cause := 0 }

/-! ## Failure (R97, R215, R242, R384, R395) -/

/-- The granules of the resident maps that a failed command fills (R215). -/
def State.filledMaps (s : State) (h : Here) (r : Run) : List Nat :=
  h.cmd.outs.flatMap (fun ix =>
    if ix < hDescCount h.prog ∧ num (descAt h.prog ix) 0 1 = dtTensor then
      match parseTen (descAt h.prog ix) h.args with
      | none => []
      | some t =>
        let clu := ((tenKeys s h 0 t).toOption.getD []).filter (fun k => isClu k && !isWorking k)
        if (checkKeys s r true clu).toOption.isNone then [] else (clu.map (· / 32)).eraseDups
    else [])

/-- The resident maps that a failed command would have written receive the canonical fill (R215). -/
def State.fillMaps (s : State) (h : Here) (r : Run) : State :=
  h.cmd.outs.foldl (fun (s : State) ix =>
    if ix < hDescCount h.prog ∧ num (descAt h.prog ix) 0 1 = dtTensor then
      match parseTen (descAt h.prog ix) h.args with
      | none => s
      | some t =>
        let ks := (tenKeys s h 0 t).toOption.getD []
        let clu := ks.filter (fun k => isClu k && !isWorking k)
        if clu.isEmpty || (checkKeys s r true clu).toOption.isNone then s else
        let es := elemSize t.fmt
        (ks.zip (List.range ks.length)).foldl (fun (s : State) x =>
          { s with mem := memSet s.mem x.1 (BitVec.ofNat 8 (fillCode t.fmt / 256 ^ (x.2 % es) % 256)),
                   memTags := kvDel s.memTags (x.1 / 32), indet := cutRanges s.indet x.1 1 }) s
    else s) s

/-- A failed command: its event, the fill of its resident maps, its record with the counts so far and the granules filled (R15, R94, log
entry 96), its notice, and the teardown or the retirements that its code brings (R14, R97, R126, R127, R215, R383, R395). -/
def State.commitFailed (s : State) (r : Run) (status : Nat) : State :=
  let h := s.hereAt r r.next
  let s := s.event (r.lead / 8) kFailed r.ctx r.lead (BitVec.ofNat 8 status) (leBytes 1 r.queue ++ leBytes 4 r.entry.toNat)
  let blots := ((r.blotted ++ s.filledMaps h r).eraseDups).length
  let s := s.fillMaps h r
  let s := leaseFailed s r
  let s : State := { s with indet := s.indet ++ ((s.queue r.ctx r.queue).map (fun q => q.hide)).getD [] }
  let stamp := s.dieNow (r.lead / 8)
  let (es, s) := s.entriesOf r stamp
  let s := (s.putRecord r.ctx r.queue (r.record stamp status blots) es).notice r.ctx r.queue r.lead r.flags.toNat r.notify.toNat status
  let s := s.release r
  let s := if status = stStale ∨ status = stPartition then s.beginTeardown r.ctx status else s
  if status = stBlotted then r.blotCores.foldl (fun s no => s.retireCore r.ctx no r.entry) s else s

/-! ## The commit (R126, R383) -/

/-- A command, or its present piece, begun again on the same clusters from what its earlier pieces staged (R126, R157). -/
def State.startOver (s : State) (r : Run) (rerun : Bool) : State :=
  let bad := s.struckIn r.clusters
  let fresh : Run := { Run.blank with lead := r.lead, clusters := r.clusters, ctx := r.ctx, queue := r.queue, entry := r.entry, fill := r.fill,
                                      prog := r.prog, cmd := r.cmd, step := r.step, args := r.args, flags := r.flags, notify := r.notify,
                                      started := s.dieNow (r.lead / 8), pieces := r.pieces, rerun := rerun, takes := r.takes, struck := bad,
                                      next := (cmdAt (s.image r) r.cmd).first }
  let old := (s.queue r.ctx r.queue).bind (·.staged)
  let run := match old with
    | some t => { t.run with
        lead := r.lead
        clusters := r.clusters
        rerun := rerun
        takes := r.takes
        struck := bad }
    | none => fresh
  let s := (s.dropStreams r.lead).dropSends r.lead
  let s : State := { s with
    runs := s.runs.map (fun x => if x.lead == r.lead then run else x)
    remotes := s.remotes.filter (fun x => x.use != .command r.lead)
    scratch := s.scratch.filter (fun c => c.1 / 2 ^ 22 / 128 != r.lead)
    scratchG := s.scratchG.filter (fun g => g.1 / 2 ^ 17 / 128 != r.lead)
    engines := s.engines.filter (fun e => !r.clusters.contains (e.no / 64)) }
  let s := s.setQueue r.ctx r.queue (fun q => { q with rerun := rerun })
  match old with
  | some t => s.putScratch r.lead t
  | none => readRoots (s.hereAt fresh fresh.next) s

/-- The run of a command, or of its present piece, that would publish a PARITY granule is killed without a trace and made once more on the
same cores (R126, R157). The event names a core that raised a blot, or, where the tag came from outside, one of its cores: which is free. -/
def State.rerunBlot (s : State) (r : Run) : State :=
  let (n, s) := s.draw
  let core := match r.blotCores with
    | [] => 16 * r.lead + n % 16
    | a :: t => t.foldl min a
  let s := s.event (r.lead / 8) kRerun r.ctx core 0#8 (leBytes 1 r.queue ++ leBytes 4 r.entry.toNat)
  let s := r.clusters.foldl (fun s k => s.setKeystone k (fun x =>
    { x with struck := (r.blotCores.filter (fun no => no / 16 == k)).map (· % 16) })) s
  s.startOver r true

/-- Whether every instruction of a command has completed, in its last piece (R383). -/
def State.atEnd (s : State) (r : Run) : Bool :=
  let cmd := cmdAt (s.image r) r.cmd
  r.issued.isEmpty && decide (r.next ≥ cmd.first + cmd.count) && decide (r.piece + 1 ≥ r.pieces)

/-- Steps 6 to 8: what is applied with the commit stamp, the count blocks, entries, record and notice; the command is then done. A fill
command counts under `fill commands committed` alone (R54, log entry 97). -/
def State.commitRecord (s : State) (r : Run) : State :=
  let h := s.hereAt r r.next
  let stamp := r.stamp.getD (s.dieNow (r.lead / 8))
  let s := leaseCommit s r stamp
  let s := (countBlocks h r).foldl (fun s b => s.store (s.ctxPart r.ctx) 0 (gSpace (BitVec.ofNat 64 b.1)) (gOff (BitVec.ofNat 64 b.1)) b.2 stamp) s
  let status := r.status h
  let blots := r.blotted.length
  let (es, s) := s.entriesOf r stamp
  let s := (s.putRecord r.ctx r.queue (r.record stamp status blots) es).notice r.ctx r.queue r.lead r.flags.toNat r.notify.toNat status
  let s := s.sendMarks r.mirrored stamp
  let s := s.count 2 (r.lead / 8) r.lead (if r.fill then 2 else 0) 1
  s.release r

/-- Step 5: the outputs are performed, at the partner's memory too where they are mirrored, then the windows read with ADVANCE advance, and
releases in other packages begin; from here on the command completes (R266, R383, R459). The commit stamp is that of this moment, for shards and record alike (R41, R235). -/
def State.commitWrite (s : State) (r : Run) : State :=
  let stamp := s.dieNow (r.lead / 8)
  let (s, l) := (s.publish r stamp).ownMirror s.mirror.length r.lead
  let s := s.advanceReds r.reads
  let s := (s.dropSends r.lead).setRun r.lead (fun r => { r with wrote := true, mirrored := l, stamp := some stamp })
  leaseReleases s r.lead

/-- Steps 4 and 5 as far as they go: remote accumulates and remote writes leave and are answered (R254, R347). -/
def State.commitOn (s : State) (r : Run) : State :=
  if r.wrote then (if r.leasesClosed s.sec.pkg && !s.mirrorWaits r.lead then s.commitRecord r else s) else
  let s := if r.sending then s else s.beginSends r
  match s.runOf r.lead with
  | none => s
  | some r =>
    if r.failed.isSome || !s.sendsDone r.lead then s else
    let s := if r.remSent then s else s.sendRemote r
    if s.asking r.lead then s else
    let s := s.commitWrite r
    match s.runOf r.lead with
    | some r => if r.leasesClosed s.sec.pkg && !s.mirrorWaits r.lead then s.commitRecord r else s
    | none => s

/-- Whether a window that a command has read with ADVANCE has been read out by another command since (R266). The command then begins again, and
its read is skipped (log entry 104). -/
def State.readStale (s : State) (r : Run) : Bool :=
  r.reads.any (fun e => let x := s.redAt e.1 e.2.1; !(x.st == .closed && x.window == e.2.2))

/-- COMMAND_COMMIT: the commit sequence as far as it can go now; a later COMMAND_COMMIT goes on where answers were missing (R383). -/
def execCommandCommit (c : Nat) (s : State) : Host.Outcome State Fault Refusal :=
  onUnit (clusterOk c) "cluster" s <|
    match s.runOf c with
    | none => s
    | some r =>
      match r.failed with
      | some st => s.commitFailed r st.toNat
      | none =>
        if !s.atEnd r then s
        else if !r.wrote && s.readStale r then s.startOver r r.rerun
        else if r.wrote || r.sending then s.commitOn r
        else if r.published.any (fun t => t.2.getLsbD 0) then
          (if r.rerun then s.commitFailed r stBlotted else s.rerunBlot r)
        else
          match (countBlocks (s.hereAt r r.next) r).find? (fun b => !s.blockOk r.ctx b.1) with
          | some b => s.failRun r stPartition (some (gSpace (BitVec.ofNat 64 b.1), gOff (BitVec.ofNat 64 b.1)))
          | none =>
            let s := leaseChecks s c
            match s.runOf c with
            | none => s
            | some r => if r.failed.isNone ∧ r.leasesChecked then s.commitOn r else s

/-! ## Pieces (R157) -/

/-- The region of the STAGING buffer that belongs to a queue, where the program has one (R157). -/
def stagingRegion (p : Bytes) (q : Nat) : Option (Nat × Nat) :=
  if hStaging p ≥ hDescCount p then none
  else (parseStaging (descAt p (hStaging p))).map (fun x => (x.1 + q * (x.2 / 16), x.2 / 16))

/-- The keys of the media reports that a command has written (R157, R288): the REPORT tensors of its MEDIA.DECODE and
MEDIA.ENCODE words. -/
def reportKeys (s : State) (h : Here) : List Nat :=
  (List.range h.cmd.count).flatMap (fun k =>
    let w := wordAt h.prog (h.cmd.first + k)
    if w.op / 2 ≠ 0x120 ∨ w.a ≥ hDescCount h.prog then [] else
    let ix := num (descAt h.prog w.a) (if w.op = 0x240 then 60 else 64) 2
    if ix ≥ hDescCount h.prog ∨ num (descAt h.prog ix) 0 1 ≠ dtTensor then [] else
    match parseTen (descAt h.prog ix) h.args with
    | none => []
    | some t => (tenKeys s h 0 t).toOption.getD [])

/-- What a piece leaves for the next: its media reports appear, and scratchpads and outputs wait in the staging region of `n` bytes at
`v` (R157). -/
def State.stagePiece (s : State) (c : Nat) (r : Run) (v : BitVec 64) (n : Nat) : State :=
  let ks := reportKeys s (s.hereAt r r.next)
  let shown := r.overlay.filter (fun x => ks.contains x.1 && !isRemote x.1 && !isClu x.1)
  let s := s.putCells r shown (s.dieNow (c / 8))
  let s : State := { s.dropSends c with indet := cutRanges s.indet (memKey (gSpace v) (gOff v)) n ++ [(memKey (gSpace v) (gOff v), n)] }
  let r : Run := { r with piece := r.piece + 1, rerun := false, sending := false, sendBufs := [], roots := r.roots.filter (fun x => gSpace x.1 != 7),
                          overlay := r.overlay.filter (fun x => !(shown.any (fun y => y.1 == x.1))) }
  let t := s.takeScratch c
  let s := s.setRun c (fun _ => r)
  s.setQueue r.ctx r.queue (fun q =>
    { q with staged := some { run := r, scratch := t.1, grans := t.2 },
             rerun := false,
             hide := shown.foldl (fun l x => cutRanges l x.1 1) q.hide })

/-- Whether a granule of a command's send buffers carries PARITY (R253). -/
def Run.bufferBlotted (r : Run) : Bool :=
  r.outTags.any (fun t => t.2.getLsbD 0 && r.sendBufs.any (fun b =>
    decide (b.1 ≤ 32 * t.1 + 31) && decide (32 * t.1 < b.1 + ((r.sendBufs.filter (fun x => x.1 == b.1)).map (·.2)).foldl (· + ·) 0)))

/-- PIECE_END: an intermediate piece commits with nothing in flight. The blot check covers its send buffers, then its remote accumulates are
sent (R253), and its media reports appear; the rest goes to the staging region, whose bytes no rule states, and waits for the next piece
(R157). A command with LEASE instructions sends in its last piece alone (R253), so that its comparisons, made there (R242), come first. -/
def execPieceEnd (c : Nat) (s : State) : Host.Outcome State Fault Refusal :=
  onUnit (clusterOk c) "cluster" s <|
    match s.runOf c with
    | none => s
    | some r =>
      if r.failed.isSome || !r.issued.isEmpty || decide (r.piece + 1 ≥ r.pieces) then s
      else if !(s.sendsOf c).isEmpty && !r.leases.isEmpty then s
      else if !r.sending && r.bufferBlotted then (if r.rerun then s.commitFailed r stBlotted else s.rerunBlot r)
      else if !r.sending then s.beginSends r
      else if !s.sendsDone c then s
      else
        match stagingRegion (s.hereAt r r.next).prog r.queue with
        | none => s
        | some (a, n) =>
          let v := BitVec.ofNat 64 a
          if !(gPkg v == s.sec.pkg && s.allowed false (s.ctxPart r.ctx) true (gSpace v) (gOff v) n) then
            s.failRun r stPartition (some (gSpace v, gOff v))
          else s.stagePiece c r v n

/-! ## Kill, suspension, teardown (R376, R390, R392, R396, R397) -/

/-- COMMAND_KILL: a running command of a context that starts none any more, or a fill command in the way of a ready primary command, is
killed (R376, R390, R392). -/
def execCommandKill (c : Nat) (s : State) : Host.Outcome State Fault Refusal :=
  onUnit (clusterOk c) "cluster" s <|
    match s.runOf c with
    | none => s
    | some r =>
      if !s.killable r then s
      else if (s.ctx r.ctx).st ≠ .running then s.killRun r stPreempt ((s.ctx r.ctx).st != .tearing)
      else if r.fill && r.clusters.any (fun k => match s.primaryNext k with
          | some (_, _, _, _, .run _) => true
          | _ => false) then s.killRun r stKillFill true
      else s

/-- CONTEXT_SUSPEND: REQUEST reads SUSPEND; running commands are killed where that is possible (R376). -/
def execContextSuspend (ctx : Nat) (s : State) : Host.Outcome State Fault Refusal :=
  onUnit (ctxOk ctx) "context" s <|
    if s.tableOk && s.request ctx == 2 && (s.ctx ctx).st == .running then
      let s := s.ctxMove ctx .suspending 0#8
      (s.runs.filter (fun r => r.ctx == ctx && s.killable r)).foldl (fun s r => s.killRun r stPreempt true) s
    else s

/-- SUSPEND_COMPLETE: no command of the context remains on any cluster (R376). -/
def execSuspendComplete (ctx : Nat) (s : State) : Host.Outcome State Fault Refusal :=
  onUnit (ctxOk ctx) "context" s <|
    if (s.ctx ctx).st == .suspending && !s.runs.any (fun r => r.ctx == ctx) then s.ctxMove ctx .suspended 0#8 else s

/-- Steps 2 to 7 of teardown, when no command of the context runs any more (R396). -/
def State.tearRest (s : State) (c : Nat) : State :=
  let cause := (s.ctx c).cause
  let part := s.ctxPart c
  let gone := (s.streams.filter (fun x => x.ctx == c)).foldl (fun s x => s.freeEngine x) s
  let s : State := { gone with
    streams := gone.streams.filter (fun x => x.ctx != c)
    programs := gone.programs.filter (fun p => p.ctx != c)
    keystones := gone.keystones.map (fun k =>
      { k with
        reserved := match k.reserved with | some y => if y.1 = c then none else some y | none => none
        pages := k.pages.map (fun g => if g.owner == c && g.prog.isSome then ImemPage.clear else g) }) }
  let s := leaseTeardown (s.fenceReds c) c
  let s := (List.range 64).foldl (fun s k => ((s.grants k).filter (fun g => g.1 == c)).foldl (fun (s : State) g =>
    let a := cluKey k (g.2.2.1 * 65536)
    let n := (g.2.2.2 + 1 - g.2.2.1) * 65536
    { s with mem := memClear s.mem a n, memTags := s.memTags.filter (fun e => decide (32 * e.1 < a) || decide (a + n ≤ 32 * e.1)),
             indet := cutRanges s.indet a n }) s) s
  let s := (s.setBits (dieAt 8) .prtFence (2 ^ part)).setBits (dieAt 9) .prtFence (2 ^ part)
  let s := (List.range (s.ctx c).queues.length).foldl (fun (s : State) q =>
    match s.queue c q with
    | none => s
    | some x =>
      if !x.valid then s else
      let s : State := { s with indet := s.indet ++ x.hide }
      let s := s.setQueue c q (fun y => { y with stopped := true })
      (s.putRecord c q (.plain (s.dieNow 8) stTornDown cause.toNat) []).vector c) s
  let s := s.event 8 kTornDown c 0xFFFF cause []
  (s.vector 64).ctxMove c .tornDown cause

/-- Teardown as far as it can go: every command of the context that has not begun step 5 is killed without an event, and the rest follows
once none runs (R255, R396). -/
def State.tearDown (s : State) (c : Nat) : State :=
  if (s.ctx c).st ≠ .tearing then s else
  let s := (s.runs.filter (fun r => r.ctx == c && !r.wrote)).foldl (fun s r => s.killRun r stPreempt false) s
  if s.runs.any (fun r => r.ctx == c) then s else s.tearRest c

/-- CONTEXT_TEARDOWN: REQUEST reads TEARDOWN, or a cause of R395 has begun it (R396). -/
def execContextTeardown (ctx : Nat) (s : State) : Host.Outcome State Fault Refusal :=
  onUnit (ctxOk ctx) "context" s
    ((if s.tableOk && s.request ctx == 3 then s.beginTeardown ctx 0 else s).tearDown ctx)

/-- A context stopped for the whole package's sake: what runs is killed whatever it does, and it is torn down (R28). -/
def State.tearNow (s : State) (c cause : Nat) : State :=
  let s := s.beginTeardown c cause
  let s := (s.runs.filter (fun r => r.ctx == c)).foldl (fun s r => s.killRun r stPreempt false) s
  s.tearDown c

end Sys2Proof.Machine
end

