-- ==== Sys2Proof/Machine/Shake.lean ====
section
/-! DEFINITION. SHAKE256 (FIPS 202), the hash of R132, R356, R408, R411, R415 and R426 (log entry 30). -/

namespace Sys2Proof.Machine

/-- Lane `i` of a state of 25 lanes, numbered x + 5 y. -/
def spongeLane (a : List (BitVec 64)) (i : Nat) : BitVec 64 := (a[i]?).getD 0#64

/-- The rotation of each lane in the step ρ. -/
def rhoTurns : List Nat := [0, 1, 62, 28, 27, 36, 44, 6, 55, 20, 3, 10, 43, 25, 39, 41, 45, 15, 21, 8, 18, 2, 61, 56, 14]

/-- The constants of the step ι. -/
def iotaWords : List (BitVec 64) :=
  [0x0000000000000001#64, 0x0000000000008082#64, 0x800000000000808A#64, 0x8000000080008000#64, 0x000000000000808B#64,
   0x0000000080000001#64, 0x8000000080008081#64, 0x8000000000008009#64, 0x000000000000008A#64, 0x0000000000000088#64,
   0x0000000080008009#64, 0x000000008000000A#64, 0x000000008000808B#64, 0x800000000000008B#64, 0x8000000000008089#64,
   0x8000000000008003#64, 0x8000000000008002#64, 0x8000000000000080#64, 0x000000000000800A#64, 0x800000008000000A#64,
   0x8000000080008081#64, 0x8000000000008080#64, 0x0000000080000001#64, 0x8000000080008008#64]

/-- The step θ. -/
def theta (a : List (BitVec 64)) : List (BitVec 64) :=
  let c := (List.range 5).map (fun x => spongeLane a x ^^^ spongeLane a (x + 5) ^^^ spongeLane a (x + 10) ^^^ spongeLane a (x + 15) ^^^ spongeLane a (x + 20))
  let d := (List.range 5).map (fun x => spongeLane c ((x + 4) % 5) ^^^ (spongeLane c ((x + 1) % 5)).rotateLeft 1)
  a.mapIdx (fun i v => v ^^^ spongeLane d (i % 5))

/-- The steps ρ and π: lane (x, y) moves to (y, 2x + 3y). -/
def rhoPi (a : List (BitVec 64)) : List (BitVec 64) :=
  (List.range 25).map (fun i =>
    let x := i % 5
    let y := i / 5
    let j := (x + 3 * y) % 5 + 5 * x
    (spongeLane a j).rotateLeft ((rhoTurns[j]?).getD 0))

/-- The step χ. -/
def chi (a : List (BitVec 64)) : List (BitVec 64) :=
  a.mapIdx (fun i v => v ^^^ (~~~(spongeLane a ((i % 5 + 1) % 5 + i / 5 * 5)) &&& spongeLane a ((i % 5 + 2) % 5 + i / 5 * 5)))

/-- Keccak-f[1600]. -/
def keccak (a : List (BitVec 64)) : List (BitVec 64) :=
  iotaWords.foldl (fun a c =>
    match chi (rhoPi (theta a)) with
    | [] => []
    | v :: t => (v ^^^ c) :: t) a

/-- A message with its padding, cut into blocks of 136 bytes; `fuel` bounds the blocks. -/
def shakeBlocks : Nat → Bytes → List Bytes
  | 0, _ => []
  | fuel + 1, m =>
    if m.length < 136 then
      let z := m ++ (0x1F#8 :: List.replicate (135 - m.length) 0#8)
      [z.take 135 ++ [(z[135]?).getD 0#8 ||| 0x80#8]]
    else m.take 136 :: shakeBlocks fuel (m.drop 136)

/-- SHAKE256 of a message, `n` bytes of output up to 136. -/
def shake256 (n : Nat) (m : Bytes) : Bytes :=
  let absorb := fun (a : List (BitVec 64)) (b : Bytes) =>
    keccak (a.mapIdx (fun i v => if i < 17 then v ^^^ BitVec.ofNat 64 (num b (8 * i) 8) else v))
  let a := (shakeBlocks (m.length / 136 + 1) m).foldl absorb (List.replicate 25 0#64)
  (a.flatMap (fun v => leBytes 8 v.toNat)).take n

end Sys2Proof.Machine
end

