-- ==== Sys2Proof/Machine/Loader.lean ====
section
/-! DEFINITION. The Maelut translator as far as the manual describes it: load requests and their rejection (R151, R152, R464), replacement
(R153), placement (R154), splitting (R156, R157), the translation map (R158) and re-translation (R155). -/

namespace Sys2Proof.Machine

/-! ## Rejection (R132, R152, R464) -/

/-- Sections of a container as offset and size, the header first (R132). -/
def sections (p : Bytes) : List (Nat × Nat) :=
  [(0, 128), (hDescOff p, 128 * hDescCount p), (hCmdOff p, 64 * hCmdCount p), (hInstrOff p, 16 * hInstrCount p), (hConstOff p, hConstBytes p)]

/-- The header byte at which each section's offset stands. -/
def sectionField (k : Nat) : Nat := if k = 0 then 8 else 4 + 8 * k

/-- Two byte ranges share a byte. -/
def rangesMeet (x y : Nat × Nat) : Bool := x.2 != 0 && y.2 != 0 && decide (x.1 < y.1 + y.2) && decide (y.1 < x.1 + x.2)

/-- The first header field that breaks the bounds of R132. -/
def badSection (p : Bytes) : Option Nat :=
  let l := sections p
  if hTotal p > 0x10000000 ∨ hTotal p < 128 then some 8
  else if hDescCount p > 65535 then some 16
  else if hCmdCount p = 0 ∨ hCmdCount p > 65536 then some 24
  else if hInstrCount p > 2 ^ 24 then some 32
  else ((List.range 5).find? (fun k =>
    match l[k]? with
    | none => false
    | some x => x.1 % 16 != 0 || decide (x.1 + x.2 > hTotal p) || (l.take k).any (rangesMeet x))).map sectionField

/-- A command's entry lies outside its tables (R139, R152). -/
def badCommand (p : Bytes) (k : Nat) : Bool :=
  let c := cmdAt p k
  let o := hCmdOff p + 64 * k
  decide (c.first + c.count > hInstrCount p) || decide (num p (o + 16) 4 + 2 * num p (o + 20) 1 > hConstBytes p) || decide (num p (o + 20) 1 > 32)
    || decide (c.fcl + c.ncl > hClusters p)

/-- Whether an address of a descriptor as written lies outside the context's partition; one that names another package is not checked at
load (R464). -/
def State.outside (s : State) (c : Nat) (wr : Bool) (a n : Nat) : Bool :=
  let v := BitVec.ofNat 64 a
  if gPkg v ≠ s.sec.pkg ∨ n = 0 then false
  else if gSpace v = 3 ∧ inCluWindow (gOff v) then
    decide (gOff v % 2 ^ 24 ≥ 0x400000) && !(List.range 64).any (fun k => (s.grants k).any (fun g => g.1 == c
      && decide (g.2.2.1 ≤ gOff v % 2 ^ 24 / 65536) && decide ((gOff v % 2 ^ 24 + n - 1) / 65536 ≤ g.2.2.2)))
  else !s.allowed false (s.ctxPart c) wr (gSpace v) (gOff v) n

/-- Whether a descriptor holds an address that R464 rejects. -/
def State.badAddress (s : State) (c : Nat) (d : Bytes) : Bool :=
  let t := num d 0 1
  if t = dtTensor then
    match parseTen d (List.replicate 8 1) with
    | none => false
    | some x =>
      let wr := x.access / 2 != 0
      let fixed := num d 76 1 == 0
      let lo := if fixed then x.span.1 else x.base % 2 ^ 48
      let n := if fixed then x.span.2 - x.span.1 else 1
      (num d 77 1 == 0xFF && s.outside c wr (x.base / 2 ^ 48 * 2 ^ 48 + lo) n)
        || (x.fmt == 2 && s.outside c wr x.sbase (if fixed then 4 * x.groups else 1))
  else if t = dtCount then s.outside c true (num d 8 8) 32
  else if t = dtStaging then s.outside c true (num d 8 8) (num d 16 8)
  else if t = dtPages then num d 46 1 == 0xFF && s.outside c false (num d 16 8) 8
  else if t = dtSlotMap then num d 1 1 == 1 && s.outside c false (num d 16 8) 4
  else if t = dtShard then num d 1 1 == 0xFF && s.outside c false (num d 16 8) 32
  else if t = dtReduction then
    s.outside c true (num d 32 8) (num d 40 4) || (num d 16 8 != 0 && s.outside c true (num d 16 8) 16)
  else if t = dtStream then
    match num d 1 1 with
    | 0 => s.outside c false (num d 8 8) 64 || (num d 24 4 != 0 && s.outside c false (num d 16 8) 64)
             || s.outside c true (num d 48 8) (num d 56 4)
    | 1 => s.outside c true (num d 16 8) 64 || s.outside c true (num d 24 8) (num d 32 8) || s.outside c true (num d 40 8) (16 * num d 48 4)
             || s.outside c true (num d 52 8) (num d 60 4)
    | 2 => s.outside c false (num d 16 8) (32 * num d 24 4)
    | _ => false
  else false

/-- The descriptors that a descriptor names in its turn (R135, R170, R281, R302, R313); of a TENSOR that is an output, its count block. -/
def namedBy (p : Bytes) (outs : List Nat) (ix : Nat) : List Nat :=
  let d := descAt p ix
  let t := num d 0 1
  if ix ≥ hDescCount p then []
  else if t = dtTensor then (if outs.contains ix then [num d 74 2] else [])
  else if t = dtPages then [num d 10 2, num d 12 2, num d 14 2]
  else if t = dtStream then (match num d 1 1 with
    | 0 => [num d 60 2]
    | 1 => [num d 64 2]
    | _ => [num d 28 2, num d 30 2, num d 32 2, num d 34 2])
  else []

/-- The descriptors that a command reaches as its context's own data (R464): those its words and its OUTPUT_LIST name, what these name, and
the staging buffer where it is split (R157). -/
def reachedDescs (p : Bytes) (k : Nat) : List Nat :=
  let e := cmdAt p k
  let l := e.outs ++ (range' e.first e.count).flatMap (fun i => (wordAt p i).uses.map (·.1))
  let l := l ++ l.flatMap (namedBy p e.outs)
  if piecesOf p k = 1 then l else l ++ [hStaging p]

/-- The clusters that a command may be placed on (R389): its context's granted ones, and where it may run as fill also the fill ones. -/
def State.available (s : State) (c : Nat) (p : Bytes) (k : Nat) : List Nat :=
  s.grantedTo c ++ (if mayFill p (cmdAt p k) (List.replicate 8 0) then s.fillOf c else [])

/-- The most of a list of clusters that lie on one compute die. -/
def mostOnDie (l : List Nat) : Nat := ((List.range 8).map (fun d => (l.filter (fun k => k / 8 == d)).length)).foldl max 0

/-- STAGING_USED of a program (R151, R157). -/
def stagingUsed (p : Bytes) : Nat := ceilDiv ((List.range (hCmdCount p)).foldl (fun n k => max n (stagingNeed p k)) 0) 64 * 64

/-- Native instructions of a command over its pieces. -/
def nativesOf (p : Bytes) (k ver : Nat) : Nat := ((List.range (piecesOf p k)).map (fun j => Config.nativeCount p k j ver)).foldl (· + ·) 0

/-- The bytes of a whole translation map (R158). -/
def mapNeed (p : Bytes) (ver : Nat) : Nat :=
  (List.range (hCmdCount p)).foldl (fun n k => n + 24 * piecesOf p k + 8 * nativesOf p k ver) 32

/-- The size of the STAGING buffer that a program names (R137). -/
def stagingSize (p : Bytes) : Nat :=
  if hStaging p ≥ hDescCount p then 0 else ((parseStaging (descAt p (hStaging p))).map (·.2)).getD 0

/-- The first reason of R152 that applies from the header's own bytes, with its DETAIL. -/
def headReject (p : Bytes) : Option (Nat × Nat) :=
  if num p 0 4 ≠ 0x4F544E51 then some (0x01, 0)
  else if num p 4 1 ≠ 1 then some (0x02, 4)
  else (badSection p).map (fun f => (0x03, f))

/-- The first reason of R152 that applies to a whole image, with its DETAIL. -/
def State.bodyReject (s : State) (c : Nat) (p : Bytes) (handle room : Nat) : Option (Nat × Nat) :=
  let cmds := List.range (hCmdCount p)
  let fused := ((List.range 64).filter s.present).length
  let mine := (s.grantedTo c ++ s.fillOf c).length
  if shake256 32 (sub p 128 (hTotal p - 128)) ≠ sub p 64 32 then some (0x04, 64)
  else if hFlags p > 1 then some (0x05, 6)
  else if num p 47 1 ≠ 0 then some (0x05, 47)
  else if !allZero (sub p 50 6) then some (0x05, 50)
  else if !allZero (sub p 96 32) then some (0x05, 96)
  else match (List.range (hDescCount p)).find? (fun k => num (descAt p k) 0 1 == 0 || decide (num (descAt p k) 0 1 > 0x0A)) with
  | some k => some (0x06, k)
  | none =>
  if hCores p = 0 ∨ hCores p > 16 then some (0x07, hCores p)
  else if hClusters p = 0 ∨ hClusters p > fused ∨ hClusters p > mine then some (0x08, hClusters p)
  else match cmds.find? (fun k => decide ((cmdAt p k).ncl > mostOnDie (s.available c p k)) || decide ((cmdAt p k).ncl > 8)) with
  | some k => some (0x09, k)
  | none =>
  match cmds.find? (badCommand p) with
  | some k => some (0x0A, k)
  | none =>
  let used := cmds.flatMap (reachedDescs p)
  match (List.range (hDescCount p)).find? (fun k => used.contains k && s.badAddress c (descAt p k)) with
  | some k => some (0x0B, k)
  | none =>
  match cmds.find? (fun k => decide (piecesOf p k > 1) && decide (stagingSize p < 16 * stagingUsed p)) with
  | some k => some (0x0C, k)
  | none =>
  match cmds.find? (fun k => decide (nativesOf p k 1 > 32768)) with
  | some k => some (0x0D, k)
  | none =>
  if mapNeed p 1 > room then some (0x0E, mapNeed p 1 % 2 ^ 32)
  else if handle ≠ 0xFFFFFFFF ∧ !s.programs.any (fun x => x.ctx == c && x.handle.toNat == handle && !x.replaced) then some (0x0F, handle)
  else none

/-! ## Placement (R154) -/

/-- Logical clusters shared out over usable clusters in ascending order: one each where there are enough, else evenly with the larger
shares first. -/
def shareOut (l : List Nat) (first n : Nat) : List Nat :=
  let so := l.foldl (fun acc k => insertNat k acc) []
  if so.isEmpty then []
  else if n ≤ so.length then (List.range n).map (fun j => (so[(first + j) % so.length]?).getD 0)
  else (List.range n).map (fun j => hostCore so n j)

/-- The clusters of a command: on a die with enough usable granted clusters, else with enough fill ones, else with enough of both, else on
the die that has the most; which of several equal dies is the translator's choice, a free number `pick` (R154). -/
def State.placeOf (s : State) (c : Nat) (p : Bytes) (k pick : Nat) : List Nat :=
  let cmd := cmdAt p k
  let on := fun (l : List Nat) (d : Nat) => l.filter (fun x => x / 8 == d && s.usableClu x)
  let g := s.grantedTo c
  let f := if mayFill p cmd (List.replicate 8 0) then s.fillOf c else []
  let dies := fun (l : List Nat) => (List.range 8).filter (fun d => !(on l d).isEmpty && decide (cmd.ncl ≤ (on l d).length))
  let take := fun (l ds : List Nat) => shareOut (on l ((ds[pick % ds.length]?).getD 0)) cmd.fcl cmd.ncl
  if cmd.ncl = 0 then []
  else if !(dies g).isEmpty then take g (dies g)
  else if !(dies f).isEmpty then take f (dies f)
  else if !(dies (g ++ f)).isEmpty then take (g ++ f) (dies (g ++ f))
  else
    let most := mostOnDie ((g ++ f).filter s.usableClu)
    if most = 0 then [] else
    take (g ++ f) ((List.range 8).filter (fun d => (on (g ++ f) d).length == most))

/-- The pages of a command: a run of pages on each of its clusters that no command uses and that hold neither another context's image nor one
that firmware has loaded, a free choice `pick` among such runs, of those that hold nothing where there is one; none where there is no such
run (R120, R122). -/
def State.choosePages (s : State) (c : Nat) (place : List Nat) (n pick : Nat) : Option (Nat × Nat) :=
  let cl := place.eraseDups
  let free := fun p => cl.all (fun k =>
    let y := s.page k p
    !y.waiting && (!y.loaded || (y.owner == c && y.prog.isSome)) && s.pageRefs k p == 0)
  let clear := fun p => cl.all (fun k => !(s.page k p).loaded)
  let starts := (List.range 8).filter (fun a => decide (a + n ≤ 8) && (range' a n).all free)
  let best := starts.filter (fun a => (range' a n).all clear)
  let l := if best.isEmpty then starts else best
  if l.isEmpty then none else some ((l[pick % l.length]?).getD 0, n)

/-! ## The translation map (R158) -/

/-- The bytes of the piece entry `j` of command `k` with its native entries. -/
def pieceEntry (p : Bytes) (k j ver : Nat) (place : List Nat) : Bytes :=
  let n := Config.nativeCount p k j ver
  leBytes 4 k ++ leBytes 2 j ++ leBytes 2 (piecesOf p k) ++ leBytes 8 ((place.eraseDups.map (2 ^ ·)).foldl (· + ·) 0) ++ leBytes 4 n ++ leBytes 4 0
    ++ (List.range n).flatMap (fun i => leBytes 4 (Config.nativeQuento p k j ver i) ++ leBytes 4 i)

/-- A translation map in the room it has: header and as many whole piece entries as fit, in order. -/
def mapBytes (x : Program) (room : Nat) : Bytes :=
  let p := x.image
  let es := (List.range (hCmdCount p)).flatMap (fun k =>
    (List.range (piecesOf p k)).map (fun j => pieceEntry p k j x.mapVer ((x.place[k]?).getD [])))
  let need := mapNeed p x.mapVer
  let fit := es.foldl (fun (acc : Bytes × Bool) e =>
    if acc.2 && decide (32 + acc.1.length + e.length ≤ room) then (acc.1 ++ e, true) else (acc.1, false)) ([], true)
  leBytes 4 x.handle.toNat ++ leBytes 4 es.length ++ leBytes 4 x.mapVer ++ leBytes 4 (b2n (need > room)) ++ leBytes 4 need ++ leBytes 12 0 ++ fit.1

/-! ## Load requests (R151, R153) -/

/-- An address that the translator uses for a context: near memory of this package in pages of its partition (R151). -/
def State.loadAddr (s : State) (c : Nat) (wr : Bool) (a n : Nat) : Bool :=
  let v := BitVec.ofNat 64 a
  gPkg v == s.sec.pkg && gSpace v == 0 && s.allowed false (s.ctxPart c) wr 0 (gOff v) n

/-- A partition violation by firmware acting for a context: recorded for a control core of its translator's hub, which of the four is free,
and the context is torn down (R151, R327, R395). -/
def State.loadViolation (s : State) (c a : Nat) : State :=
  let (k, s) := s.draw
  let v := BitVec.ofNat 64 a
  ((s.violate (0x100 + 4 * ((s.ctx c).translator - 8) + k % 4) c (some (s.ctxPart c)) (gSpace v) (gOff v))).beginTeardown c stPartition

/-- The 64 bytes of a load response. -/
def responseBytes (stamp : BitVec 64) (status reason detail handle pieces staging progId used : Nat) : Bytes :=
  leBytes 8 stamp.toNat ++ leBytes 1 status ++ leBytes 1 reason ++ leBytes 2 0 ++ leBytes 4 detail ++ leBytes 4 handle ++ leBytes 4 pieces
    ++ leBytes 8 staging ++ leBytes 8 progId ++ leBytes 4 used ++ leBytes 20 0

/-- A request taken: its response written and LOAD_HEAD advanced in the context's entry (R151, R374). -/
def State.respond (s : State) (c resp : Nat) (bs : Bytes) : State :=
  let x := s.ctx c
  let now := s.dieNow x.translator
  let s := s.store (s.ctxPart c) 0 0 (gOff (BitVec.ofNat 64 resp)) bs now
  let head := x.loadHead + 1#32
  (s.setCtx c (fun x => { x with loadHead := head })).store 0 0 0 (s.entryBase c + 56) (leBytes 4 head.toNat) now

/-- LOAD_REJECTED for a reason: no pieces, no staging and no map; the handle, of which the manual states nothing, is free (R151, R152). -/
def State.rejectLoad (s : State) (c resp progId : Nat) (why : Nat × Nat) : State :=
  let (handle, s) := s.draw
  s.respond c resp (responseBytes (s.dieNow (s.ctx c).translator) 0x0E why.1 why.2 handle 0 0 progId 0)

/-- A handle that names no program of a context, from a free number (R151). -/
def State.newHandle (s : State) (c pick : Nat) : Nat :=
  let used := (s.programs.filter (fun p => p.ctx == c)).map (fun p => p.handle.toNat)
  (((List.range (used.length + 1)).map (fun i => (pick + i) % 0xFFFFFFFF)).find? (fun h => !used.contains h)).getD 0

/-- The pages of every command in order; none where one has no free run. -/
def State.allPages (s : State) (c : Nat) (p : Bytes) (pick : Nat) : Nat → List (List Nat) → Option (List (Nat × Nat))
  | _, [] => some []
  | k, pl :: t =>
    match s.choosePages c pl (max 1 (ceilDiv (nativesOf p k 1) 4096)) (pick + k) with
    | none => none
    | some x => (s.allPages c p pick (k + 1) t).map (x :: ·)

/-- An accepted program loaded: placed, its pages chosen, its map and response written, the one it replaces left to the commands that
already run it (R153, R154, R158). Without a free run of pages the request waits (R121). -/
def State.acceptLoad (s : State) (c resp : Nat) (p : Bytes) (mapBase room handle : Nat) : State :=
  let (pick, s) := s.draw
  let place := (List.range (hCmdCount p)).map (fun k => s.placeOf c p k pick)
  match s.allPages c p pick 0 place with
  | none => s
  | some pages =>
    let h := if handle = 0xFFFFFFFF then s.newHandle c pick else handle
    let x : Program := { uid := s.nextUid, ctx := c, handle := BitVec.ofNat 32 h, image := p, mapBase := BitVec.ofNat 64 mapBase,
                         mapBytes := room, mapVer := 1, replaced := false, place := place, pages := pages }
    let s : State := { s with nextUid := s.nextUid + 1,
                              programs := s.programs.map (fun y => if y.ctx == c && y.handle.toNat == h then { y with replaced := true } else y) ++ [x] }
    let s := (List.range (hCmdCount p)).foldl (fun s k => s.placePages x k) s
    let map := mapBytes x room
    let s := s.store (s.ctxPart c) 0 0 (gOff (BitVec.ofNat 64 mapBase)) map (s.dieNow (s.ctx c).translator)
    let pieces := ((List.range (hCmdCount p)).map (piecesOf p)).foldl (· + ·) 0
    s.respond c resp (responseBytes (s.dieNow (s.ctx c).translator) 0 0 0 h pieces (stagingUsed p) (hProgramId p) map.length)

/-- The translator takes the next request of a context's load ring (R151, R152). -/
def State.takeLoad (s : State) (c : Nat) : State :=
  let x := s.ctx c
  let q := s.load 0 (gOff x.loadRing + 64 * (x.loadHead.toNat % 2 ^ x.loadLog2)) 64
  let prog := num q 0 8
  let mapBase := num q 8 8
  let room := num q 16 4
  let resp := num q 24 8
  let handle := num q 32 4
  if !s.loadAddr c true resp 64 then s.loadViolation c resp
  else if !s.loadAddr c true mapBase room then s.loadViolation c mapBase
  else if !s.loadAddr c false prog 128 then s.loadViolation c prog
  else
    let head := s.load 0 (gOff (BitVec.ofNat 64 prog)) 128
    match headReject head with
    | some why => s.rejectLoad c resp (hProgramId head) why
    | none =>
      if !s.loadAddr c false prog (hTotal head) then s.loadViolation c prog
      else
        let p := s.load 0 (gOff (BitVec.ofNat 64 prog)) (hTotal head)
        match s.bodyReject c p handle room with
        | some why => s.rejectLoad c resp (hProgramId p) why
        | none => s.acceptLoad c resp p mapBase room handle

/-- LOAD_REQUEST (R151). -/
def execLoadRequest (ctx : Nat) (s : State) : Host.Outcome State Fault Refusal :=
  onUnit (ctxOk ctx) "context" s <|
    let x := s.ctx ctx
    if (x.st == .running || x.st == .suspending || x.st == .suspended) && s.tailWord x.loadTail != x.loadHead then s.takeLoad ctx else s

/-! ## Re-translation (R155, R399) -/

/-- A program placed anew where it used a cluster: the pages of the commands placed there are loaded again, and its map is written with the
next version; a map address that its context has lost is a violation. -/
def State.retranslate (s : State) (k : Nat) (x : Program) : State :=
  let (pick, s) := s.draw
  let place := (List.range x.place.length).map (fun i =>
    let old := (x.place[i]?).getD []
    if old.contains k then s.placeOf x.ctx x.image i pick else old)
  let y : Program := { x with place := place, mapVer := x.mapVer + 1 }
  let moved := (List.range place.length).filter (fun i => ((x.place[i]?).getD []).contains k)
  let s : State := { s with programs := s.programs.map (fun z => if z.uid == x.uid then y else z) }
  let s := (moved.flatMap (fun i => x.pagesOf i)).foldl (fun s g =>
    if (s.page g.1 g.2).prog == some x.uid then
      s.setKeystone g.1 (fun z => { z with pages := modNth z.pages g.2 (fun _ => ImemPage.clear) }) else s) s
  let s := moved.foldl (fun s i => s.placePages y i) s
  if s.loadAddr x.ctx true x.mapBase.toNat x.mapBytes then
    s.store (s.ctxPart x.ctx) 0 0 (gOff x.mapBase) (mapBytes y x.mapBytes) (s.dieNow (s.ctx x.ctx).translator)
  else s.loadViolation x.ctx x.mapBase.toNat

/-- RETRANSLATION: the programs placed on a cluster that holds its commands are translated for the cores still present, and the cluster is
released (R155, R399). -/
def execRetranslation (k : Nat) (s : State) : Host.Outcome State Fault Refusal :=
  onUnit (clusterOk k) "cluster" s <|
    if !(s.keystone k).hold then s else
    let s := (s.programs.filter (fun x => x.place.any (fun l => l.contains k))).foldl (fun s x => s.retranslate k x) s
    s.setKeystone k (fun y => { y with hold := false })

end Sys2Proof.Machine
end

