-- ==== Sys2Proof/Machine/Engines.lean ====
section
/-! DEFINITION. The tensor engines beat by beat: beats, accumulator sets and drains (R98 to R106), and the grants and null beats of the
current-slew governor (R443 to R447). -/

namespace Sys2Proof.Machine

/-- An engine; one that the list does not hold has both sets clear (R106). -/
def State.engine (s : State) (e : Nat) : Engine := (s.engines.find? (fun x => x.no == e)).getD (Engine.cleared e)

/-- The state with an engine's record replaced. -/
def State.setEngine (s : State) (x : Engine) : State := { s with engines := s.engines.filter (fun y => y.no != x.no) ++ [x] }

/-- Whether an engine is present and its core unretired, granted by the governor (R3, R127, R446). -/
def State.engineUp (s : State) (e : Nat) : Bool :=
  s.present (e / 64) && (s.liveCores (e / 64)).contains (e / 4 % 16) && s.power.granted.contains (2 * (e / 4))

/-- The values that a beat's vector supplies (R98): its elements by format, in a window scaled by the exponents given (R62). -/
def beatVals (f : BeatFormat) (v : List (BitVec 32)) (es : List Int) : List Fp :=
  match f with
  | .fp16 => v.map (fun x => fpOf false (x.toNat % 65536))
  | .fp32 => v.map (fun x => fpOf true x.toNat)
  | .sfpWindow => (List.range v.length).map (fun i => fpScale (fpOf false (((v[i]?).getD 0#32).toNat % 65536)) ((es[i]?).getD 0))

/-- How a tile's words start (R64 to R67). -/
def beatStart (b : Beat) : Start :=
  match b.anchor, b.format with
  | some a, _ => .given a
  | none, .fp16 => .fp16
  | none, _ => .auto

/-- Whether two operand vectors are present (R98). -/
def vecsReady (row col : Option (List (BitVec 32))) : Bool :=
  match row, col with
  | some r, some c => r.length == 32 && c.length == 32
  | _, _ => false

/-- Whether the operand vectors of a beat are present, both pairs of a quad's (R98, R99), and a supplied anchor is a legal one (R66). -/
def beatReady (b : Beat) : Bool :=
  vecsReady b.rowVec b.colVec
  && (match b.quad with
    | some q => vecsReady q.rowVec q.colVec
    | none => true)
  && (match b.anchor with
    | some a => decide (-119 ≤ a) && decide (a ≤ 135)
    | none => true)

/-- The 1024 words of a set with the products of one contraction index added (R98, R101): word 32 i + j takes row i and column j. -/
def beatSet (b : Beat) (set : List Acc) : List Acc :=
  let rows := beatVals b.format (b.rowVec.getD []) b.rowExp
  let cols := beatVals b.format (b.colVec.getD []) b.colExp
  let set := if set.isEmpty then List.replicate 1024 (beatStart b).acc else set
  set.zipWith Acc.add (rows.flatMap (fun x => cols.map (fpMul x)))

/-- The active set of an engine. -/
def Engine.active (x : Engine) : List Acc := if x.activeB then x.setB else x.setA

/-- Whether the shadow set of an engine is free (R102). -/
def Engine.shadowFree (x : Engine) : Bool := if x.activeB then x.freeA else x.freeB

/-- An engine after one beat (R98, R101, R102). -/
def Engine.beat (x : Engine) (b : Beat) : Engine :=
  let set := beatSet b x.active
  let x : Engine := { x with beats := x.beats + 1, lastIssued := b.last, nullBeat := false }
  if x.activeB then { x with setB := set, freeB := false } else { x with setA := set, freeA := false }

/-- What engine `i` of a core is given in a quad's beat (R99): engines 0 and 1 share the row operand of block rows 0 to 31, engines 2 and 3
that of rows 32 to 63, engines 0 and 2 the column operand of block columns 0 to 31, engines 1 and 3 that of columns 32 to 63. -/
def quarterBeat (b : Beat) (q : QuadBeat) (i : Nat) : Beat :=
  { b with
    rowVec := if i / 2 = 0 then b.rowVec else q.rowVec
    rowExp := if i / 2 = 0 then b.rowExp else q.rowExp
    colVec := if i % 2 = 0 then b.colVec else q.colVec
    colExp := if i % 2 = 0 then b.colExp else q.colExp
    quad := none }

/-- Whether an engine can take a beat: it is granted, and its tile has not ended (R102, R446). -/
def State.canBeat (s : State) (e : Nat) : Bool := s.engineUp e && !(s.engine e).lastIssued

/-- One engine's beat, counted: an FP32 or window index counts 4 beats (R98, R54). -/
def State.beatOne (s : State) (e : Nat) (b : Beat) : State :=
  (s.setEngine ((s.engine e).beat b)).count 1 (e / 512) (e / 4) (e % 4) (if b.format = .fp16 then 1 else 4)

/-- ENGINE_BEAT: one contraction index enters the active set of the engine, or of the four engines of its core that work as a quad (R99);
without both vectors no beat occurs and none is counted (R98). After a tile's last beat the next one waits for the shadow set (R102). -/
def execEngineBeat (e : Nat) (b : Beat) (s : State) : Host.Outcome State Fault Refusal :=
  onUnit (decide (e < 4096)) "engine" s <|
    if !beatReady b then s else
    match b.quad with
    | none => if s.canBeat e then s.beatOne e b else s
    | some q =>
      if (List.range 4).all (fun i => s.canBeat (4 * (e / 4) + i)) then
        (List.range 4).foldl (fun s i => s.beatOne (4 * (e / 4) + i) (quarterBeat b q i)) s
      else s

/-- The words of a set that is reloaded for its tile (R64, R104); none where their number is not a set's. -/
def fillWords : SetFill → Option (List Acc)
  | .drained => none
  | .cleared => some []
  | .reloaded l => if l.length = 1024 then some (l.map (fun w => Acc.reload (exaOf w.toNat))) else none

/-- An engine whose shadow set is cleared or reloaded for the next tile, and so free (R102). -/
def Engine.refill (x : Engine) (f : SetFill) : Engine :=
  match fillWords f with
  | none => x
  | some ws => if x.activeB then { x with setA := ws, freeA := true } else { x with setB := ws, freeB := true }

/-- SHADOW_SWITCH: after the tile's last beat the shadow set becomes active once it is free: its last drain has completed, or it is cleared
or reloaded for the next tile (R102). -/
def execShadowSwitch (x : SetSwitch) (s : State) : Host.Outcome State Fault Refusal :=
  onUnit (decide (x.engine < 4096)) "engine" s <|
    let x := (s.engine x.engine).refill x.fill
    if x.lastIssued && x.shadowFree then s.setEngine { x with activeB := !x.activeB, lastIssued := false, beats := 0 } else s

/-- A set drained: its words judged, then cleared and free (R68, R102, R103). -/
def Engine.drainSet (x : Engine) (b : Bool) : Engine :=
  if b then { x with drained := x.setB.map Acc.finish, setB := [], freeB := true }
  else { x with drained := x.setA.map Acc.finish, setA := [], freeA := true }

/-- DRAIN_BEGIN: once the tree-empty handshake has risen, 6 beats after the tile's last beat, the shadow set is drained, or the active one
whose tile has ended (R101 to R104). -/
def execDrainBegin (e : Nat) (beats : Nat) (s : State) : Host.Outcome State Fault Refusal :=
  onUnit (decide (e < 4096)) "engine" s <|
    let x := s.engine e
    if beats < 6 then s
    else if !x.shadowFree then s.setEngine (x.drainSet (!x.activeB))
    else if x.lastIssued then s.setEngine (x.drainSet x.activeB)
    else s

/-! ## The governor (R443 to R447) -/

/-- The operating point: 0 Low, 1 Nominal, 2 High. RATE in A per µs and RAIL_STEP in A per 100 ns, in force (R453). -/
def State.slewRate (s : State) : Nat := max 2 (min 20 (s.cfg (dieAt 8) .pwrCfg 0 5))
def State.railStep (s : State) : Nat := max 5 (min 80 (s.cfg (dieAt 8) .pwrCfg 8 7))

/-- Whether a compute die's governor may let one more increment through: the shares of R444, halved on a twin carrier, and the limit of
R445 since its last change. A µs has 4000 ticks, 100 ns have 400. -/
def State.governorReady (s : State) (die : Nat) : Bool :=
  let t := (s.plumb.now - (s.power.lastGrant[die]?).getD 0#64).toNat
  let j := (s.power.junction[die]?).getD 0
  decide (t * s.slewRate * 1000 ≥ (Config.grantIncrement die s.sec.point j).val * 9 * 4000 * (if s.twin then 2 else 1))
    && decide (t * s.railStep * 1000 ≥ (Config.railIncrement die s.sec.point j).val * 400)

/-- A die's governor has changed its current now. -/
def State.governed (s : State) (die : Nat) : State :=
  let now := s.plumb.now
  { s with power := { s.power with lastGrant := modNth s.power.lastGrant die (fun _ => now) } }

/-- GOVERNOR_GRANT: the next waiting unit of the die, in ascending physical core number, a core before its vector unit (R446). -/
def execGovernorGrant (die : Nat) (s : State) : Host.Outcome State Fault Refusal :=
  onUnit (decide (die < 10)) "die" s <|
    match s.power.waiting.find? (fun u => u / 256 == die) with
    | none => s
    | some u =>
      if s.governorReady die then
        ({ s with power := { s.power with waiting := s.power.waiting.filter (· != u), granted := addUnit s.power.granted u } } : State).governed
          die
      else s

/-- NULL_BEAT_RELEASE: a released engine leaves its null beats; the grant of a core ends with its last one (R447). -/
def execNullBeatRelease (e : Nat) (s : State) : Host.Outcome State Fault Refusal :=
  onUnit (decide (e < 4096)) "engine" s <|
    if (s.engine e).nullBeat && s.governorReady (e / 512) then
      let s : State := { s with engines := s.engines.filter (fun x => x.no != e) }
      let s : State := if s.engines.any (fun x => x.no / 4 == e / 4) || !(s.runsOn (e / 64)).isEmpty then s else
        { s with power := { s.power with granted := s.power.granted.filter (fun u => u / 2 != e / 4) } }
      s.governed (e / 512)
    else s

end Sys2Proof.Machine
end

