-- ==== Sys2Proof/Machine/MemSystem.lean ====
section
/-! DEFINITION. The memory system's own commands: grants of pages (R329), the last-level memory's modes and flushes (R322 to R324), the
partition, way and regulator group (R330, R331, R340), and the patrol (R309, R316 to R319). -/

namespace Sys2Proof.Machine

/-! ## Grants (R329) -/

/-- A far or CXL page of the zero map, or a near page's bytes, back at zeros: the page's lines dropped, its poison and open bytes gone. -/
def State.zeroPage (s : State) (hub space page : Nat) : State :=
  let a := memKey space (page * 2 ^ 21)
  let s := s.dropLines hub (fun l => l.line / 2 ^ 15 == a / 2 ^ 21)
  let s : State := { s with mem := memClear s.mem a (2 ^ 21), poison := s.poison.filter (fun l => l / 2 ^ 15 != a / 2 ^ 21),
                            indet := cutRanges s.indet a (2 ^ 21), zeroClear := s.zeroClear.filter (fun x => x != a / 2 ^ 21) }
  if space = 0 then s.stampShards hub (page * 2 ^ 21) (2 ^ 21) (s.dieNow hub) else s

/-- Whether a partition's memory key is loaded (R329, R428). -/
def State.keyed (s : State) (p : Nat) : Bool := s.sec.keys.any (fun k => k.1 == p)

/-- A refusal in PRT_STATUS: REJECTED with its reason (R340). -/
def State.prtReject (s : State) (hub reason : Nat) : State :=
  (s.setField (dieAt hub) .prtStatus 2 3 reason).setBits (dieAt hub) .prtStatus 2

/-- Whether a near page holds part of an enabled ring of a die that the hub serves (R43, R47). -/
def State.inRing (s : State) (hub off : Nat) : Bool :=
  (List.range 10).any (fun d => servingHub d == hub && s.cfg (dieAt hub) (.ducCtl d) 0 1 == 1
    && decide (s.ringBase d ≤ off) && decide (off < s.ringBase d + 32 * 2 ^ ringLog (s.cfg (dieAt hub) (.ducSize d) 0 5)))

/-- Why a grant is refused, by the codes of PRT_STATUS.REASON (R329, R340). No context can be granted access to a page of a ring (R43): no
code is named for it, and the model refuses it as TABLE_PAGE (log entry 35). -/
def State.grantReject (s : State) (hub space page count entry : Nat) : Option Nat :=
  let pages := (List.range count).map (fun i => (page + i) * 2 ^ 21)
  if space = 3 then some 1
  else if pages.any (fun o => (s.hubOf space o).isNone) then some 1
  else if pages.any (fun o => s.hubOf space o != some hub) then some 6
  else if pages.any (fun o => s.inTable hub space o) then some 2
  else if space = 0 ∧ sharesPage entry ∧ pages.any (fun o => s.inRing hub o) then some 2
  else if space ≠ 0 ∧ entry.testBit 15 ∧ !s.keyed (entry % 16) then some 3
  else none

/-- One page of a grant: cleared when its owner changes or it becomes valid, then its entry written (R329). -/
def State.grantPage (s : State) (hub space page entry : Nat) : State :=
  let off := page * 2 ^ 21
  let old := s.entry space off
  let s := if old % 16 ≠ entry % 16 ∨ (entry.testBit 15 ∧ !old.testBit 15) then s.zeroPage hub space page else s
  s.store 0 0 0 (s.entryOff hub space off) (leBytes 2 (entry &&& 0xBFFF)) (s.dieNow hub)

/-- A write of PRT_GRANT_GO (R329, R340). -/
def State.grantGo (s : State) (hub : Nat) (v : BitVec 64) : State :=
  if fld v 16 1 = 0 then s else
  let g := s.reg (dieAt hub) .prtGrantPage
  let page := fld g 0 27
  let count := fld g 27 16
  let space := fld g 43 2
  match s.grantReject hub space page count (fld v 0 16) with
  | some r => s.prtReject hub r
  | none => (List.range count).foldl (fun s i => s.grantPage hub space (page + i) (fld v 0 16)) s

/-- PRT_GRANT_GO. -/
def execPrtGrantGo (hub : Nat) (v : BitVec 64) (s : State) : Host.Outcome State Fault Refusal :=
  onUnit (isHub hub) "hub" s (s.grantGo hub v)

/-! ## Regulators and ways (R323, R330, R331, R340) -/

/-- The capacity of a resource on a hub in tokens per 4096 ticks (R331). -/
def State.capacity (s : State) (hub res : Nat) : Nat :=
  let chans := (s.farChans.filter (fun c => c / 8 == hub - 8)).length
  match res with
  | 0 => 153600
  | 1 => if chans = 8 then 9011 else if chans = 4 then 4505 else 0
  | 2 => 7744
  | 3 => ([40533, 64000, 74667][s.sec.point]?).getD 0
  | _ => ([324, 512, 597][s.sec.point]?).getD 0

/-- Whether the RATEs of every resource in the shadow registers fit (R331). -/
def State.ratesFit (s : State) (hub : Nat) : Bool :=
  (List.range 5).all (fun r =>
    decide (((List.range 16).map (fun p => fld (s.reg (dieAt hub) (.rgl p r)) 0 20)).foldl (· + ·) 0 ≤ s.capacity hub r))

/-- The place of a bucket. -/
def bucketIx (hub part res : Nat) : Nat := (hub - 8) * 80 + part * 5 + res

/-- A write of 1 to MEM_APPLY: the sums checked, the group put into force, changed buckets restarted full, and the lines outside their
partition's new ways written back and dropped (R323, R331, R340). Which way a line lies in no rule tells: of a partition that loses some
of its ways, a line is dropped or stays by a free choice. -/
def State.memApply (s : State) (hub : Nat) : State :=
  if !s.ratesFit hub then s.prtReject hub 5 else
  let ways := fun (s : State) p => s.ways hub p
  let t := s.applyNow (dieAt hub) .mem
  let t : State := { t with tokens := (List.range t.tokens.length).map (fun i =>
    let p := i % 80 / 5
    let r := i % 5
    let v := t.live' (dieAt hub) (.rgl p r)
    if i / 80 = hub - 8 ∧ s.live' (dieAt hub) (.rgl p r) % 2 ^ 44 ≠ v % 2 ^ 44 then fld v 20 24 * 16 else (t.tokens[i]?).getD 0) }
  let gone := fun (l : LlmLine) =>
    let a := ways s l.part
    let b := ways t l.part
    if b &&& a = a then false else if b &&& a = 0 then true else Config.freeBool (t.fresh + l.line)
  { t.dropLines hub gone with fresh := t.fresh + 1 }

/-- MEM_APPLY. -/
def execMemApply (hub : Nat) (s : State) : Host.Outcome State Fault Refusal := onUnit (isHub hub) "hub" s (s.memApply hub)

/-- REGULATOR_REFILL: 256 ticks have passed (R330). -/
def execRegulatorRefill (hub : Nat) (s : State) : Host.Outcome State Fault Refusal :=
  onUnit (isHub hub) "hub" s
    { s with tokens := (List.range s.tokens.length).map (fun i =>
        let t := (s.tokens[i]?).getD 0
        if i / 80 = hub - 8 then
          let v := s.live' (dieAt hub) (.rgl (i % 80 / 5) (i % 5))
          min (t + fld v 0 20) (fld v 20 24 * 16)
        else t) }

/-- The tokens of a bucket. -/
def State.tokensOf (s : State) (hub part res : Nat) : Nat := (s.tokens[bucketIx hub part res]?).getD 0

/-- Whether an access is admitted, and whether it takes a token (R330). -/
def State.admits (s : State) (hub part res : Nat) : Bool × Bool :=
  if s.tokensOf hub part res ≥ 16 then (true, true)
  else if fld (s.live' (dieAt hub) (.rgl part res)) 44 1 = 1
      && !(s.queueAcc.any (fun w => w.hub == hub && w.res == res && decide (s.tokensOf hub w.part res ≥ 16))) then (true, false)
  else (false, false)

/-- ACCESS_ADMIT: the partition's oldest waiting access to the resource, or else a new one, is admitted, or waits (R330). -/
def execAccessAdmit (hub part res : Nat) (s : State) : Host.Outcome State Fault Refusal :=
  onUnit (isHub hub && decide (part < 16) && decide (res < 5)) "bucket" s <|
    let is := fun (w : WaitAcc) => w.hub == hub && w.part == part && w.res == res
    let a := s.admits hub part res
    if a.1 then
      { s with queueAcc := dropFirst is s.queueAcc,
               tokens := modNth s.tokens (bucketIx hub part res) (fun t => if a.2 then t - 16 else t) }
    else if s.queueAcc.any is then s
    else
      let (n, s) := s.draw
      { s with queueAcc := s.queueAcc ++ [{ hub := hub, part := part, res := res, id := n }] }

/-! ## The last-level memory (R322, R324) -/

/-- The bytes of a hub's scratchpad window at zero. -/
def State.zeroArray (s : State) (hub : Nat) : State := { s with mem := memClear s.mem (llmKey hub 0) 0x18000000 }

/-- A write of LLM_CTL.MODE (R324): the switch begins; memory keeps the last values, and the array is zeroed. A write of the present mode, or
during a switch, starts none (log entry 33). -/
def State.llmMode (s : State) (hub : Nat) (cache : Bool) : State :=
  let s := s.setField (dieAt hub) .llmCtl 0 1 (b2n cache)
  let m := s.llm hub
  if m.switching.isSome ∨ m.cache = cache then s
  else (s.zeroArray hub).setLlm hub (fun m => { m with switching := some cache, lines := [] })

/-- LLM_CACHE_MODE. -/
def execLlmCacheMode (hub : Nat) (s : State) : Host.Outcome State Fault Refusal := onUnit (isHub hub) "hub" s (s.llmMode hub true)

/-- LLM_SCRATCHPAD_MODE. -/
def execLlmScratchpadMode (hub : Nat) (s : State) : Host.Outcome State Fault Refusal := onUnit (isHub hub) "hub" s (s.llmMode hub false)

/-- LLM_SWITCH_DONE. -/
def execLlmSwitchDone (hub : Nat) (s : State) : Host.Outcome State Fault Refusal :=
  onUnit (isHub hub) "hub" s <|
    match (s.llm hub).switching with
    | some c => s.setLlm hub (fun m => { m with cache := c, switching := none, lines := [] })
    | none => s

/-- Every line of a partition written back and dropped (R322, R340). -/
def State.llmFlushAll (s : State) (hub part : Nat) : State := s.dropLines hub (fun l => l.part == part)

/-- A partition's kept lines released only (R322, R340). -/
def State.llmKeptOnly (s : State) (hub part : Nat) : State := s.releaseKept hub (fun l => l.part == part)

/-- LLM_FLUSH. -/
def execLlmFlush (hub part : Nat) (s : State) : Host.Outcome State Fault Refusal :=
  onUnit (isHub hub && decide (part < 16)) "partition" s (s.llmFlushAll hub part)

/-- LLM_RELEASE_KEPT. -/
def execLlmReleaseKept (hub part : Nat) (s : State) : Host.Outcome State Fault Refusal :=
  onUnit (isHub hub && decide (part < 16)) "partition" s (s.llmKeptOnly hub part)

/-- A write of LLM_FLUSH (R340). -/
def State.llmFlushWrite (s : State) (hub : Nat) (v : BitVec 64) : State :=
  if fld v 5 1 = 0 then s else if fld v 4 1 = 1 then s.llmKeptOnly hub (fld v 0 4) else s.llmFlushAll hub (fld v 0 4)

/-! ## Placing and patrol (R309, R316 to R319) -/

/-- The stack and the address in it of a hub-local near offset (R309). -/
def nearPlace (h : Nat) : Nat × Nat :=
  (bitsOf h 8 2 ^^^ bitsOf h 20 2 ^^^ bitsOf h 32 2, bitsOf h 10 38 * 2 ^ 8 + bitsOf h 0 8)

/-- The channel and the address in it of a hub-local far offset, `b` = 2 for 4 channels and 3 for 8 (R309). -/
def farPlace (h b : Nat) : Nat × Nat :=
  (bitsOf h 8 b ^^^ bitsOf h 20 b, bitsOf h (8 + b) (40 - b) * 2 ^ 8 + bitsOf h 0 8)

/-- The hub-local controller of a line that a hub controls (R309, R317). -/
def State.controllerOf (s : State) (hub space off : Nat) : Option Nat :=
  if s.hubOf space off ≠ some hub then none else
  let h := off - s.firstOff hub space
  match space with
  | 0 => some (nearPlace h).1
  | 1 =>
    let chans := (s.farChans.filter (fun c => c / 8 == hub - 8)).map (· % 8)
    (chans[(farPlace h (if chans.length = 4 then 2 else 3)).1]?).map (4 + ·)
  | 2 => some (12 + off / 2 ^ 42 % 2)
  | _ => none

/-- The patrol interval in hours at a controller; no register gives one for the CXL ports, whose reads are taken at the reset interval
(R319, R338, R339; log entry 34). -/
def State.scrubHours (s : State) (hub ctrl : Nat) : Nat :=
  if ctrl < 4 then fld (s.reg (dieAt hub) .nmcScrub) 0 8 else if ctrl < 12 then fld (s.reg (dieAt hub) .fmcScrub) 0 8 else 24

/-- A corrected line: the counter, and at most one event in 4096 ticks (R317). -/
def State.corrected (s : State) (hub ctrl off how : Nat) : State :=
  let s := if ctrl < 12 then s.count (if ctrl < 4 then 3 else 4) hub ctrl 2 1 else s
  let key := 16 * hub + ctrl
  let quiet := match kvGet s.corrAt key with
    | some t => decide ((s.plumb.now - t).toNat < 4096)
    | none => false
  if quiet then s else
  let s : State := { s with corrAt := kvSet s.corrAt key s.plumb.now }
  s.event hub kCorrected noCtx ctrl 0#8 (leBytes 6 off ++ leBytes 1 how)

/-- A row that yields 4 corrected lines in one pass is replaced by a spare (R319, R338). -/
def State.rowHit (s : State) (hub ctrl space off : Nat) : State :=
  let pass := s.plumb.now.toNat / (max 1 (s.scrubHours hub ctrl) * 3600 * 4000000000)
  let key := (16 * hub + ctrl) * 2 ^ 48 + Config.rowOf hub ctrl space off
  let n := match s.rowHits.find? (fun x => x.1 == key && x.2.1 == pass) with
    | some x => x.2.2 + 1
    | none => 1
  let rest := s.rowHits.filter (fun x => x.1 != key)
  if n < 4 then { s with rowHits := rest ++ [(key, pass, n)] }
  else
    let s : State := { s with rowHits := rest }
    if ctrl < 4 then
      s.setField (dieAt hub) (.nmcStatus ctrl) 8 8 (min 255 (fld (s.reg (dieAt hub) (.nmcStatus ctrl)) 8 8 + 1))
    else s

/-- A line poisoned: the mark, the controller's fault register and a BLOT_RAISED event (R318, R338, R339). -/
def State.poisonLine (s : State) (hub ctrl space off : Nat) : State :=
  let line := memKey space off / 64
  if s.poison.contains line then s else
  let o := off - off % 64
  let v := BitVec.ofNat 64 (o + 2 ^ 48)
  let s : State := { s with poison := line :: s.poison }
  let s := if ctrl < 4 then s.setReg (dieAt hub) (.nmcFault ctrl) v
    else if ctrl < 12 then s.setReg (dieAt hub) (.fmcFault (ctrl - 4)) v
    else s.setBits (dieAt hub) (.cxlPort (2 * (hub - 8) + (ctrl - 12))) (2 ^ 26)
  (s.raise hub (208 + ctrl)).event hub kBlot noCtx (0x9000 + ctrl) 0#8 (leBytes 6 o ++ leBytes 1 space)

/-- PATROL_SCRUB: a controller's patrol reads a line (R319). -/
def execPatrolScrub (hub ctrl space off : Nat) (r : ScrubResult) (s : State) : Host.Outcome State Fault Refusal :=
  onUnit (isHub hub && decide (ctrl < 14)) "controller" s <|
    if s.controllerOf hub space off ≠ some ctrl ∨ s.scrubHours hub ctrl = 0 then s else
    match r with
    | .clean => s
    | .corrected how => (s.corrected hub ctrl (off - off % 64) how).rowHit hub ctrl space off
    | .uncorrectable => s.poisonLine hub ctrl space off

end Sys2Proof.Machine
end

