-- ==== Sys2Proof/Machine/Plumb.lean ====
section
/-! DEFINITION. Plumb time and its states (R32 to R39), the commands of the ductus rings (R43, R47, R48), and counter captures (R51 to R54,
R351). -/

namespace Sys2Proof.Machine

/-! ## Plumb states (R36, R39) -/

/-- The code of a plumb state. -/
def PlumbSt.code : PlumbSt → Nat
  | .free => 0
  | .acquire => 1
  | .locked => 2
  | .holdover => 3
  | .unsync => 4

/-- A bit of PLB_EVENTS on every die (R39). -/
def State.plbMark (s : State) (bit : Nat) : State := (List.range 10).foldl (fun s d => s.setBits (dieAt d) .plbEvents (2 ^ bit)) s

/-- A change of plumb state: its event, its source, and the bits of PLB_EVENTS (R36, R39, R401). Only ACQUIRE runs at half rate (R34). -/
def State.plumbMove (s : State) (st : PlumbSt) : State :=
  let old := s.plumb.st
  let now := s.plumb.now
  let s : State := { s with plumb := { s.plumb with st := st, good := 0, missed := 0, ahead := 0,
                                                    entered := if st = .holdover then now else s.plumb.entered } }
  let s := match st with
    | .holdover => s.plbMark 0
    | .unsync => s.plbMark 1
    | _ => s
  (s.raise 8 srcPlumb).event 8 kPlumbState noCtx 0xFFFF 0#8
    (leBytes 1 old.code ++ leBytes 1 st.code ++ leBytes 4 (unsext 32 s.plumb.offset))

/-- Whether this package is the plumb root, and its upstream port otherwise, as hub die 8 holds them in force (R39). -/
def State.plbRoot (s : State) : Bool := s.cfg (dieAt 8) .plbCfg 0 1 == 1
def State.upstream (s : State) : Nat := s.cfg (dieAt 8) .plbCfg 1 5

/-- A root package leaves FREE at once, its time starting at PLB_EPOCH (R36, R39), unless that lies behind the present time, which never
runs backward (R34; log entry 91). -/
def State.rootStart (s : State) : State :=
  if s.plumb.st = .free ∧ s.plbRoot then
    let epoch := s.live' (dieAt 8) .plbEpoch
    ({ s with plumb := { s.plumb with now := if s.plumb.now.toNat ≤ epoch.toNat then epoch else s.plumb.now } } : State).plumbMove .locked
  else s

/-- A write of 1 to PLB_APPLY (R39). -/
def State.plbApplyAt (s : State) (hub : Nat) : State := (s.applyNow (dieAt hub) .plb).rootStart

/-- PLB_APPLY. -/
def execPlbApply (hub : Nat) (s : State) : Host.Outcome State Fault Refusal := onUnit (isHub hub) "hub" s (s.plbApplyAt hub)

/-! ## Sync exchanges (R34 to R36) -/

/-- 100 µs, the interval of sync exchanges, and 100 ms, the longest HOLDOVER, in ticks. -/
def syncTicks : Nat := 400000
def holdoverTicks : Nat := 400000000

/-- Ticks since a stamp. -/
def State.sinceTicks (s : State) (t : BitVec 64) : Nat := (s.plumb.now - t).toNat

/-- A follower with an upstream port. -/
def State.follows (s : State) : Bool := !s.plbRoot && decide (s.upstream < 30)

/-- SYNC_EXCHANGE: a follower starts an exchange every 100 µs (R36). -/
def execSyncExchange (s : State) : Host.Outcome State Fault Refusal :=
  done s <|
    if s.follows && s.usable s.upstream 6 && s.plumb.sent.isNone && decide (s.sinceTicks s.plumb.lastX ≥ syncTicks) then
      let t1 := s.plumb.now
      let s : State := { s with plumb := { s.plumb with sent := some t1, lastX := t1 } }
      s.sendOn s.upstream (s.packet (((s.port s.upstream).peer).getD 0) 6 0#16 (.plumbSync (.request t1)))
    else s

/-- The offset estimate: ticks by which upstream is ahead; the division truncates (R34). -/
def offsetEstimate (t1 t2 t3 t4 : BitVec 64) (asym : Nat) : Int :=
  ((t2 - t1).toInt - (t4 - t3).toInt).tdiv 2 - sext 16 asym

/-- Entering ACQUIRE: one step forward when upstream is ahead, else half rate until it has caught up (R34, R36). -/
def State.acquire (s : State) : State :=
  let o := s.plumb.offset
  let s := s.plumbMove .acquire
  if o > 0 then
    let s : State := { s with plumb := { s.plumb with now := s.plumb.now + BitVec.ofInt 64 o, ahead := 0 } }
    (s.plbMark 2).event 8 kPlumbStep noCtx 0xFFFF 0#8 (leBytes 8 o.toNat)
  else if o < 0 then ({ s with plumb := { s.plumb with ahead := o.natAbs } } : State).plbMark 3
  else s

/-- The estimate of a completed exchange acts on the state (R34, R36): 16 exchanges in a row within ±4 ns lock the package. -/
def State.steer (s : State) (o : Int) : State :=
  let s : State := { s with plumb := { s.plumb with offset := o, missed := 0, sent := none } }
  match s.plumb.st with
  | .free | .holdover | .unsync => s.acquire
  | .locked => s
  | .acquire =>
    let good := if o.natAbs ≤ 16 then s.plumb.good + 1 else 0
    let s : State := { s with plumb := { s.plumb with good := good, ahead := if o < 0 then o.natAbs else 0 } }
    let s := if o < 0 then s.plbMark 3 else s
    if good ≥ 16 then s.plumbMove .locked else s

/-- A sync message that a port has received (R34): the upstream answers a request, the follower takes a reply to its own. The time between
t2 and t3 no rule gives; the model answers with t2 = t3 (log entry 91). -/
def State.syncMsg (s : State) (port : Nat) (m : SyncMsg) : State :=
  if (s.port port).peer.isNone || !s.carriesClass port 6 then s else
  match m with
  | .request t1 =>
    let now := s.dieNow (portHub port)
    s.sendOn port (s.packet (((s.port port).peer).getD 0) 6 0#16 (.plumbSync (.reply t1 now now)))
  | .reply t1 t2 t3 =>
    if s.follows && port == s.upstream && s.plumb.sent == some t1 then
      s.steer (offsetEstimate t1 t2 t3 s.plumb.now (s.cfg (dieAt (portHub port)) (.plbPortAsym port) 0 16))
    else s

/-- PLUMB_SYNC. -/
def execPlumbSync (port : Nat) (m : SyncMsg) (s : State) : Host.Outcome State Fault Refusal :=
  onUnit (decide (port < 30)) "port" s (s.syncMsg port m)

/-- EXCHANGE_MISSED: an exchange without an answer for 100 µs, or an upstream port that is down (R36). -/
def execExchangeMissed (s : State) : Host.Outcome State Fault Refusal :=
  done s <|
    if !s.follows then s
    else if !s.carriesClass s.upstream 6 then
      let s : State := { s with plumb := { s.plumb with sent := none } }
      if s.plumb.st = .locked then s.plumbMove .holdover else s
    else if s.plumb.sent.isSome && decide (s.sinceTicks s.plumb.lastX ≥ syncTicks) then
      let s : State := { s with plumb := { s.plumb with sent := none, missed := s.plumb.missed + 1, good := 0 } }
      if s.plumb.st = .locked ∧ s.plumb.missed ≥ 3 then s.plumbMove .holdover else s
    else s

/-- HOLDOVER_TIMEOUT (R36). -/
def execHoldoverTimeout (s : State) : Host.Outcome State Fault Refusal :=
  done s (if s.plumb.st = .holdover ∧ s.sinceTicks s.plumb.entered ≥ holdoverTicks then s.plumbMove .unsync else s)

/-! ## The beat rate (R29, R32) -/

/-- Replica beats in 4096 ticks at 65 °C, in thousandths, at a supply that is an operating point (R7, R32). -/
def rateAt (mv : Nat) : Option Nat := if mv = 550 then some 972800 else if mv = 700 then some 1536000 else if mv = 800 then some 1792000 else none

/-- The straight line between the operating points, in thousandths (R30). -/
def rateLine (mv : Nat) : Nat :=
  if mv ≤ 700 then 972800 + (1536000 - 972800) * (mv - 550) / 150 else 1536000 + (1792000 - 1536000) * (mv - 700) / 100

/-- BEAT_RATE_WINDOW: the count of the last 4096 ticks. From 25 to 95 °C it follows R29; between two points it lies within 3 % of the line
(R30), and elsewhere no rule bounds it: a free value. -/
def execBeatRateWindow (die : Nat) (s : State) : Host.Outcome State Fault Refusal :=
  onUnit (decide (die < 8)) "compute die" s <|
    let t := (s.power.junction[die]?).getD 0
    let (n, s) := s.draw
    let put := fun (x : Nat) => s.setReg (dieAt die) .plbBeatRate (BitVec.ofNat 64 (x % 65536))
    if t < 25 ∨ 95 < t then put n
    else match rateAt s.power.supply with
      | some r => put (r / (1000 + t - 65))
      | none =>
        let lo := rateLine s.power.supply * 97 / 100 / (1000 + t - 65)
        let hi := rateLine s.power.supply * 103 / 100 / (1000 + t - 65)
        put (lo + n % (hi + 1 - lo))

/-! ## Ductus rings (R43, R47, R48) -/

/-- Whether a hub serves a die's ring (R47). -/
def serves (hub die : Nat) : Bool := decide (die < 10) && servingHub die == hub

/-- A write of DUC_APPLY: the groups of the named dies await the next event of their die (R47); an enabled ring outside the owner's partition
is recorded by the hub (R43, log entry 35). -/
def State.ducApplyAt (s : State) (hub : Nat) (v : BitVec 64) : State :=
  (List.range 10).foldl (fun s d =>
    if fld v d 1 = 1 ∧ serves hub d then
      let s := s.stage (dieAt hub) (.duc d)
      let base := fld (s.reg (dieAt hub) (.ducBase d)) 21 27 * 2 ^ 21
      if fld (s.reg (dieAt hub) (.ducCtl d)) 0 1 = 1 ∧ !s.ownerArea hub base (2 ^ 21) then s.violateArea hub base else s
    else s) s

/-- DUC_APPLY. -/
def execDucApply (hub : Nat) (v : BitVec 64) (s : State) : Host.Outcome State Fault Refusal :=
  onUnit (isHub hub) "hub" s (s.ducApplyAt hub v)

/-- DUCTUS_HELD_FLUSH (R48). -/
def execDuctusHeldFlush (die : Nat) (s : State) : Host.Outcome State Fault Refusal :=
  onUnit (decide (die < 10)) "die" s ((s.ringForce die).flushHeld die)

/-! ## Captures (R51 to R54) -/

/-- The units of a die in the order of R54's table. -/
def unitsOf (die : Nat) : List UnitId :=
  let mk := fun (cls n from' : Nat) => (List.range n).map (fun i => ({ cls := cls, die := die, idx := from' + i } : UnitId))
  if die < 8 then mk 1 128 (128 * die) ++ mk 2 8 (8 * die)
  else mk 3 4 0 ++ mk 4 8 4 ++ mk 5 15 (15 * (die - 8)) ++ mk 6 4 0 ++ mk 7 10 0

/-- How many counters a unit of a class has (R54). -/
def counterCount (cls : Nat) : Nat :=
  match cls with
  | 1 => 16
  | 2 => 5
  | 3 => 4
  | 4 => 4
  | 5 => 4
  | 6 => 3
  | 7 => 3
  | _ => 0

/-- All units of the package. -/
def allUnits : List UnitId := (List.range 10).flatMap unitsOf

/-- A write to CNT_CAPTURE_AT: arms a capture, or is rejected while one is under way (R51, R53). -/
def State.captureAt (s : State) (t : BitVec 64) : State :=
  match s.capture.st with
  | .armed | .latched | .dumping => s.setBits (dieAt 8) .cntCaptureStatus 16
  | _ =>
    let s := (List.range 10).foldl (fun s d => s.force (dieAt (servingHub d)) (.cntDump d)) (s.setReg (dieAt 8) .cntCaptureAt t)
    { s with capture := { st := .armed, id := s.capture.id + 1#32, t := t, lateAny := false, lateNo := 0, latches := [], meters := [],
                          dumped := [] } }

/-- CNT_CAPTURE_AT. -/
def execCntCaptureAt (t : BitVec 64) (s : State) : Host.Outcome State Fault Refusal := done s (s.captureAt t)

/-- The counters whose rises no rule ties to commands: the bytes that a memory controller moves, which depend on evictions that no rule
orders, and a port's FEC-corrected codewords (R54, log entry 36). -/
def freeCounters (cls : Nat) : List Nat := if cls = 3 ∨ cls = 4 then [0, 1] else if cls = 5 then [2] else []

/-- Those counters of a unit have risen by a free amount since it latched last (R50, log entry 36). -/
def State.countFree (s : State) (u : UnitId) : State :=
  (freeCounters u.cls).foldl (fun (s : State) c => let (n, s) := s.draw; s.count u.cls u.die u.idx c n) s

/-- The counters of a unit as it latches them (R54). -/
def State.latchValues (s : State) (u : UnitId) : List Nat := (List.range (counterCount u.cls)).map (s.counter u)

/-- The latch record of a unit in the present capture. -/
def State.latchOf (s : State) (u : UnitId) : Option Latch := s.capture.latches.find? (fun l => l.unit == u)

/-- A unit latches (R51): a port's flow meters latch beside its counters (R351). When every unit has latched, the state is LATCHED. -/
def State.latchUnit (s : State) (u : UnitId) (stamp : BitVec 64) (late : Bool) : State :=
  let s := s.countFree u
  let l : Latch := { unit := u, armed := true, stamp := some stamp, late := late, values := s.latchValues u }
  let pool := s.flows.filter (fun f => f.hub == u.die)
  let ms := if u.cls = 5 then
      ((List.range pool.length).filterMap (fun i => (pool[i]?).bind (fun f =>
        if f.port == u.idx then some ((u.die - 8) * 2 ^ 16 + i, f) else none)))
    else []
  let c := s.capture
  let ls := c.latches.filter (fun x => x.unit != u) ++ [l]
  let full := decide ((ls.filter (fun x => x.stamp.isSome)).length = allUnits.length)
  { s with
    capture := { c with latches := ls, meters := ms.foldl (fun m x => kvSet m x.1 x.2) c.meters, lateAny := c.lateAny || late,
                        lateNo := if late then c.lateNo + 1 else c.lateNo, st := if full then .latched else c.st } }

/-- CAPTURE_ARM_RECEIVED: the arm reaches a unit, which latches at once, LATE, when its time is already past T (R51). -/
def execCaptureArmReceived (u : UnitId) (s : State) : Host.Outcome State Fault Refusal :=
  onUnit (unitOk u) "counted unit" s <|
    if s.capture.st ≠ .armed ∨ (s.latchOf u).isSome then s
    else
      let now := s.dieNow u.die
      if s.capture.t.toNat < now.toNat then s.latchUnit u now true
      else
        let l : Latch := { unit := u, armed := true, stamp := none, late := false, values := [] }
        { s with capture := { s.capture with latches := s.capture.latches ++ [l] } }

/-- CAPTURE_LATCH: an armed unit's time reaches T; T is its latch stamp (R51). -/
def execCaptureLatch (u : UnitId) (s : State) : Host.Outcome State Fault Refusal :=
  onUnit (unitOk u) "counted unit" s <|
    match s.latchOf u with
    | some l =>
      if s.capture.st = .armed ∧ l.stamp.isNone ∧ s.capture.t.toNat ≤ (s.dieNow u.die).toNat then s.latchUnit u s.capture.t false else s
    | none => s

/-- The block of one unit in a capture record (R54). -/
def unitBlock (l : Latch) : Bytes :=
  leBytes 1 l.unit.cls ++ leBytes 1 (b2n l.late) ++ leBytes 2 l.values.length ++ leBytes 2 l.unit.idx ++ leBytes 2 0
    ++ leBytes 8 (l.stamp.getD 0#64).toNat ++ l.values.flatMap (leBytes 8)

/-- The capture record of a die (R54). -/
def State.captureRecord (s : State) (die : Nat) : Bytes :=
  let ls := (unitsOf die).filterMap s.latchOf
  let late := (ls.filter (·.late)).length
  leBytes 4 s.capture.id.toNat ++ leBytes 1 die ++ leBytes 3 0 ++ leBytes 8 s.capture.t.toNat ++ leBytes 8 (s.dieNow (servingHub die)).toNat
    ++ leBytes 2 ls.length ++ leBytes 2 late ++ leBytes 36 0 ++ ls.flatMap unitBlock

/-- The 32 bytes of a meter entry (R351). -/
def meterEntry (id : BitVec 32) (f : Flow) : Bytes :=
  leBytes 1 f.port ++ leBytes 1 f.cls ++ leBytes 2 f.number ++ leBytes 2 f.remote ++ leBytes 2 f.job.toNat ++ leBytes 8 f.sent
    ++ leBytes 8 f.received ++ leBytes 4 id.toNat ++ leBytes 4 0

/-- The meter table of a hub written to its area, entries in pool order, unused ones zero; an area outside the owner's partition receives
nothing (R351, R359). -/
def State.dumpMeters (s : State) (hub : Nat) : State :=
  let base := s.cfg (dieAt hub) .lnkMeterBase 21 27 * 2 ^ 21
  if !s.ownerArea hub base (2 ^ 21) then s.violateArea hub base else
  let mine := s.capture.meters.filter (fun x => x.1 / 2 ^ 16 == hub - 8)
  let s : State := { s with mem := memClear s.mem (memKey 0 base) (32768 * 32), indet := cutRanges s.indet (memKey 0 base) (32768 * 32) }
  mine.foldl (fun s x =>
    if x.1 % 2 ^ 16 < 32768 then s.store 0 0 0 (base + 32 * (x.1 % 2 ^ 16)) (meterEntry s.capture.id x.2) (s.dieNow hub) else s) s

/-- One die's dump with its two events (R51, R53). -/
def State.dumpDie (s : State) (hub die : Nat) : State :=
  let base := s.cfg (dieAt hub) (.cntDumpBase die) 21 27 * 2 ^ 21
  let late := ((unitsOf die).filterMap s.latchOf).filter (·.late)
  let s := s.event die kLatched noCtx 0xFFFF 0#8 (leBytes 4 s.capture.id.toNat ++ leBytes 2 late.length)
  let rec' := s.captureRecord die
  let ok := s.ownerArea hub base (2 ^ 21)
  let s := if ok then s.store 0 0 0 base rec' (s.dieNow hub) else s.violateArea hub base
  s.event die kDumped noCtx 0xFFFF 0#8 (leBytes 4 s.capture.id.toNat ++ leBytes 4 (if ok then rec'.length else 0))

/-- CAPTURE_DUMP: a serving hub writes the records of its dies and its meter table; when both hubs have, the state is DONE (R51, R53). In S2
the dump waits for the exit (R451). -/
def execCaptureDump (hub : Nat) (s : State) : Host.Outcome State Fault Refusal :=
  onUnit (isHub hub) "hub" s <|
    if (s.capture.st = .latched ∨ s.capture.st = .dumping) ∧ !s.capture.dumped.contains hub ∧ s.power.st ≠ .s2 then
      let s := (((List.range 10).filter (serves hub)).foldl (fun s d => s.dumpDie hub d) s).dumpMeters hub
      let dumped := hub :: s.capture.dumped
      let s : State := { s with capture := { s.capture with dumped := dumped, st := if dumped.length = 2 then .done else .dumping } }
      if s.capture.st = .done then s.raise 8 srcCapture else s
    else s

/-- A write to CNT_CAPTURE_CANCEL: 1 cancels a capture that is ARMED (R53). -/
def State.captureCancel (s : State) (v : BitVec 64) : State :=
  if fld v 0 1 = 1 ∧ s.capture.st = .armed then
    { s with capture := { s.capture with st := .idle, latches := [], meters := [] } }
  else s

/-- CNT_CAPTURE_CANCEL. -/
def execCntCaptureCancel (v : BitVec 64) (s : State) : Host.Outcome State Fault Refusal := done s (s.captureCancel v)

/-- A write of CNT_APPLY: the named dump bases await the next arm (R53). -/
def State.cntApplyAt (s : State) (hub : Nat) (v : BitVec 64) : State :=
  (List.range 10).foldl (fun s d => if fld v d 1 = 1 ∧ serves hub d then s.stage (dieAt hub) (.cntDump d) else s) s

/-- CNT_APPLY. -/
def execCntApply (hub : Nat) (v : BitVec 64) (s : State) : Host.Outcome State Fault Refusal :=
  onUnit (isHub hub) "hub" s (s.cntApplyAt hub v)

end Sys2Proof.Machine
end

