-- ==== Sys2Proof/Machine/Ports.lean ====
section
/-! DEFINITION. Lintel ports: states, lanes and retraining (R352 to R355), sessions (R356 to R358), the Lintel group (R359), the distance
table (R274) and the die-to-die links (R360). -/

namespace Sys2Proof.Machine

/-- The code of a port state (R352). -/
def PortSt.code : PortSt → Nat
  | .off => 0
  | .training => 1
  | .session => 2
  | .up => 3
  | .degraded => 4
  | .retraining => 5
  | .hairline => 6
  | .failed => 7

/-- A port's source: it changed state or set a fault bit (R401). -/
def State.portEvent (s : State) (n : Nat) : State := s.raise (portHub n) (192 + n % 15)

/-- A port moves to a state; its timers run from now, and packets that wait may go (R346, R352). -/
def State.portMove (s : State) (n : Nat) (st : PortSt) : State :=
  let now := s.plumb.now
  ((s.setPort n (fun p => { p with st := st, since := now })).portEvent n).routeAgain

/-- MODE in force, 3 acting as 2, and the fewest lanes (R359). -/
def State.portMode (s : State) (n : Nat) : Nat := min 2 (s.cfg (dieAt (portHub n)) (.lnkCtl n) 0 2)
def State.minLanes (s : State) (n : Nat) : Nat :=
  let m := s.cfg (dieAt (portHub n)) (.lnkCtl n) 16 4
  if 2 ≤ m ∧ m ≤ 8 then m else 4

/-- PEER_PKG and LNK_PEER_KEY in force (R356, R359). -/
def State.peerPkg (s : State) (n : Nat) : Nat := s.cfg (dieAt (portHub n)) (.lnkCtl n) 3 13
def State.peerKey (s : State) (n : Nat) : Bytes :=
  (List.range 4).flatMap (fun k => leBytes 8 (s.live' (dieAt (portHub n)) (.lnkPeerKey n k)).toNat)

/-- The lanes of a mask. -/
def laneCount (m : BitVec 8) : Nat := popcount m.toNat

/-- A port's session ends: its keys are erased and its flows leave the pool (R348, R358). -/
def State.endSession (s : State) (n : Nat) : State :=
  let s := s.setPort n (fun p => { p with peer := none, session := Session.reset, txBytes := 0, txStarts := noStarts, txFrame := 0#64,
                                          rxFrame := 0#64, turns := [], held := [], again := none, sealBad := 0, missed := 0, lowering := false, rising := false })
  { s with flows := s.flows.filter (fun f => f.port != n) }

/-- A port fails (R352, R355, R358). -/
def State.portFail (s : State) (n : Nat) : State := (s.endSession n).portMove n .failed

/-- A message leaves a port in control flits (R342, R345, R356). -/
def State.control (s : State) (n : Nat) (data : Bytes) : State :=
  let p := { s.packet (s.peerPkg n) 6 0#16 (.session data) with stamp := (s.dieNow (portHub n)).truncate 40 }
  let s := s.setPort n (fun x => (x.deal 3#4 (0#12 :: List.replicate ((16 + data.length) / flitBytes) 0xFFF#12)).2)
  { s with sentOut := s.sentOut ++ [(n, p)] }

/-! ## Training (R341, R352, R353) -/

/-- A HELLO (R356). -/
def hello (pkg : Nat) (pk : Bytes) : Bytes := leBytes 2 pkg ++ sub pk 0 64

/-- PORT_TRAINING_DONE: the lanes are equalised, ordered and deskewed; the port enters SESSION and sends its HELLO (R352, R356). The path
asymmetry measured is written to PLB_PORT_ASYM (R39). -/
def execPortTrainingDone (port : Nat) (lanes : BitVec 8) (reversed : Bool) (inverted : BitVec 8) (asym : BitVec 16) (s : State) :
    Host.Outcome State Fault Refusal :=
  onUnit (decide (port < 30)) "port" s <|
    if (s.port port).st = .training ∧ laneCount lanes ≥ s.minLanes port then
      let b := dieAt (portHub port)
      let v := BitVec.ofNat 64 asym.toNat
      let s := s.setReg b (.plbPortAsym port) v
      let key := regKey b (.plbPortAsym port)
      let s : State := { s with live := if v = 0#64 then kvDel s.live key else kvSet s.live key v }
      let s := s.setPort port (fun p => { p with active := lanes, dropped := 0#8, reversed := reversed, inverted := inverted })
      ((s.endSession port).portMove port .session).control port (hello s.sec.pkg s.fuses.identityPk)
    else s

/-- The lowest-numbered lane that is not dropped (R354). -/
def hairLane (p : Port) : Nat := ((List.range 8).find? (fun l => p.active.getLsbD l && !p.dropped.getLsbD l)).getD 0

/-- Whether a lane leaves service (R353). -/
def State.laneBad (s : State) (port : Nat) : LaneCause → Bool
  | .signal => true
  | .codewords => true
  | .corrected n => decide (n > s.cfg (dieAt (portHub port)) .lnkCfg 0 16)

/-- LANE_DROP: a lane is dropped in both directions, and the port enters RETRAINING, or FAILED with fewer than MIN_LANES left (R352,
R353). -/
def execLaneDrop (port lane : Nat) (why : LaneCause) (s : State) : Host.Outcome State Fault Refusal :=
  onUnit (decide (port < 30) && decide (lane < 8)) "lane" s <|
    let p := s.port port
    let live := match p.st with
      | .up | .degraded | .retraining | .hairline => true
      | _ => false
    if live && p.active.getLsbD lane && s.laneBad port why then
      let bit := BitVec.ofNat 8 (2 ^ lane)
      let s := s.setPort port (fun p => { p with active := p.active &&& ~~~bit, dropped := p.dropped ||| bit })
      let s := (s.count 5 (portHub port) port 3 1).event (portHub port) kLaneDropped noCtx port 0#8 (leBytes 1 lane)
      if laneCount (s.port port).active < s.minLanes port then s.portFail port
      else if p.st = .retraining then s.portEvent port
      else s.portMove port .retraining
    else s

/-- The link distance table (R274): hops and latency of the best path are measured, so they are functions of the two packages. -/
def State.distanceEntry (s : State) (p : Nat) : Bytes :=
  if p = s.sec.pkg then [0#8, 0#8, 0#8, 0#8]
  else
    let ports := (s.routePorts 8 p).filter (fun n => match (s.port n).st with
      | .up | .degraded => true
      | _ => false)
    let twin := s.twin && ports.any (fun n => (partnerPorts (portHub n)).contains n)
    let path := leBytes 1 (if twin then 1 else 2)
    if ports.isEmpty then [0xFF#8] ++ path ++ leBytes 2 (Config.linkLatency p)
    else
      let hops := if ports.any (fun n => (s.port n).peer == some p) then 1 else 2 + Config.linkHops s.sec.pkg p % 253
      leBytes 1 hops ++ path ++ leBytes 2 (min 0xFFFF (Config.linkLatency p))

/-- Hub die 8 writes the table, which lies in the owner's partition (R274, R463). -/
def State.distanceTable (s : State) : State :=
  let base := fld (s.reg (dieAt 8) .morDistBase) 15 33 * 2 ^ 15
  if !s.ownerArea 8 base 0x8000 then s.violateArea 8 base
  else s.store 0 0 0 base ((List.range 8192).flatMap s.distanceEntry) (s.dieNow 8)

/-- Whether no port trains or opens its session any more. -/
def State.allTrained (s : State) : Bool :=
  (List.range 30).all (fun n => match (s.port n).st with
    | .training | .session => false
    | _ => true)

/-- UP or DEGRADED by the lanes in use, HAIRLINE by MODE (R352, R354). -/
def State.runState (s : State) (n : Nat) : PortSt :=
  if s.portMode n = 1 then .hairline else if laneCount (s.port n).active = 8 then .up else .degraded

/-- LANE_RETRAIN_DONE: the new lane set is trained; held frames are sent again and the port goes on (R353, R274). -/
def execLaneRetrainDone (port : Nat) (lanes : BitVec 8) (s : State) : Host.Outcome State Fault Refusal :=
  onUnit (decide (port < 30)) "port" s <|
    let p := s.port port
    if p.st ≠ .retraining ∨ lanes &&& ~~~p.active ≠ 0#8 then s
    else if laneCount lanes < s.minLanes port then s.portFail port
    else
      let ticks := (s.plumb.now - p.since).toNat
      let s := s.setPort port (fun p => { p with active := lanes, dropped := p.dropped ||| (p.active &&& ~~~lanes) })
      let s := s.setPort port (fun p => { p with hair := hairLane p })
      let s := s.event (portHub port) kRetrained noCtx port 0#8 (leBytes 1 (laneCount lanes) ++ leBytes 4 ticks)
      (s.portMove port (if s.portMode port = 1 then .hairline else .degraded)).distanceTable

/-! ## Sessions (R356 to R358) -/

/-- A peer that fails authentication (R358). -/
def State.authFail (s : State) (port pkg : Nat) : State :=
  let s := s.setBits (dieAt (portHub port)) (.lnkStatus port) 0x20000
  (s.event (portHub port) kAuthFailed noCtx port 0#8 (leBytes 2 pkg)).portFail port

/-- SESSION_HELLO: step 1; the lower-numbered side then sends its encapsulation key (R356). -/
def execSessionHello (port pkg : Nat) (pk : Bytes) (s : State) : Host.Outcome State Fault Refusal :=
  onUnit (decide (port < 30)) "port" s <|
    if (s.port port).st ≠ .session ∨ (s.port port).session.phase ≠ 0 then s
    else if pkg ≠ s.peerPkg port ∨ pkg = s.sec.pkg ∨ shake256 32 (sub pk 0 64) ≠ s.peerKey port then s.authFail port pkg
    else
      let (n, s) := s.draw
      let low := decide (s.sec.pkg < pkg)
      let key := Config.kemKey n
      let s := s.setPort port (fun p => { p with session :=
        { p.session with phase := 1, peerPkg := pkg, peerPk := sub pk 0 64, kem := n, kemKey := if low then key else [] } })
      if low then s.control port key else s

/-- The transcript hash of a port: both HELLOs, the lower-numbered side's first, the encapsulation key and the ciphertext (R356). -/
def State.transcript (s : State) (port : Nat) : Bytes :=
  let x := (s.port port).session
  let mine := hello s.sec.pkg s.fuses.identityPk
  let theirs := hello x.peerPkg x.peerPk
  shake256 32 ((if s.sec.pkg < x.peerPkg then mine ++ theirs else theirs ++ mine) ++ x.kemKey ++ x.cipher)

/-- "LINTEL-SESSION" in ASCII. -/
def sessionTag : Bytes := [0x4C#8, 0x49#8, 0x4E#8, 0x54#8, 0x45#8, 0x4C#8, 0x2D#8, 0x53#8, 0x45#8, 0x53#8, 0x53#8, 0x49#8, 0x4F#8, 0x4E#8]

/-- The message that a hub signs for its ports that have reached step 3 (R356). -/
def State.sessionMsg (s : State) (hub : Nat) : Bytes :=
  let ps := (List.range 30).filter (fun n => portHub n == hub && (s.port n).session.phase == 2)
  sessionTag ++ leBytes 2 s.sec.pkg ++ leBytes 2 ps.length ++ ps.flatMap (fun n => leBytes 1 n ++ s.transcript n)

/-- Step 3 reached: the hub's message and its signature leave the port (R356). -/
def State.signSession (s : State) (port : Nat) : State :=
  let m := s.sessionMsg (portHub port)
  s.control port (m ++ Config.slhSign s.fuses.identityPk m)

/-- SESSION_KEM_KEY: the higher-numbered side encapsulates and returns the ciphertext (R356). -/
def execSessionKemKey (port : Nat) (key : Bytes) (s : State) : Host.Outcome State Fault Refusal :=
  onUnit (decide (port < 30)) "port" s <|
    let x := (s.port port).session
    if (s.port port).st = .session ∧ x.phase = 1 ∧ s.sec.pkg > x.peerPkg then
      let (n, s) := s.draw
      let ct := Config.kemCipher key n
      let s := s.setPort port (fun p => { p with session :=
        { p.session with phase := 2, kemKey := key, cipher := ct, secret := Config.kemSecret key n } })
      (s.control port ct).signSession port
    else s

/-- SESSION_KEM_CIPHERTEXT: the lower-numbered side decapsulates (R356). -/
def execSessionKemCiphertext (port : Nat) (ct : Bytes) (s : State) : Host.Outcome State Fault Refusal :=
  onUnit (decide (port < 30)) "port" s <|
    let x := (s.port port).session
    if (s.port port).st = .session ∧ x.phase = 1 ∧ s.sec.pkg < x.peerPkg then
      (s.setPort port (fun p => { p with session :=
        { p.session with phase := 2, cipher := ct, secret := Config.kemDecaps p.session.kem ct } })).signSession port
    else s

/-- Whether a peer's message names it and holds this port's transcript hash (R356). Which number the far end of the cable has no rule tells
this side, so any entry may hold it (log entry 39). -/
def State.goodMsg (s : State) (port : Nat) (msg : Bytes) : Bool :=
  let n := num msg 16 2
  sub msg 0 14 == sessionTag && num msg 14 2 == (s.port port).session.peerPkg && msg.length == 18 + 33 * n
    && (List.range n).any (fun i => sub msg (19 + 33 * i) 32 == s.transcript port)

/-- SESSION_SIGNATURE: step 4 and the keys of step 5; the session is established (R356). The last one at start-up ends link training, after
which the distance table is written (R274, R417). -/
def execSessionSignature (port : Nat) (msg sig : Bytes) (s : State) : Host.Outcome State Fault Refusal :=
  onUnit (decide (port < 30)) "port" s <|
    let x := (s.port port).session
    if (s.port port).st ≠ .session ∨ x.phase ≠ 2 then s
    else if Config.slhVerify x.peerPk msg sig && s.goodMsg port msg then
      let now := s.plumb.now
      let keys := shake256 104 (x.secret ++ s.transcript port)
      let s := s.setPort port (fun p => { p with
        session := { p.session with phase := 3, keys := keys }, peer := some x.peerPkg, txBytes := 0, txStarts := noStarts, txFrame := 0#64, rxFrame := 0#64,
        turns := [], held := [], again := none, sealBad := 0, missed := 0, lastTx := now, lastRx := now, hair := hairLane p })
      let s := s.portMove port (s.runState port)
      if s.sec.mode == .starting && s.allTrained then s.distanceTable else s
    else s.authFail port x.peerPkg

/-- SESSION_RENEWAL: every 2^31 frames of a direction the keys are renewed under a new shared secret (R357). -/
def execSessionRenewal (port : Nat) (s : State) : Host.Outcome State Fault Refusal :=
  onUnit (decide (port < 30)) "port" s <|
    let p := s.port port
    let due := 2 ^ 31 * (p.session.renewals + 1)
    if p.session.phase = 3 ∧ (p.txFrame.toNat ≥ due ∨ p.rxFrame.toNat ≥ due) then
      let (n, s) := s.draw
      let keys := shake256 104 (Config.kemSecret (Config.kemKey n) n ++ sub p.session.keys 72 32 ++ leBytes 8 p.txFrame.toNat)
      s.setPort port (fun p => { p with session := { p.session with keys := keys, renewals := p.session.renewals + 1 } })
    else s

/-- Three tag failures in a row end the session, and the port authenticates again (R343, R358). -/
def State.sealFail (s : State) (port : Nat) : State :=
  let s := ((s.setBits (dieAt (portHub port)) (.lnkStatus port) 0x40000).endSession port).portMove port .session
  s.control port (hello s.sec.pkg s.fuses.identityPk)

/-! ## Heartbeats and recovery (R352, R354, R355) -/

/-- The heartbeat interval in ticks (R355). -/
def heartTicks : Nat := 4194304

/-- Whether a port's state carries traffic. -/
def Port.carries (p : Port) : Bool :=
  p.peer.isSome && match p.st with
    | .up | .degraded | .hairline => true
    | _ => false

/-- HEARTBEAT_SEND (R355). -/
def execHeartbeatSend (port : Nat) (s : State) : Host.Outcome State Fault Refusal :=
  onUnit (decide (port < 30)) "port" s <|
    let p := s.port port
    if p.carries && decide ((s.plumb.now - p.lastTx).toNat ≥ heartTicks) then
      let now := s.plumb.now
      (s.setPort port (fun p => { p with lastTx := now })).sendOn port
        (s.packet (p.peer.getD 0) 6 0#16 (.heartbeat s.sec.pkg p.st.code))
    else s

/-- A heartbeat from a port's peer (R355). -/
def State.heartbeatIn (s : State) (port pkg : Nat) : State :=
  if (s.port port).carries && (s.port port).peer == some pkg then
    let now := s.plumb.now
    s.setPort port (fun p => { p with lastRx := now, missed := 0 })
  else s

/-- HEARTBEAT. -/
def execHeartbeat (port pkg _state : Nat) (s : State) : Host.Outcome State Fault Refusal :=
  onUnit (decide (port < 30)) "port" s (s.heartbeatIn port pkg)

/-- HEARTBEAT_MISSED: three in a row fail the port (R355). -/
def execHeartbeatMissed (port : Nat) (s : State) : Host.Outcome State Fault Refusal :=
  onUnit (decide (port < 30)) "port" s <|
    let p := s.port port
    if p.carries && decide ((s.plumb.now - p.lastRx).toNat ≥ heartTicks * (p.missed + 1)) then
      let s := s.setPort port (fun p => { p with missed := p.missed + 1 })
      if p.missed + 1 ≥ 3 then s.portFail port else s
    else s

/-- PORT_FAILED_RETRY: one second after FAILED (R352). -/
def execPortFailedRetry (port : Nat) (s : State) : Host.Outcome State Fault Refusal :=
  onUnit (decide (port < 30)) "port" s <|
    let p := s.port port
    if p.st = .failed ∧ s.portMode port ≠ 0 ∧ (s.plumb.now - p.since).toNat ≥ 4000000000 then s.portMove port .training else s

/-- PORT_OFF: MODE has gone to 0, and the held frames are acknowledged or 1 ms has passed (R352). -/
def execPortOff (port : Nat) (s : State) : Host.Outcome State Fault Refusal :=
  onUnit (decide (port < 30)) "port" s <|
    let p := s.port port
    if p.closing && (p.held.isEmpty || decide ((s.plumb.now - p.since).toNat ≥ 4000000)) then
      ((s.setPort port (fun p => { p with closing := false, active := 0#8 })).endSession port).portMove port .off
    else s

/-- An UP or DEGRADED port moves to HAIRLINE once its held frames are acknowledged (R354). -/
def State.toHairline (s : State) (port : Nat) : State :=
  let p := s.port port
  match p.st with
  | .up | .degraded =>
    if p.held.isEmpty then (s.setPort port (fun p => { p with lowering := false, hair := hairLane p })).portMove port .hairline
    else s.setPort port (fun p => { p with lowering := true })
  | _ => s

/-- FULL_MODE_RESTORED: the other lanes of a port that leaves HAIRLINE are trained and its hairline lane retrained (R354). -/
def execFullModeRestored (port : Nat) (lanes : BitVec 8) (s : State) : Host.Outcome State Fault Refusal :=
  onUnit (decide (port < 30)) "port" s <|
    let p := s.port port
    if p.st = .hairline ∧ p.rising ∧ lanes &&& p.dropped = 0#8 ∧ laneCount lanes ≥ s.minLanes port then
      let s := s.setPort port (fun p => { p with active := lanes, rising := false })
      s.portMove port (if laneCount lanes = 8 then .up else .degraded)
    else s

/-! ## The Lintel group (R359) -/

/-- What an apply does to one port (R352, R354, R359; log entry 40): a change between modes 1 and 2 is that of R354; any other change of
MODE, and one of PEER_PKG or peer key, trains the port from OFF, and MODE 0 begins its way to OFF. -/
def State.portApply (s : State) (n mode pkg : Nat) (key : Bytes) : State :=
  let m := s.portMode n
  let now := s.plumb.now
  let fresh := s.peerPkg n != pkg || s.peerKey n != key
  if m = 0 then
    if mode ≠ 0 ∧ (s.port n).st ≠ .off then s.setPort n (fun p => { p with closing := true, since := now }) else s
  else if fresh || mode = 0 then
    let s := s.setPort n (fun p => { p with closing := false, active := 0#8, dropped := 0#8 })
    (s.endSession n).portMove n .training
  else if mode = m then s
  else if m = 1 then s.toHairline n
  else if (s.port n).st = .hairline then s.setPort n (fun p => { p with rising := true })
  else s

/-- A write of 1 to LNK_APPLY. -/
def State.lnkApplyAt (s : State) (hub : Nat) : State :=
  let ns := (List.range 30).filter (fun n => portHub n == hub)
  let old := ns.map (fun n => (n, s.portMode n, s.peerPkg n, s.peerKey n))
  (old.foldl (fun s x => s.portApply x.1 x.2.1 x.2.2.1 x.2.2.2) (s.applyNow (dieAt hub) .lnk)).routeAgain

/-- LNK_APPLY. -/
def execLnkApply (hub : Nat) (s : State) : Host.Outcome State Fault Refusal := onUnit (isHub hub) "hub" s (s.lnkApplyAt hub)

/-- Every pool entry of a hub freed (R359). -/
def State.flowsReset (s : State) (hub : Nat) : State := { s with flows := s.flows.filter (fun f => f.hub != hub) }

/-- LNK_FLOWS_RESET. -/
def execLnkFlowsReset (hub : Nat) (s : State) : Host.Outcome State Fault Refusal := onUnit (isHub hub) "hub" s (s.flowsReset hub)

/-! ## Die-to-die links (R23, R360) -/

/-- The dies that traffic passes along a row of compute dies, from die `a` to the die of its row in column `c` (R20, R23). -/
def rowPath (a c : Nat) : List Nat :=
  if a / 2 ≤ c then (List.range (c - a / 2 + 1)).map (fun i => a + 2 * i) else (List.range (a / 2 - c + 1)).map (fun i => a - 2 * i)

/-- The fixed route between two dies, both ends included (R23): along the row to the target's column and then across the column pair; to a hub
through the hub port of a die of its own half, which for the other half's hub is the first die of that half in the row; from hub to hub through
the row that bit 6 of the destination offset selects, by the hub ports of dies 2 to 5. From a hub to a compute die R23 gives no route of its
own: the model takes the way back (log entry 92). -/
def d2dRoute (a b off : Nat) : List Nat :=
  let toHub := fun (d h : Nat) =>
    if servingHub d = h then [d, h] else rowPath d (if h = 8 then 1 else 2) ++ [h]
  if a = b then [a]
  else if a < 8 ∧ b < 8 then
    let p := rowPath a (b / 2)
    if a % 2 = b % 2 then p else p ++ [b]
  else if a < 8 then toHub a b
  else if b < 8 then (toHub b a).reverse
  else if a = 8 then [8, 2 + off / 64 % 2, 4 + off / 64 % 2, 9]
  else [9, 4 + off / 64 % 2, 2 + off / 64 % 2, 8]

/-- The modules of a link (R360). -/
def d2dModules (b : Nat) : Nat := if b < 8 then 12 else 8

/-- D2D_LANE_REPAIR: a lane fault is repaired, or its module leaves service; either is recorded (R360). The event's lanes and ticks no rule
gives a die-to-die link: they are free. -/
def execD2dLaneRepair (a b : Nat) (repaired : Bool) (s : State) : Host.Outcome State Fault Refusal :=
  let lo := min a b
  let hi := max a b
  onUnit (d2dPairs.contains (lo, hi)) "die-to-die link" s <|
    let key := 16 * lo + hi
    let gone := (kvGet s.d2dLost key).getD 0
    let s : State := if repaired then s else { s with d2dLost := kvSet s.d2dLost key (min (gone + 1) (d2dModules hi)) }
    let (n, s) := s.draw
    (s.event lo kRetrained noCtx (0x100 + key) 0#8 (leBytes 1 n ++ leBytes 4 (n / 256 % 80001))).distanceTable

end Sys2Proof.Machine
end

