-- ==== Sys2Proof/Machine/Mirror.lean ====
section
/-! DEFINITION. The partner mirror of a twin carrier (R458 to R461): applying, copying, breaking and marking a range. The lines themselves
leave where memory is written (Machine/Ops.lean). -/

namespace Sys2Proof.Machine

/-- What a range has on its way is dropped: it starts afresh or has broken (R460). -/
def State.mirrorDrop (s : State) (hub m : Nat) : State :=
  let mine := fun (w : RouteWait) => w.hub == hub && w.packet.src == s.sec.pkg && match w.packet.body with
    | .write _ tag _ => isMirror w.packet.body && tag % 8 == m
    | .mirrorMark k _ _ => k == m
    | _ => false
  { s with mirror := s.mirror.filter (fun e => !(e.hub == hub && e.m == m)), routeWait := s.routeWait.filter (fun w => !mine w) }

/-- The source settings in force of a range, and whether it is valid (R461). -/
def State.mirrorSrc (s : State) (hub m : Nat) : BitVec 64 := s.live' (dieAt hub) (.mirSrc m)
def State.mirrorValid (s : State) (hub m : Nat) : Bool := fld (s.mirrorSrc hub m) 63 1 == 1

/-- The offsets of the lines of a range in ascending order; only near memory that the hub controls is mirrored (R458). -/
def State.mirrorLines (s : State) (hub m : Nat) : List Nat :=
  let v := s.mirrorSrc hub m
  (range' (fld v 0 27) (fld v 27 27 + 1 - fld v 0 27)).flatMap (fun page =>
    if s.hubOf 0 (page * 2 ^ 21) = some hub then (List.range 32768).map (fun i => page * 2 ^ 21 + 64 * i) else [])

/-- A range copies itself to the partner in ascending order (R460, R461). -/
def State.mirrorCopy (s : State) (hub m : Nat) : State :=
  let s := (s.mirrorDrop hub m).setField (dieAt hub) (.mirOutState m) 0 2 3
  (s.mirrorLines hub m).foldl (fun s off => s.mirrorBytes hub m off (s.load 0 off 64)) s

/-- A write of 1 to MIR_APPLY (R461). -/
def State.mirApplyAt (s : State) (hub : Nat) : State :=
  if !s.twin then s else
  let set := fun (s : State) (m : Nat) => (s.mirrorSrc hub m, s.live' (dieAt hub) (.mirDst m))
  let t := s.applyNow (dieAt hub) .mir
  (List.range 8).foldl (fun t m =>
    if set s m = set t m then t
    else if t.mirrorValid hub m then t.mirrorCopy hub m
    else (t.mirrorDrop hub m).setField (dieAt hub) (.mirOutState m) 0 2 0) t

/-- MIR_APPLY. -/
def execMirApply (hub : Nat) (s : State) : Host.Outcome State Fault Refusal := onUnit (isHub hub) "hub" s (s.mirApplyAt hub)

/-- A write to MIR_RESYNC: the named valid ranges copy themselves (R460). -/
def State.mirResyncAt (s : State) (hub : Nat) (v : BitVec 64) : State :=
  if !s.twin then s else
  (List.range 8).foldl (fun s m => if v.getLsbD m && s.mirrorValid hub m then s.mirrorCopy hub m else s) s

/-- MIR_RESYNC. -/
def execMirResync (hub : Nat) (v : BitVec 64) (s : State) : Host.Outcome State Fault Refusal :=
  onUnit (isHub hub) "hub" s (s.mirResyncAt hub v)

/-- RESYNC_DONE: every line of the copy and a mark behind it are acknowledged (R460). -/
def execResyncDone (hub m : Nat) (s : State) : Host.Outcome State Fault Refusal :=
  onUnit (isHub hub && decide (m < 8)) "mirror range" s <|
    let mine := fun (e : MirrorLine) => e.hub == hub && e.m == m
    if s.mirSt hub m = 3 ∧ s.mirror.any (fun e => mine e && e.mark.isSome && e.acked) then
      let s : State := { s with mirror := s.mirror.filter (fun e => !(mine e && e.acked)) }
      s.setField (dieAt hub) (.mirOutState m) 0 2 1
    else s

/-- A range breaks: BROKEN and BROKE, its lines no longer wait, and the event and source of its cause (R460). What R460 does not state of
the event is free. -/
def State.mirBreak (s : State) (hub m : Nat) (denied : Bool) : State :=
  if s.mirSt hub m ≠ 1 ∧ s.mirSt hub m ≠ 3 then s else
  let s := ((s.mirrorDrop hub m).setField (dieAt hub) (.mirOutState m) 0 2 2).setBits (dieAt hub) (.mirOutState m) 4
  let port := if hub = 8 then 12 else 27
  let (n, s) := s.draw
  let s := if denied then s.event hub kViolation noCtx (0x300 + port) 0#8 (leBytes 6 n ++ [0#8] ++ leBytes 1 (n / 2 ^ 48))
    else s.event hub kLaneDropped noCtx (port + n % 3) 0#8 (leBytes 1 (n / 3 % 8))
  s.portEvent port

/-- Whether a port has carried nothing for LNK_CFG.TIMEOUT (R460). -/
def State.portIdle (s : State) (port : Nat) : Bool :=
  let p := s.port port
  let t := s.cfg (dieAt (portHub port)) .lnkCfg 16 32
  if p.carries then s.elapsed p.lastRx t && s.elapsed p.lastTx t else s.elapsed p.since t

/-- The partner's side of a break by idle ports: an incoming range that has been in use turns STALE (R460). -/
def State.mirrorStale (s : State) (hub m : Nat) : State :=
  if s.reg (dieAt hub) (.mirInMark m) != 0#64 || s.reg (dieAt hub) (.mirInState m) != 0#64 then s.setBits (dieAt hub) (.mirInState m) 2 else s

/-- MIRROR_BREAK: a denied partner write, or three partner ports that have carried nothing for LNK_CFG.TIMEOUT (R460). -/
def execMirrorBreak (hub m : Nat) (denied : Bool) (s : State) : Host.Outcome State Fault Refusal :=
  onUnit (isHub hub && decide (m < 8)) "mirror range" s <|
    if !s.twin then s
    else if denied then s.mirBreak hub m true
    else if (partnerPorts hub).all s.portIdle then (s.mirBreak hub m false).mirrorStale hub m
    else s

/-- The partner's reply to a line or a mark (R459, R460). -/
def State.mirrorReply (s : State) (tag status : Nat) : State :=
  match s.mirror.find? (fun e => e.tag == tag) with
  | none => s
  | some e =>
    if status ≠ 0 then s.mirBreak e.hub e.m true else
    let rest := s.mirror.filter (fun x => x.tag != tag)
    match e.mark with
    | none => { s with mirror := rest }
    | some t =>
      let s := s.setReg (dieAt e.hub) (.mirOutMark e.m) t
      if s.mirSt e.hub e.m = 3 then { s with mirror := s.mirror.map (fun x => if x.tag == tag then { x with acked := true } else x) }
      else { s with mirror := rest }

/-- A mark of the partner's range `m` is applied after every line received before it, and acknowledged; after a copy it ends STALE (R459,
R460). -/
def State.mirrorMarkAt (s : State) (hub m tag : Nat) (stamp : BitVec 64) : State :=
  if !s.twin then s else
  let s := (s.setReg (dieAt hub) (.mirInMark m) stamp).setReg (dieAt hub) (.mirInState m) 0#64
  let port := if hub = 8 then 12 else 27
  s.sendBy hub (s.packet (s.peerPkg port) 0 0#16 (.writeReply tag 0))

/-- MIRROR_MARK. -/
def execMirrorMark (hub m tag : Nat) (stamp : BitVec 64) (s : State) : Host.Outcome State Fault Refusal :=
  onUnit (isHub hub && decide (m < 8)) "mirror range" s (s.mirrorMarkAt hub m tag stamp)

end Sys2Proof.Machine
end

