-- ==== Sys2Proof/Machine/Packets.lean ====
section
/-! DEFINITION. Lintel packets as they arrive (R342 to R347): frames, forwarding, remote reads and writes with their checks (R256, R328,
R397), replies, wake and fault reports (R355), and the time limits of routes and remote accesses. -/

namespace Sys2Proof.Machine

/-! ## Waking (R452) -/

/-- A wake source: in S2 and enabled, it sets its cause bit, raises source 19 of hub die 8 and starts the exit, which leaves REQUEST at 1
(R452). -/
def State.wake (s : State) (n : Nat) : State :=
  if s.power.st = .s2 ∧ s.power.moving = none ∧ (s.live' (dieAt 8) .pwrWakeEn).getLsbD n then
    let s := ((s.setBits (dieAt 8) .pwrWakeCause (2 ^ n)).raise 8 srcWake).setField (dieAt 8) .pwrState 0 2 1
    { s with power := { s.power with moving := some .s1 } }
  else s

/-- A WAKE packet raises the package's Lintel wake source (R355, R401, R452). -/
def State.wakeIn (s : State) : State := (s.raise 8 srcWake).wake 0

/-- A FAULT_REPORT sets PEER_FAULT and waits for the management port, which raises its in-band interrupt (R355, R369). -/
def State.faultIn (s : State) (port : Nat) (data : Bytes) : State :=
  let s := (s.setBits (dieAt (portHub port)) (.lnkStatus port) 0x80000).portEvent port
  { s with faults := s.faults ++ [data], ibi := s.ibi ++ [0x01#8] }

/-! ## Remote accesses (R328, R347) -/

/-- The check of a remote access: the ingress check of R256 on JOB and source, then R327 as the partition of the job, with REMOTE_R or
REMOTE_W, unless it is fenced (R328, R397). A packet that fails the ingress check counts as a permit denial (R54, R256). The answer is the
partition. -/
def State.remoteCheck (s : State) (port : Nat) (p : Packet) (wr : Bool) (a : BitVec 64) (n : Nat) : State × Option Nat :=
  let hub := portHub port
  if (s.port port).peer ≠ some p.src ∨ !s.mayRecv hub p.job p.src then (s.countUnit hub 2, none)
  else if gPkg a ≠ s.sec.pkg then (s, none) else
  match s.jobPart hub p.job wr with
  | none => (s.violate (0x300 + port) noCtx none (gSpace a) (gOff a), none)
  | some q =>
    let fenced := (s.reg (dieAt (s.hubFor (gSpace a) (gOff a))) .prtFence).getLsbD q
    if !fenced && s.allowed false q wr (gSpace a) (gOff a) n then (s, some q)
    else (s.violate (0x300 + port) noCtx (some q) (gSpace a) (gOff a), none)

/-- The status of a reply: 0 done, 1 denied. -/
def replyDenied : Nat := 1

/-- The lines of a range that carry a poison mark, counted from the line of its first byte (R318, R347). -/
def State.poisonedLines (s : State) (space off n : Nat) : List Nat :=
  (List.range (ceilDiv (off % 64 + n) 64)).filter (fun i => s.poison.contains (memKey space off / 64 + i))

/-- A READ_REQUEST at its target (R347). -/
def State.readIn (s : State) (port : Nat) (p : Packet) (a : BitVec 64) (tag n : Nat) : State :=
  let (s, ok) := s.remoteCheck port p false a n
  let reply := fun (s : State) (b : Body) => s.sendBy (portHub port) (s.packet p.src p.cls p.job b)
  match ok with
  | none => reply s (.readCompletion tag replyDenied [] [])
  | some q =>
    let data := s.load (gSpace a) (gOff a) n
    reply (s.readHint q 0 (gSpace a) (gOff a) n) (.readCompletion tag 0 data (s.poisonedLines (gSpace a) (gOff a) n))

/-- A WRITE at its target (R347); a line of a partner's mirror range leaves DIRTY, or STALE when it is denied (R458, R460). -/
def State.writeIn (s : State) (port : Nat) (p : Packet) (a : BitVec 64) (tag : Nat) (data : Bytes) : State :=
  let hub := portHub port
  let (s, ok) := s.remoteCheck port p true a data.length
  let mirror := s.twin && decide (tag ≥ 2 ^ 31) && (partnerPorts hub).contains port
  let reply := fun (s : State) (st : Nat) => s.sendBy hub (s.packet p.src p.cls p.job (.writeReply tag st))
  match ok with
  | none => reply (if mirror then s.setBits (dieAt hub) (.mirInState (tag % 8)) 2 else s) replyDenied
  | some q =>
    let s := s.store q 0 (gSpace a) (gOff a) data (s.dieNow hub)
    reply (if mirror then s.setBits (dieAt hub) (.mirInState (tag % 8)) 1 else s) 0

/-- A READ_COMPLETION at the requester: the instruction that waits has its bytes, poisoned lines as PARITY, or its command fails (R318,
R327, R347). -/
def State.completionIn (s : State) (p : Packet) (tag status : Nat) (data : Bytes) (bad : List Nat) : State :=
  match s.remotes.find? (fun x => x.tag == tag && gPkg x.addr == p.src) with
  | none => s
  | some x =>
    match x.use with
    | .notice _ _ _ => s
    | .command lead =>
      let s : State := { s with remotes := s.remotes.filter (fun y => y.tag != tag) }
      match s.runOf lead with
      | none => s
      | some r =>
        if status ≠ 0 ∨ data.length ≠ x.bytes then s.failRun r stPartition none else
        let k := remoteKey (gPkg x.addr) (gSpace x.addr) (gOff x.addr)
        s.setRun lead (fun r => { r with
          fetched := (List.range data.length).foldl (fun l i => kvSet l (k + i) ((data[i]?).getD 0#8)) r.fetched
          fetchBad := r.fetchBad ++ bad.map (k / 64 + ·) })

/-- A WRITE_REPLY at the requester: of a command's write, a notice or a mirrored line (R347, R387, R459). -/
def State.writeReplyIn (s : State) (port : Nat) (p : Packet) (tag status : Nat) : State :=
  if tag ≥ 2 ^ 31 then (if (partnerPorts (portHub port)).contains port then s.mirrorReply tag status else s) else
  match s.remotes.find? (fun x => x.tag == tag && gPkg x.addr == p.src) with
  | none => s
  | some x =>
    let s : State := { s with remotes := s.remotes.filter (fun y => y.tag != tag) }
    match x.use with
    | .notice _ c q => if status = 0 then s else s.noticeLost c q
    | .command lead =>
      match s.runOf lead with
      | none => s
      | some r => if status = 0 then s else s.failRun r stPartition none

/-! ## Delivery and forwarding (R345, R346) -/

/-- Whether TYPE and LENGTH, and the byte count of an access header, are in range (R345). -/
def headerOk (p : Packet) : Bool :=
  decide (1 ≤ p.length) && decide (p.length ≤ 4112) && match p.body with
    | .reserved _ => false
    | .readRequest _ _ n => decide (1 ≤ n) && decide (n ≤ 4096)
    | .write _ _ d => decide (1 ≤ d.length) && decide (d.length ≤ 4096)
    | _ => true

/-- The tag of the packet at its sender that an accumulate reply answers (R254). -/
def State.sendTag (s : State) (src : Nat) (red : BitVec 16) (window : BitVec 32) (source : BitVec 16) (seq : BitVec 32) : Option Nat :=
  (s.sends.find? (fun x => x.target == src && x.packet.red == red && x.packet.window == window && x.packet.source == source
    && x.packet.seq == seq)).map (·.tag)

/-- A packet for this package is taken by the unit that its TYPE names (R345, R346). -/
def State.deliver (s : State) (port : Nat) (p : Packet) : State :=
  let peer := ((s.port port).peer).getD 8192
  match p.body with
  | .accumulate a => accumulateAt (8 + a.red.toNat / 512 % 2) (some port) peer a s
  | .accumulateReply red window source seq r =>
    match s.sendTag p.src red window source seq with
    | some tag => accumulateReplyAt tag r s
    | none => s
  | .leaseRequest r => leaseRequestAt (s.hubFor (gSpace r.home) (gOff r.home)) peer r s
  | .leaseReply tag o => leaseReplyAt tag o s
  | .readRequest a tag n => s.readIn port p a tag n
  | .readCompletion tag st d bad => s.completionIn p tag st d bad
  | .write a tag d => s.writeIn port p a tag d
  | .writeReply tag st => s.writeReplyIn port p tag st
  | .plumbSync m => s.syncMsg port m
  | .heartbeat pkg _ => s.heartbeatIn port pkg
  | .wake => s.wakeIn
  | .faultReport d => s.faultIn port d
  | .mirrorMark m tag stamp => if (partnerPorts (portHub port)).contains port then s.mirrorMarkAt (portHub port) (m % 8) tag stamp else s
  | .session _ => s
  | .reserved _ => s

/-- A packet for another package goes on with one hop less, or is dropped without one left (R346). -/
def State.forward (s : State) (port : Nat) (p : Packet) : State :=
  if p.ttl ≤ 1 then (s.setBits (dieAt (portHub port)) .lnkFaults 1).portEvent port
  else s.routeBy (portHub port) { p with ttl := p.ttl - 1 } State.passOn

/-- A 40-bit send stamp extended to 64 bits: the value nearest to the receiver's time whose low 40 bits equal the field (R42). -/
def extendStamp (now : BitVec 64) (f : BitVec 40) : BitVec 64 := now + (f - now.truncate 40).signExtend 64

/-- A packet's send stamp as its port's hub extends it on arrival (R42). -/
def State.stampIn (s : State) (port : Nat) (p : Packet) : State :=
  let now := s.dieNow (portHub port)
  s.setPort port (fun x => { x with rxStamp := extendStamp now p.stamp })

/-- A packet that a port receives (R42, R345, R346, R348, R351). -/
def State.receive (s : State) (port : Nat) (p : Packet) : State :=
  let s := s.stampIn port p
  if !headerOk p then (s.setBits (dieAt (portHub port)) .lnkFaults 4).portEvent port
  else
    let s := (s.meter port p.src p.job p.cls 0 (payloadBytes p.body)).count 5 (portHub port) port 1 (payloadBytes p.body)
    if p.dest = s.sec.pkg then s.deliver port p else s.forward port p

/-- A packet that arrives by itself, on a port that carries its class. -/
def State.arrive (s : State) (port : Nat) (p : Packet) : State :=
  if (s.port port).carries && s.carriesClass port p.cls then s.receive port p else s

/-! ## Frames (R342, R343, R344, R358) -/

/-- Whether a flit is correctable: its codeword was, and its KIND is not reserved (R342, R343). -/
def flitGood (f : Flit) : Bool := f.ok && decide (f.head.kind.toNat ≤ 3)

/-- The data flits of a frame, and its seal flits (R342). -/
def frameData (f : Frame) : List Flit := f.flits.filter (fun x => x.head.kind == 0#4)
def frameSeals (f : Frame) : List Flit := f.flits.filter (fun x => x.head.kind == 1#4)

/-- How far before a frame's seal flit a flit stands in FSEQ order (R342). -/
def flitBefore (f : Frame) (x : Flit) : Nat := ((((frameSeals f).head?).map (fun y => y.head.fseq)).getD 0#16 - x.head.fseq).toNat

/-- A flit put among flits in falling order of a measure. -/
def putFlit (m : Flit → Nat) (x : Flit) : List Flit → List Flit
  | [] => [x]
  | y :: t => if m y ≤ m x then x :: y :: t else y :: putFlit m x t

/-- The data flits in FSEQ order, which the receiver restores (R342): those that stand furthest before the seal flit first. -/
def frameOrdered (f : Frame) : List Flit := (frameData f).foldr (putFlit (flitBefore f)) []

/-- Whether every flit of a frame is there and correctable: one seal flit, before it 31 data flits, each with an FSEQ of its own (R341 to
R343). -/
def frameIntact (f : Frame) : Bool :=
  f.flits.all flitGood && (frameSeals f).length == 1 && (frameData f).length == 31
    && (frameData f).all (fun x => decide (1 ≤ flitBefore f x) && decide (flitBefore f x < 2 ^ 15))
    && decide (((frameData f).map (flitBefore f)).Nodup)

/-- The packets of a frame in the order of its body stream: those whose last byte lies in each flit (R342). -/
def framePackets (f : Frame) : List Packet := (frameOrdered f).flatMap (fun x => x.packets)

/-- A frame accepted: what it acknowledges is let go, what the peer asks again is sent again by the link layer, and its packets are
delivered in order. -/
def State.acceptFrame (s : State) (port : Nat) (f : Frame) : State :=
  let s := s.setPort port (fun p => { p with
    rxFrame := p.rxFrame + 1#64, again := none, sealBad := 0
    held := if f.ack.getLsbD 63 then p.held else p.held.filter (fun n => decide (f.ack.toNat < n.number.toNat)) })
  let s := if (s.port port).lowering && (s.port port).held.isEmpty then s.toHairline port else s.routeAgain
  (framePackets f).foldl (fun s p => if s.carriesClass port p.cls then s.receive port p else s) s

/-- LINK_FRAME: a frame is accepted whole or refused and asked for again; one that has been accepted before is let pass (R343, R344). -/
def execLinkFrame (port : Nat) (f : Frame) (s : State) : Host.Outcome State Fault Refusal :=
  onUnit (decide (port < 30)) "port" s <|
    let p := s.port port
    let again := fun (s : State) => s.setPort port (fun p => { p with again := some p.rxFrame })
    if !p.carries then s
    else if !frameIntact f then again s
    else if !f.tagOk then
      let s := again (s.setPort port (fun p => { p with sealBad := p.sealBad + 1 }))
      if p.sealBad + 1 ≥ 3 then s.sealFail port else s
    else if f.number = p.rxFrame then s.acceptFrame port f
    else if f.number.toNat < p.rxFrame.toNat then s
    else again s

/-! ## The packet rows: each is a lone arrival -/

/-- PACKET_FORWARD (R346). -/
def execPacketForward (port : Nat) (p : Packet) (s : State) : Host.Outcome State Fault Refusal :=
  onUnit (decide (port < 30)) "port" s (if p.dest = s.sec.pkg then s else s.arrive port p)

/-- READ_REQUEST (R347). -/
def execReadRequest (port : Nat) (p : Packet) (s : State) : Host.Outcome State Fault Refusal :=
  onUnit (decide (port < 30)) "port" s <|
    match p.body with
    | .readRequest _ _ _ => s.arrive port p
    | _ => s

/-- READ_COMPLETION (R347). -/
def execReadCompletion (port : Nat) (p : Packet) (s : State) : Host.Outcome State Fault Refusal :=
  onUnit (decide (port < 30)) "port" s <|
    match p.body with
    | .readCompletion _ _ _ _ => s.arrive port p
    | _ => s

/-- WRITE (R347). -/
def execWrite (port : Nat) (p : Packet) (s : State) : Host.Outcome State Fault Refusal :=
  onUnit (decide (port < 30)) "port" s <|
    match p.body with
    | .write _ _ _ => s.arrive port p
    | _ => s

/-- WRITE_REPLY (R347). -/
def execWriteReply (port : Nat) (p : Packet) (s : State) : Host.Outcome State Fault Refusal :=
  onUnit (decide (port < 30)) "port" s <|
    match p.body with
    | .writeReply _ _ => s.arrive port p
    | _ => s

/-- WAKE (R355). -/
def execWake (port : Nat) (s : State) : Host.Outcome State Fault Refusal :=
  onUnit (decide (port < 30)) "port" s (if (s.port port).carries then s.wakeIn else s)

/-- FAULT_REPORT (R355). -/
def execFaultReport (port : Nat) (data : Bytes) (s : State) : Host.Outcome State Fault Refusal :=
  onUnit (decide (port < 30)) "port" s (if (s.port port).carries then s.faultIn port data else s)

/-! ## Time limits (R243, R346, R347) -/

/-- A lease request to another package that has had no reply: its home cannot be reached (R243). A take may wait at its home for
MOR_LEASE_CFG.TIMEOUT, so LNK_CFG.TIMEOUT counts from there. A release after the commit is given up; a take or a comparison fails its
command (log entry 102). -/
def State.leaseLost (s : State) (tag : Nat) : State :=
  match s.leaseByTag tag with
  | none => s
  | some (r, u) =>
    let hub := servingHub (r.lead / 8)
    let wait := s.cfg (dieAt hub) .morLeaseCfg 0 32 * 4096
    if gPkg u.home == s.sec.pkg || !(decide ((s.plumb.now - u.since).toNat ≥ wait) && s.elapsed (u.since + BitVec.ofNat 64 wait) (s.linkTimeout hub)) then s
    else if u.phase = .closing then s.setLease r.lead u.index (fun u => { u with phase := .closed })
    else s.failRun r stLink none

/-- REMOTE_ACCESS_TIMEOUT: a command's remote access has had no answer within LNK_CFG.TIMEOUT (R347), or its lease request none (R243). -/
def execRemoteAccessTimeout (tag : Nat) (s : State) : Host.Outcome State Fault Refusal :=
  done s <|
    match s.remotes.find? (fun x => x.tag == tag) with
    | none => s.leaseLost tag
    | some x =>
      match x.use with
      | .notice _ _ _ => s
      | .command lead =>
        match s.runOf lead with
        | none => { s with remotes := s.remotes.filter (fun y => y.tag != tag) }
        | some r =>
          if s.elapsed x.since (s.linkTimeout (servingHub (lead / 8))) then
            ({ s with remotes := s.remotes.filter (fun y => y.tag != tag) } : State).failRun r stLink none
          else s

/-- The list without its `n`-th element that passes, and that element. -/
def takeNth {α : Type} (p : α → Bool) : Nat → List α → Option α × List α
  | _, [] => (none, [])
  | n, x :: t =>
    if !p x then let (y, l) := takeNth p n t; (y, x :: l)
    else match n with
      | 0 => (some x, t)
      | n + 1 => let (y, l) := takeNth p n t; (y, x :: l)

/-- ROUTE_TIMEOUT: a packet that has waited LNK_CFG.TIMEOUT for a usable port is dropped (R346). A take that it carried fails its command,
whose home cannot be reached (R243). -/
def execRouteTimeout (hub n : Nat) (s : State) : Host.Outcome State Fault Refusal :=
  onUnit (isHub hub) "hub" s <|
    match takeNth (fun w => w.hub == hub && !(w.packet.src == s.sec.pkg && isMirror w.packet.body)) n s.routeWait with
    | (none, _) => s
    | (some w, rest) =>
      if !s.elapsed w.since (s.linkTimeout hub) then s else
      let s := ({ s with routeWait := rest } : State).setBits (dieAt hub) .lnkFaults 2
      let s := match s.routePorts hub w.packet.dest with
        | port :: _ => s.portEvent port
        | [] => s
      match w.packet.body with
      | .leaseRequest q =>
        match s.leaseByTag q.tag with
        | some (r, u) => if u.phase = .asked ∧ w.packet.src = s.sec.pkg then s.failRun r stLink none else s
        | none => s
      | _ => s

end Sys2Proof.Machine
end

