-- ==== Sys2Proof/Machine/Power.lean ====
section
/-! DEFINITION. Supply and enable (R437 to R441), power states (R449 to R453), the core supply and thermal limits (R30, R454 to R456), and
the stop of the whole package (R28). -/

namespace Sys2Proof.Machine

/-! ## Supply (R438 to R441) -/

/-- The fuses and the NOR device after a loss of power: an image being written fails verification (R422). -/
def State.survivors (s : State) : Fuses :=
  match s.sec.writing with
  | some (0, _) => { s.fuses with norFw := [] }
  | some (_, _) => { s.fuses with norCfg := [] }
  | none => s.fuses

/-- Every rail is off and all state is lost (R441). -/
def State.dark (s : State) : State :=
  { State.reset with fuses := s.survivors, fresh := s.fresh,
                     power := { Power.reset with rails := false, enable := s.power.enable, switchOn := s.power.switchOn, overV := s.power.overV,
                                                 inputMv := s.power.inputMv, latched := s.power.latched } }

/-- The rails are raised up to power-good (R440). -/
def State.railsOn (s : State) : State :=
  if s.power.rails then s else
  { State.reset with fuses := s.fuses, fresh := s.fresh,
                     power := { Power.reset with enable := true, switchOn := s.power.switchOn, overV := s.power.overV,
                                                 inputMv := s.power.inputMv } }

/-- The measured input voltage. -/
def State.input (s : State) (mv : Nat) : State := { s with power := { s.power with inputMv := mv } }

/-- INPUT_RISE: the input rises through 47.0 V; with enable high the package powers up, unless a trip keeps it off (R438, R440, R456). -/
def execInputRise (mv : Nat) (s : State) : Host.Outcome State Fault Refusal :=
  always s <|
    if s.power.inputMv < 47000 ∧ mv ≥ 47000 ∧ mv ≤ 54500 then
      let s := s.input mv
      let s : State := { s with power := { s.power with switchOn := true } }
      if s.power.enable ∧ !s.power.latched then s.railsOn else s
    else s

/-- INPUT_UNDERVOLTAGE: below 44.0 V every rail turns off at once; an input that has gone ends the hold of a trip (R438, R441, R456). -/
def execInputUndervoltage (mv : Nat) (s : State) : Host.Outcome State Fault Refusal :=
  always s <|
    if mv < 44000 then
      let s := (s.input mv).dark
      { s with power := { s.power with latched := false, switchOn := false } }
    else s

/-- INPUT_OVERVOLTAGE: above 54.5 V the input switch opens and the package runs from its bulk capacitance (R438). -/
def execInputOvervoltage (mv : Nat) (s : State) : Host.Outcome State Fault Refusal :=
  always s <|
    if mv > 54500 then
      let s := s.input mv
      { s with power := { s.power with switchOn := false, overV := true } }
    else s

/-- INPUT_OVERVOLTAGE_CLEAR: below 54.0 V the switch closes again (R438). -/
def execInputOvervoltageClear (mv : Nat) (s : State) : Host.Outcome State Fault Refusal :=
  always s <|
    if s.power.overV ∧ mv < 54000 then
      let s := s.input mv
      { s with power := { s.power with switchOn := true, overV := false } }
    else s

/-- ENABLE_LOW: the load is ramped down, then every rail turns off (R441); a trip no longer keeps the package off (R456). -/
def execEnableLow (s : State) : Host.Outcome State Fault Refusal :=
  always s <|
    let s := s.dark
    { s with power := { s.power with enable := false, latched := false } }

/-- ENABLE_HIGH: the rails are raised again (R441). -/
def execEnableHigh (s : State) : Host.Outcome State Fault Refusal :=
  always s <|
    let s : State := { s with power := { s.power with enable := true } }
    if s.power.switchOn ∧ s.power.inputMv ≥ 47000 ∧ !s.power.latched then s.railsOn else s

/-! ## Power states (R449 to R453) -/

/-- PWR_APPLY (R453). -/
def State.pwrApplyAt (s : State) : State := s.applyNow (dieAt 8) .pwr
def execPwrApply (s : State) : Host.Outcome State Fault Refusal := done s s.pwrApplyAt

/-- The package in a running state takes the one that REQUEST selects; in S0 no cluster is gated (R449). -/
def State.requestRun (s : State) (r : Nat) : State :=
  let s := s.setField (dieAt 8) .pwrState 0 2 r
  if s.power.st = .s2 ∨ s.power.moving.isSome then s
  else if r = 0 then
    { s with power := { s.power with st := .s0 }, keystones := s.keystones.map (fun k => { k with gated := false }) }
  else { s with power := { s.power with st := .s1 } }

/-- REQUEST_S0. -/
def execRequestS0 (s : State) : Host.Outcome State Fault Refusal := done s (s.requestRun 0)

/-- REQUEST_S1. -/
def execRequestS1 (s : State) : Host.Outcome State Fault Refusal := done s (s.requestRun 1)

/-- REQUEST 2: entry into S2 begins when no context is RUNNING, SUSPENDING or TEARING; else the write is discarded and REFUSED set (R450). -/
def State.requestS2 (s : State) : State :=
  if s.ctxs.any (fun x => x.st == .running || x.st == .suspending || x.st == .tearing) then s.setBits (dieAt 8) .pwrState 0x80
  else
    let s := s.setField (dieAt 8) .pwrState 0 2 2
    if s.power.st = .s2 ∨ s.power.moving.isSome then s else { s with power := { s.power with moving := some .s2 } }

/-- REQUEST_S2. -/
def execRequestS2 (s : State) : Host.Outcome State Fault Refusal := done s s.requestS2

/-- S2_ENTRY_DONE: clusters gated, the last-level memory written back and off, ports in HAIRLINE; events are held from here on (R450, R451). -/
def execS2EntryDone (s : State) : Host.Outcome State Fault Refusal :=
  done s <|
    if s.power.moving ≠ some .s2 then s else
    let s : State := { s with
      keystones := s.keystones.map (fun k => { k with gated := true })
      engines := []
      llms := s.llms.map (fun m => { m with lines := [], off := true }) }
    let s := (s.zeroArray 8).zeroArray 9
    let s := (List.range 30).foldl (fun s n => s.toHairline n) s
    { s with power := { s.power with st := .s2, moving := none, waiting := [], granted := [] } }

/-- WAKE_PIN (R452). -/
def execWakePin (s : State) : Host.Outcome State Fault Refusal := done s (s.wake 3)

/-- WAKE_TIMER: plumb time has reached PWR_WAKE_AT, which never wakes at 0 (R452, R453). -/
def execWakeTimer (s : State) : Host.Outcome State Fault Refusal :=
  done s <|
    let t := s.reg (dieAt 8) .pwrWakeAt
    if t ≠ 0#64 ∧ t.toNat ≤ s.plumb.now.toNat then s.wake 4 else s

/-- The events of a die held in S2 are written after the exit (R451); those of a die whose ring is off by then, and has been written before,
are lost (R48). -/
def State.unholdEvents (s : State) (die : Nat) : State :=
  let s := (s.ringForce die).flushHeld die
  if (s.ring die).flushed then
    (s.ring die).held.foldl (fun (s : State) _ => s.loseEvent die) (s.setRing die (fun r => { r with held := [] }))
  else s

/-- The exit from S2 is complete: the last-level memory zeroed in cache mode, STATE S1, held events written, and ports in full mode on their
way back (R451, R452). -/
def State.leaveS2 (s : State) : State :=
  let s := (s.zeroArray 8).zeroArray 9
  let s : State := { s with llms := s.llms.map (fun _ => { cache := true, switching := none, off := false, lines := [] }),
                            power := { s.power with st := .s1, moving := none } }
  let s := (List.range 10).foldl State.unholdEvents s
  (List.range 30).foldl (fun s n =>
    if (s.port n).st = .hairline ∧ s.portMode n = 2 then s.setPort n (fun p => { p with rising := true }) else s) s

/-- CLUSTER_GATE: in S1 a cluster gates after GATE_DELAY µs without a command; a µs has 4000 ticks (R449, R453). -/
def execClusterGate (k : Nat) (s : State) : Host.Outcome State Fault Refusal :=
  onUnit (clusterOk k) "cluster" s <|
    let d := s.cfg (dieAt 8) .pwrCfg 16 16
    if s.power.st = .s1 ∧ s.power.moving = none ∧ s.present k ∧ (s.runsOn k).isEmpty ∧ !s.engines.any (fun e => e.nullBeat && e.no / 64 == k)
        ∧ (s.plumb.now - (s.keystone k).lastCmd).toNat ≥ (if d = 0 then 1 else d) * 4000 then
      s.setKeystone k (fun x => { x with gated := true })
    else s

/-! ## The stop of the package (R28) -/

/-- Every context of the package stops; what R28 does not state, the CAUSE of its final records and the bytes of the report, is free: the CAUSE is one of the status codes of R14, for the module produces no other (R16). -/
def State.stopAll (s : State) : State :=
  let (cause, s) := s.draw
  let s : State := { s with power := { s.power with halted := true } }
  (List.range 64).foldl (fun s c => s.tearNow c (cause % 19)) s

/-- The report of R28 on the management port, and as FAULT_REPORT packets on the hairline ports of the hubs named (R28, R369). -/
def State.report (s : State) (mgmt : Bool) (hubs : List Nat) : State :=
  let (n, s) := s.draw
  let data := leBytes 8 n
  let s := s.norRecord data
  let s : State := if mgmt then { s with faults := s.faults ++ [data], ibi := s.ibi ++ [0x01#8] } else s
  ((List.range 30).filter (fun n => hubs.contains (portHub n) && (s.port n).carries)).foldl (fun s n =>
    let s := if (s.port n).st = .hairline then s else (s.setPort n (fun p => { p with hair := hairLane p, lowering := false })).portMove n .hairline
    s.sendOn n (s.packet (((s.port n).peer).getD 0) 6 0#16 (.faultReport data))) s

/-- The queues that lie in a failed hub's near memory get no final record, and that memory is lost (R28). R28 does not say which queues can
still be reached: the model takes a queue as lost when its record ring or its status line lies there, and every other one as reached
(log entry 48). -/
def State.loseHub (s : State) (hub : Nat) : State :=
  let gone := fun (v : BitVec 64) => s.hubOf (gSpace v) (gOff v) == some hub
  { s with
    ctxs := s.ctxs.map (fun x => { x with queues := x.queues.map (fun q =>
      if gone q.recRing || gone q.status then { q with valid := false } else q) })
    indet := s.indet ++ [(memKey 0 (s.firstOff hub 0), 0x3000000000)] }

/-- WHOLE_DIE_FAULT (R28). -/
def execWholeDieFault (f : WholeFault) (s : State) : Host.Outcome State Fault Refusal :=
  match f with
  | .hubDie hub =>
    onUnit (isHub hub) "hub" s ((s.loseHub hub).stopAll.report (hub != 8) [17 - hub])
  | .computeDie die => onUnit (decide (die < 8)) "die" s (s.stopAll.report true [8, 9])
  | .rowRoutes => done s (s.stopAll.report true [8, 9])

/-! ## Core supply and temperature (R30, R454 to R456) -/

/-- The supply of an operating point in mV (R29). -/
def pointSupply : Nat → Nat
  | 0 => 550
  | 1 => 700
  | _ => 800

/-- The hottest junction in °C, and its die, the lowest numbered among equals. -/
def State.hottest (s : State) : Nat := s.power.junction.foldl max 0
def State.hottestDie (s : State) : Nat := (s.power.junction.findIdx? (· == s.hottest)).getD 0

/-- A thermal flag set with its source (R453). -/
def State.thermalFlag (s : State) (bit : Nat) : State := (s.setBits (dieAt 8) .pwrThermal (2 ^ bit)).raise 8 srcThermal

/-- A step of the core supply, recorded and raised as source 10 (R30, R45, R453). -/
def State.supplyStep (s : State) (mv : Nat) : State :=
  let now := s.plumb.now
  let s : State := { s with power := { s.power with supply := mv, lastStep := now } }
  (s.event 8 kSupply noCtx 0xFFFF 0#8 (leBytes 2 mv ++ leBytes 1 s.hottest)).raise 8 srcGovernor

/-- GOVERNOR_SUPPLY: above 95 °C 10 mV down, never below 550 mV; at or below it 10 mV up to the selected point; at most one step in a
millisecond of 4,000,000 ticks (R30). -/
def execGovernorSupply (s : State) : Host.Outcome State Fault Refusal :=
  done s <|
    if (s.plumb.now - s.power.lastStep).toNat < 4000000 then s
    else if s.hottest > 95 then
      if s.power.supply ≥ 560 then (s.supplyStep (s.power.supply - 10)).thermalFlag 13 else s
    else if s.power.supply + 10 ≤ pointSupply s.sec.point then s.supplyStep (s.power.supply + 10)
    else s

/-- WARN_C in force: 60 to 95, else 90 (R453). -/
def State.warnC (s : State) : Nat :=
  let c := s.cfg (dieAt 8) .pwrCfg 32 8
  if 60 ≤ c ∧ c ≤ 95 then c else 90

/-- A die's hottest sensor reads a temperature. -/
def State.sensed (s : State) (die c : Nat) : State :=
  { s with power := { s.power with junction := modNth s.power.junction die (fun _ => c) } }

/-- THERMAL_WARN (R455). -/
def execThermalWarn (die c : Nat) (s : State) : Host.Outcome State Fault Refusal :=
  onUnit (decide (die < 10)) "die" s <|
    let s := s.sensed die c
    if c ≥ s.warnC then s.thermalFlag 12 else s

/-- THERMAL_TRIP: at 110 °C the package stops every context and reports (R456). -/
def execThermalTrip (die c : Nat) (s : State) : Host.Outcome State Fault Refusal :=
  onUnit (decide (die < 10)) "die" s <|
    let s := s.sensed die c
    if c ≥ 110 ∧ s.power.tripped.isNone then
      let now := s.plumb.now
      (({ s with power := { s.power with tripped := some now } } : State).stopAll).report true [8, 9]
    else s

/-- TRIP_RAILS_OFF: 1 ms after the trip every rail turns off, and the package stays off (R456). -/
def execTripRailsOff (s : State) : Host.Outcome State Fault Refusal :=
  always s <|
    match s.power.tripped with
    | none => s
    | some t =>
      if (s.plumb.now - t).toNat ≥ 4000000 then ({ s with power := { s.power with latched := true } } : State).dark else s

/-- Whether a coolant reading breaks a limit of R454: inlet from 15 to 40 °C, and the flow, in 0.01 L/min, that the point needs. -/
def State.coolantBad (s : State) (inlet flow : Nat) : Bool :=
  let need := (if s.sec.point = 2 then 340 else 250) * (if s.twin then 2 else 1)
  decide (inlet < 15) || decide (inlet > 40) || decide (flow < need)

/-- COOLANT_LOW: a reading, and the flag once a limit has been broken for more than 1 s (R454). -/
def execCoolantLow (inlet outlet flow ms : Nat) (s : State) : Host.Outcome State Fault Refusal :=
  done s <|
    let s : State := { s with power := { s.power with coolant := (inlet, outlet, flow) } }
    if s.coolantBad inlet flow ∧ ms > 1000 then s.thermalFlag 14 else s

/-- The alert pin is held low (R454). -/
def State.alertLow (s : State) : Bool :=
  decide (fld (s.reg (dieAt 8) .pwrThermal) 12 3 ≠ 0) || !s.faults.isEmpty || s.sec.mode == .recovery

end Sys2Proof.Machine
end

