-- ==== Sys2Proof/Machine/Security.lean ====
section
/-! DEFINITION. The security block: tokens (R414 to R416, R429), tenant memory keys (R425 to R428, R335), and the state in which a
start-up begins again (R417, R422). -/

namespace Sys2Proof.Machine

/-- The SHAKE256 of IDENTITY_PK (R409). -/
def State.identity (s : State) : Bytes := shake256 32 (sub s.fuses.identityPk 0 64)

/-- The owner slot in use: USED and not REVOKED (R415). -/
def State.ownerSlot (s : State) : Option Nat := s.fuses.slots.findIdx? (fun x => x.used && !x.revoked)

/-- The hash of the owner slot in use; zeros without one. -/
def State.ownerHash (s : State) : Bytes :=
  match s.ownerSlot with
  | none => List.replicate 32 0#8
  | some i => sub (((s.fuses.slots[i]?).map (·.hash)).getD []) 0 32

/-- A fresh challenge from the entropy source (R414). -/
def State.newChallenge (s : State) : State :=
  let (a, s) := s.draw
  let (b, s) := s.draw
  let (c, s) := s.draw
  let (d, s) := s.draw
  { s with sec := { s.sec with challenge := [a, b, c, d].map (BitVec.ofNat 64) } }

/-- The four words of SEC_CHALLENGE as the bytes of a token. -/
def State.challengeBytes (s : State) : Bytes := s.sec.challenge.flatMap (fun w => leBytes 8 w.toNat)

/-- Start-up begins again from power-good without a loss of power: every block is at its reset values, the fuses and the supply stay, and
the endpoint has been reset (R415, R416, R422, R365). -/
def State.reboot (s : State) : State :=
  let resets := min 0xFFFF (fld (s.reg (dieAt 8) .pciStatus) 16 16 + 1)
  ({ State.reset with
     fuses := s.fuses, fresh := s.fresh, i3cAddr := s.i3cAddr, mgmt := s.mgmt, doeReply := s.doeReply, ibi := s.ibi, faults := s.faults,
     vectors := s.vectors, sentOut := s.sentOut, counters := s.counters
     power := { Power.reset with enable := s.power.enable, switchOn := s.power.switchOn, overV := s.power.overV, inputMv := s.power.inputMv,
                                 junction := s.power.junction } } : State).setField (dieAt 8) .pciStatus 16 16 resets

/-! ## Results (R431) -/

def resOk : Nat := 0x0
def resFormat : Nat := 0x1
def resSignature : Nat := 0x2
def resChallenge : Nat := 0x3
def resDevice : Nat := 0x4
def resStaleKem : Nat := 0x5
def resWrap : Nat := 0x6
def resDebug : Nat := 0x7
def resPage : Nat := 0x8
def resNoSlot : Nat := 0xA

/-- The result of a submission in SEC_STATUS (R431). -/
def State.secResult (s : State) (n : Nat) : State :=
  { s with sec := { s.sec with result := n, refused := s.sec.refused || n != 0 } }

/-! ## Tokens (R414) -/

/-- Whether a token has the form of R414. -/
def tokenFormed (t : Bytes) : Bool :=
  t.length == 29936 && num t 0 4 == 0x4B544B48 && decide (num t 4 1 ≤ 2) && allZero (sub t 5 3)
    && (if num t 4 1 = 2 then decide (num t 72 8 < 8) else num t 72 8 == 0) && (num t 4 1 == 0 || allZero (sub t 80 64))

/-- The check of a token: DEVICE, CHALLENGE and the signature, under OWNER_PK for ENROL, else under the enrolled owner key (R414, R415). -/
def State.tokenResult (s : State) (t : Bytes) : Nat :=
  let pk := if num t 4 1 = 0 then sub t 80 64 else s.sec.ownerPk
  if !tokenFormed t then resFormat
  else if sub t 8 32 ≠ s.identity then resDevice
  else if sub t 40 32 ≠ s.challengeBytes then resChallenge
  else if !(Config.slhVerify pk (t.take 144) (sub t 144 29792) && (num t 4 1 == 0 || s.ownerSlot.isSome)) then resSignature
  else if num t 4 1 = 0 ∧ s.fuses.slots.all (·.used) then resNoSlot
  else resOk

/-- Every context torn down at once. -/
def State.tearAll (s : State) : State := (List.range 64).foldl (fun s c => s.tearNow c stTornDown) s

/-- The tenants' key slots erased (R416, R428). -/
def State.dropKeys (s : State) : State := { s with sec := { s.sec with keys := s.sec.keys.filter (fun k => k.1 == 0) } }

/-- ENROL: the owner key's hash is burned into the lowest free slot, and start-up begins again (R415). -/
def State.enrol (s : State) (t : Bytes) : State :=
  match s.fuses.slots.findIdx? (fun x => !x.used) with
  | none => s
  | some i =>
    let s : State := { s with fuses := { s.fuses with
      slots := modNth s.fuses.slots i (fun x => { x with hash := shake256 32 (sub t 80 64), used := true }) } }
    s.reboot

/-- OWNER_RELEASE (R416). -/
def State.ownerRelease (s : State) : State :=
  let s := s.tearAll.dropKeys
  match s.ownerSlot with
  | none => s
  | some i => ({ s with fuses := { s.fuses with slots := modNth s.fuses.slots i (fun x => { x with revoked := true }) } } : State).reboot

/-- DEBUG_UNLOCK: contexts torn down, tenant keys erased, every memory zeroed, then DEBUG and SCOPE (R429). -/
def State.debugUnlock (s : State) (scope : Nat) : State :=
  let s := s.tearAll.dropKeys
  { s with
    mem := [], poison := [], memTags := [], indet := [], zeroClear := [], scratch := [], scratchG := [], engines := []
    llms := s.llms.map (fun m => { m with lines := [] })
    keystones := s.keystones.map (fun k => { k with pages := k.pages.map (fun _ => ImemPage.clear) })
    sec := { s.sec with debug := true, scope := BitVec.ofNat 3 scope } }

/-- A token submitted: its result, a fresh challenge when it is accepted, and its effect (R414). -/
def State.submitToken (s : State) (t : Bytes) : State :=
  let r := s.tokenResult t
  let s := s.secResult r
  if r ≠ resOk then s else
  let s := s.newChallenge
  match num t 4 1 with
  | 0 => s.enrol t
  | 1 => s.ownerRelease
  | _ => s.debugUnlock (num t 72 8)

/-- A write of 1 to SEC_TOKEN_GO: the token at SEC_TOKEN_BASE, which must lie in partition 0 (R431). -/
def State.tokenGo (s : State) : State :=
  let off := fld (s.reg (dieAt 8) .secTokenBase) 16 32 * 2 ^ 16
  if (pageStarts off 29936).all (fun o => s.ownerPage 0 o) then s.submitToken (s.load 0 off 29936) else s.secResult resPage

/-- ENROL. -/
def execEnrol (token : Bytes) (s : State) : Host.Outcome State Fault Refusal :=
  done s (if num token 4 1 = 0 then s.submitToken token else s)

/-- OWNER_RELEASE. -/
def execOwnerRelease (token : Bytes) (s : State) : Host.Outcome State Fault Refusal :=
  done s (if num token 4 1 = 1 then s.submitToken token else s)

/-- DEBUG_UNLOCK. -/
def execDebugUnlock (token : Bytes) (s : State) : Host.Outcome State Fault Refusal :=
  done s (if num token 4 1 = 2 then s.submitToken token else s)

/-! ## Tenant memory keys (R426 to R428, R335) -/

/-- The far and CXL pages of a partition read as zeros from here on (R335). -/
def State.zeroOf (s : State) (p : Nat) : State :=
  s.zeroClear.foldl (fun s page =>
    let space := page / 2 ^ 27
    let off := page % 2 ^ 27 * 2 ^ 21
    match s.hubOf space off with
    | some hub => if s.entry space off % 16 = p then s.zeroPage hub space (page % 2 ^ 27) else s
    | none => s) s

/-- A key in a partition's slot on both hubs; a different key clears its pages (R335, R428). -/
def State.loadKey (s : State) (p : Nat) (key : Bytes) : State :=
  if kvGet s.sec.keys p = some key then s
  else { s.zeroOf p with sec := { s.sec with keys := kvSet s.sec.keys p key } }

/-- "LVA-KEY" and "LVA-SEAL" in ASCII. -/
def keyTag : Bytes := [0x4C#8, 0x56#8, 0x41#8, 0x2D#8, 0x4B#8, 0x45#8, 0x59#8]
def sealTag : Bytes := [0x4C#8, 0x56#8, 0x41#8, 0x2D#8, 0x53#8, 0x45#8, 0x41#8, 0x4C#8]

/-- The seal key (R427). -/
def State.sealKey (s : State) : Bytes := shake256 32 (sub s.fuses.secret 0 32 ++ s.ownerHash ++ sealTag)

/-- The sealed blob of a partition's key (R427). -/
def State.sealBlob (s : State) (p : Nat) (key : Bytes) : Bytes × State :=
  let (n, s) := s.draw
  let head := leBytes 4 0x42534B48 ++ leBytes 1 p ++ leBytes 3 0 ++ leBytes 12 n
  let (c, t) := Config.gcmSeal s.sealKey (leBytes 12 n) head key
  (head ++ sub c 0 64 ++ sub t 0 16 ++ List.replicate 28 0#8, s)

/-- The package's encapsulation key and its hash (R425); zeros before there is one. -/
def State.kemKey (s : State) : Bytes :=
  match s.sec.kem with
  | none => List.replicate 1568 0#8
  | some n => sub (Config.kemKey n) 0 1568
def State.kemHash (s : State) : Bytes := if s.sec.kem.isSome then shake256 32 s.kemKey else List.replicate 32 0#8

/-- Whether a key-load record has the form of R426. -/
def keyFormed (r : Bytes) : Bool :=
  num r 0 4 == 0x4C4B4B48 && decide (num r 4 1 ≤ 1) && decide (1 ≤ num r 5 1) && decide (num r 5 1 ≤ 15) && num r 6 2 == 0
    && (num r 4 1 == 0 || allZero (sub r 8 32)) && allZero (sub r 1688 360)

/-- OP 0: decapsulate, unwrap, load, and write the sealed blob to the record (R426, R427). -/
def State.keyFresh (s : State) (off : Nat) (r : Bytes) : State :=
  match s.sec.kem with
  | none => s.secResult resStaleKem
  | some n =>
    if sub r 8 32 ≠ s.kemHash then s.secResult resStaleKem else
    let ss := Config.kemDecaps n (sub r 40 1568)
    match Config.gcmOpen (shake256 32 (ss ++ keyTag ++ leBytes 1 (num r 5 1))) (List.replicate 12 0#8) (sub r 0 40) (sub r 1608 64)
        (sub r 1672 16) with
    | none => s.secResult resWrap
    | some key =>
      let (blob, s) := (s.loadKey (num r 5 1) (sub key 0 64)).sealBlob (num r 5 1) (sub key 0 64)
      (s.store 0 0 0 (off + 2048) blob (s.dieNow 8)).secResult resOk

/-- OP 1: a blob unsealed into its own partition (R427). -/
def State.keySealed (s : State) (r : Bytes) : State :=
  let b := sub r 40 128
  let p := num b 4 1
  match Config.gcmOpen s.sealKey (sub b 8 12) (sub b 0 20) (sub b 20 64) (sub b 84 16) with
  | none => s.secResult resWrap
  | some key =>
    if num b 0 4 ≠ 0x42534B48 ∨ p = 0 ∨ p > 15 ∨ !allZero (sub b 5 3) ∨ !allZero (sub b 100 28) then s.secResult resWrap
    else (s.loadKey p (sub key 0 64)).secResult resOk

/-- Where the key-load record lies, and its bytes. -/
def State.keyOff (s : State) : Nat := fld (s.reg (dieAt 8) .secKeyBase) 12 36 * 2 ^ 12
def State.keyRecord (s : State) : Bytes := s.load 0 s.keyOff 2176

/-- A write of 1 to SEC_KEY_GO (R426 to R429). -/
def State.keyGo (s : State) : State :=
  let r := s.keyRecord
  if !s.ownerPage 0 s.keyOff then s.secResult resPage
  else if s.sec.debug then s.secResult resDebug
  else if !keyFormed r then s.secResult resFormat
  else if num r 4 1 = 0 then s.keyFresh s.keyOff r
  else s.keySealed r

/-- KEY_LOAD_FRESH: the record asks for OP 0. -/
def execKeyLoadFresh (s : State) : Host.Outcome State Fault Refusal := done s (if num s.keyRecord 4 1 = 0 then s.keyGo else s)

/-- KEY_LOAD_SEALED: the record asks for OP 1. -/
def execKeyLoadSealed (s : State) : Host.Outcome State Fault Refusal := done s (if num s.keyRecord 4 1 = 1 then s.keyGo else s)

/-- A write to SEC_KEY_ERASE: with GO the named partitions' slots are cleared; bit 0 is ignored (R428, R431). -/
def State.keyErase (s : State) (v : BitVec 64) : State :=
  if fld v 16 1 = 0 then s else
  ((range' 1 15).foldl (fun (s : State) p =>
    if v.getLsbD p && s.keyed p then { s.zeroOf p with sec := { s.sec with keys := kvDel s.sec.keys p } } else s) s).secResult resOk

/-- SEC_KEY_ERASE. -/
def execSecKeyErase (v : BitVec 64) (s : State) : Host.Outcome State Fault Refusal := done s (s.keyErase v)

end Sys2Proof.Machine
end

