-- ==== Sys2Proof/Machine/Registers.lean ====
section
/-! DEFINITION. Register accesses (R9 to R12, R364, R400): what a read returns, what a write does by the register's access code, and the
accesses that are not performed. -/

namespace Sys2Proof.Machine

/-! ## The fields that hardware supplies -/

/-- The codes of capture and reduction states (R53, R247). -/
def CapSt.code : CapSt → Nat
  | .idle => 0
  | .armed => 1
  | .latched => 2
  | .dumping => 3
  | .done => 4
def RedSt.code : RedSt → Nat
  | .idle => 0
  | .clearing => 1
  | .opened => 2
  | .closed => 3
  | .fenced => 4
def LoadSt.code : LoadSt → Nat
  | .idle => 0
  | .waiting => 1
  | .loading => 2
  | .done => 3
def PwrSt.code : PwrSt → Nat
  | .s0 => 0
  | .s1 => 1
  | .s2 => 2
def SecMode.code : SecMode → Nat
  | .starting => 0
  | .running => 1
  | .recovery => 2
  | .enrolling => 3

/-- ID_GRADE and ID_CLUSTER_FUSE as hub dies read them; a compute die reads its own byte of the cluster map (R2). -/
def State.idGrade (s : State) : Nat := s.fuses.grade.toNat + s.fuses.carrier.toNat * 2 ^ 8 + s.fuses.stepping.toNat * 2 ^ 16
def State.idFuse (s : State) (die : Nat) : Nat :=
  let b := fun (i : Nat) => ((s.fuses.clusters[i]?).getD 0#8).toNat
  if die < 8 then b die else (List.range 8).foldl (fun n i => n + b i * 2 ^ (8 * i)) 0

/-- Plumb state, captures and rings: the bits of a register that hardware supplies, and their value (R39, R47, R53). -/
def State.hwTime (s : State) (die : Nat) : Reg → Option (Nat × Nat)
  | .idGrade => some (2 ^ 64 - 1, s.idGrade)
  | .idClusterFuse => some (2 ^ 64 - 1, s.idFuse die)
  | .plbNow => some (2 ^ 64 - 1, (s.dieNow die).toNat)
  | .plbState => some (2 ^ 64 - 1, s.plumb.st.code + (b2n s.plbRoot) * 8 + (if s.plbRoot then 0 else unsext 32 s.plumb.offset) * 2 ^ 16)
  | .ducHead n => some (2 ^ 64 - 1, (s.ring n).seq.toNat)
  | .ducLost n => some (2 ^ 64 - 1, (s.ring n).lost)
  | .cntCaptureId => some (2 ^ 64 - 1, s.capture.id.toNat)
  | .cntCaptureStatus => some (0xFFFF000F, s.capture.st.code + (b2n s.capture.lateAny) * 8 + (s.capture.lateNo % 2 ^ 16) * 2 ^ 16)
  | _ => none

/-- Clusters: keystone, walker and scheduling (R130, R190, R389). -/
def State.hwClu (s : State) (k : Nat) : Reg → Option (Nat × Nat)
  | .keyStatus =>
    let x := s.keystone k
    let st := match s.runsOn k with
      | r :: _ => (if r.fill then 2 else 1, r.ctx)
      | [] => (if x.hold then 4 else if x.gated then 3 else 0, 0)
    let busy := (List.range 8).foldl (fun n p => n + (if s.pageRefs k p > 0 then 2 ^ p else 0)) 0
    some (2 ^ 64 - 1, st.1 + st.2 * 2 ^ 8 + busy * 2 ^ 16)
  | .keyCoreState =>
    let mask := fun (l : List Nat) => (List.range 16).foldl (fun n i => n + (if l.contains i then 2 ^ i else 0)) 0
    some (0xFFFFFFFF0000, mask (s.keystone k).retired * 2 ^ 16 + mask (s.keystone k).struck * 2 ^ 32)
  | .keyLoadStatus => some (3, (s.keystone k).load.code)
  | .keyImemPage p =>
    let y := (((s.keystone k).pages)[p]?).getD ImemPage.clear
    some (2 ^ 64 - 1, s.pageRefs k p % 2 ^ 16 + y.owner * 2 ^ 16 + (b2n y.loaded) * 2 ^ 22 + (b2n y.waiting) * 2 ^ 23 + y.tag.toNat * 2 ^ 24)
  | .wlkStatus =>
    match (s.runsOn k).find? (fun r => r.gen.isSome) with
    | some r => some (2 ^ 64 - 1, 1 + r.ctx * 2 ^ 8 + (r.gen.getD 0#16).toNat * 2 ^ 16)
    | none => some (2 ^ 64 - 1, (s.keystone k).walkGen.toNat * 2 ^ 16)
  | .keySchedStatus =>
    some (2 ^ 64 - 1, b2n (s.keystone k).reserved.isSome + 2 * b2n ((s.runsOn k).any (·.fill)))
  | _ => none

/-- Mortar units, leases and media (R244, R257, R275, R306). -/
def State.hwMor (s : State) (hub : Nat) : Reg → Option (Nat × Nat)
  | .morShardVersion n =>
    some (2 ^ 64 - 1, ((s.shards.find? (fun e => e.hub == hub && e.s == n)).map (fun e => e.version.toNat)).getD 0)
  | .morShardStep n =>
    some (2 ^ 48 - 1, ((s.shards.find? (fun e => e.hub == hub && e.s == n)).map (fun e => e.written % 2 ^ 48)).getD 0)
  | .morShardHold n =>
    let intent := match s.shards.find? (fun e => e.hub == hub && e.s == n) with
      | some e => match e.intent with
        | some (_, _, step) => 2 ^ 15 + (step % 2 ^ 48) * 2 ^ 16
        | none => 0
      | none => 0
    some (2 ^ 64 - 1, (s.readers.filter (fun x => x.hub == hub && x.s == n)).length % 2 ^ 15 + intent)
  | .morLeaseStatus => some (0x7FFF, (s.readers.filter (fun x => x.hub == hub)).length % 2 ^ 15)
  | .morRedState r =>
    let x := s.redAt hub r
    some (2 ^ 64 - 1, x.st.code + x.complete.length % 2 ^ 14 * 2 ^ 16 + x.window.toNat * 2 ^ 32)
  | .morRcptStatus => some (0x3FFFF, (s.receipts.filter (fun e => e.hub == hub)).length % 2 ^ 18)
  | .morRcptData k => some (2 ^ 64 - 1, ((s.rcptSel[4 * (hub - 8) + k]?).getD 0#64).toNat)
  | .medStatus =>
    let open' := (s.streams.filter (fun x => x.hub == hub)).length
    let busy := (List.range 10).foldl (fun n e => n + (if (s.medWork hub e).isSome then 2 ^ e else 0)) 0
    some (2 ^ 64 - 1, open' % 2 ^ 9 + busy * 2 ^ 32)
  | .medEngine e =>
    match s.medWork hub e with
    | some (ctx, n) => some (2 ^ 64 - 1, 1 + ctx * 2 ^ 8 + n % 2 ^ 9 * 2 ^ 16)
    | none => some (2 ^ 64 - 1, 0)
  | _ => none

/-- Memory and links (R338 to R340, R359, R367). -/
def State.hwMem (s : State) (hub : Nat) : Reg → Option (Nat × Nat)
  | .fmcLayout => some (2 ^ 64 - 1, s.farChans.length / 2 + s.farBytes / 2 ^ 31 * 2 ^ 8)
  | .llmStatus => some (3, b2n (s.llm hub).cache + 2 * b2n (s.llm hub).switching.isSome)
  | .lnkLaneMap n =>
    let p := s.port n
    some (2 ^ 64 - 1, p.active.toNat + p.dropped.toNat * 2 ^ 8 + p.hair * 2 ^ 16 + (b2n p.reversed) * 2 ^ 19 + p.inverted.toNat * 2 ^ 20)
  | .lnkStatus n => some (0x1FFF7, (s.port n).st.code + (((s.port n).peer).getD 0) * 2 ^ 4)
  | .lnkFlows => some (0xFFFF, (s.flows.filter (fun f => f.hub == hub && f.number != 4095)).length % 2 ^ 16)
  | .pciStatus => some (0x800, (b2n s.sec.hostOwner) * 2 ^ 11)
  | .evtActive w =>
    some (2 ^ 64 - 1, (List.range 64).foldl (fun n b => n + (if s.evtIsActive hub (64 * w + b) then 2 ^ b else 0)) 0)
  | _ => none

/-- Security and power (R431, R453). -/
def State.hwSec (s : State) (die : Nat) : Reg → Option (Nat × Nat)
  | .secState =>
    some (2 ^ 64 - 1, s.sec.mode.code + (b2n s.sec.debug) * 8 + s.sec.slot * 2 ^ 4 + s.sec.reason * 2 ^ 8 + s.sec.fwSvn % 256 * 2 ^ 16
      + s.sec.cfgSvn % 256 * 2 ^ 24 + s.fuses.fwMin * 2 ^ 32 + s.fuses.cfgMin * 2 ^ 40 + s.sec.scope.toNat * 2 ^ 48)
  | .secChallenge k => some (2 ^ 64 - 1, ((s.sec.challenge[k]?).getD 0#64).toNat)
  | .secStatus =>
    let loaded := (List.range 16).foldl (fun n p => n + (if p = 0 ∨ s.keyed p then 2 ^ p else 0)) 0
    some (2 ^ 64 - 1, s.sec.result * 2 ^ 4 + loaded * 2 ^ 16 + (b2n s.sec.refused) * 2 ^ 32)
  | .pwrDieStatus =>
    let gated := if die < 8 then (List.range 8).foldl (fun n c => n + (if (s.keystone (8 * die + c)).gated then 2 ^ c else 0)) 0 else 0
    some (2 ^ 64 - 1, (s.power.junction[die]?).getD 0 % 256 + s.power.supply % 4096 * 2 ^ 8 + gated * 2 ^ 20
      + (b2n (s.power.waiting.any (fun u => u / 256 == die))) * 2 ^ 28)
  | .pwrState => some (0x70, s.power.st.code * 2 ^ 4 + (b2n s.power.moving.isSome) * 2 ^ 6)
  | .pwrInput =>
    some (2 ^ 64 - 1, s.power.inputMv % 2 ^ 16 + Config.freeNat s.fresh % 2 ^ 32 * 2 ^ 16)
  | .pwrCoolant =>
    some (2 ^ 64 - 1, s.power.coolant.1 % 2 ^ 8 + s.power.coolant.2.1 % 2 ^ 8 * 2 ^ 8 + s.power.coolant.2.2 % 2 ^ 12 * 2 ^ 16)
  | .pwrThermal => some (0xFFF, s.hottest % 2 ^ 8 + s.hottestDie * 2 ^ 8)
  | _ => none

/-- The bits of a register that hardware supplies, and their value. -/
def State.hwPart (s : State) (die k : Nat) (r : Reg) : Nat × Nat :=
  ((((s.hwTime die r).orElse (fun _ => s.hwClu k r)).orElse (fun _ => s.hwMor die r)).orElse (fun _ => s.hwMem die r)).orElse
    (fun _ => s.hwSec die r) |>.getD (0, 0)

/-- Whether a register is write-only as a whole, so that it reads 0 (R11). -/
def Reg.writeOnly : Reg → Bool
  | .plbApply | .ducApply | .cntCaptureCancel | .cntApply | .keyInject | .keyApply | .wlkApply | .clmApply | .morLeaseDrop
  | .morShardApply | .morRcptSel | .morApply | .medApply | .llmFlush | .prtGrantGo | .memApply | .lnkApply | .keySchedApply
  | .evtComplete _ | .evtRaise | .secTokenGo | .secKeyGo | .secKeyErase | .pwrApply | .mirResync | .mirApply => true
  | _ => false

/-- Where a block's registers begin: a cluster's, or a die's. -/
def blockBase (die blk : Nat) : Nat := if die < 8 ∧ 8 ≤ blk ∧ blk < 16 then cluAt (8 * die + (blk - 8)) else dieAt die

/-- What a read of a register returns (R11): a grouped one its shadow copy (R400), and EVT_CLAIM its claim (R403). -/
def State.readReg (s : State) (die blk : Nat) (r : Reg) : BitVec 64 × State :=
  match r with
  | .evtClaim k =>
    let (n, s) := s.claimAt die k
    (BitVec.ofNat 64 n, s)
  | _ =>
    if r.writeOnly then (0#64, s) else
    let hw := s.hwPart die (8 * die + (blk - 8)) r
    let v := (s.reg (blockBase die blk) r &&& ~~~(BitVec.ofNat 64 hw.1)) ||| BitVec.ofNat 64 hw.2
    (v, if r = .pwrInput then { s with fresh := s.fresh + 1 } else s)

/-! ## What a write does -/

/-- The sources among 64 of a pending word: 0 and reserved numbers never become pending (R401). -/
def sourceMask (w : Nat) : Nat := (List.range 64).foldl (fun n b => n + (if isSource (64 * w + b) then 2 ^ b else 0)) 0

/-- The stored value after a write: RW bits set, W1C bits cleared by 1 (R11). -/
def Reg.written (r : Reg) (old v : BitVec 64) : BitVec 64 :=
  let rw := BitVec.ofNat 64 r.rw
  let w1c := BitVec.ofNat 64 r.w1c &&& v
  (v &&& rw) ||| (old &&& ~~~rw &&& ~~~w1c)

/-- The plain part of a write. -/
def State.putReg (s : State) (base : Nat) (r : Reg) (v : BitVec 64) : State := s.setReg base r (r.written (s.reg base r) v)

/-- A write to PWR_STATE: REFUSED is cleared by 1, and REQUEST selects a state (R449, R450, R453). -/
def State.writePwrState (s : State) (v : BitVec 64) : State :=
  let s := if v.getLsbD 7 then s.setField (dieAt 8) .pwrState 7 1 0 else s
  match fld v 0 2 with
  | 0 => s.requestRun 0
  | 2 => s.requestS2
  | n => s.requestRun n

/-- What a write to a register does (R11, R12, R400): an APPLY, GO or command bit acts as its register says, every other register by its
access codes. `k` is the physical cluster of a cluster's register. -/
def State.writeReg (s : State) (die blk : Nat) (r : Reg) (v : BitVec 64) : State :=
  let k := 8 * die + (blk - 8)
  let base := blockBase die blk
  let one := v.getLsbD 0
  match r with
  | .plbApply => if one then s.plbApplyAt die else s
  | .ducApply => s.ducApplyAt die v
  | .cntCaptureAt => s.captureAt v
  | .cntCaptureCancel => s.captureCancel v
  | .cntApply => s.cntApplyAt die v
  | .keyApply => if one then keyApplyAt k s else s
  | .keyInject => keyInjectAt k v s
  | .wlkApply => if one then wlkApplyAt k s else s
  | .clmApply => if one then clmApplyAt k s else s
  | .keySchedApply => if !one then s else if v.getLsbD 1 then keySchedPreemptAt k s else keySchedApplyAt k s
  | .morApply => if one then morApplyAt die s else s
  | .morShardApply => if one then morShardApplyAt die s else s
  | .morLeaseDrop => morLeaseDropAt die v s
  | .morRcptSel => morRcptSelAt die v s
  | .medApply => if one then medApplyAt die s else s
  | .llmCtl => s.llmMode die one
  | .llmFlush => s.llmFlushWrite die v
  | .prtGrantGo => s.grantGo die v
  | .memApply => if one then s.memApply die else s
  | .lnkApply => if one then s.lnkApplyAt die else s
  | .lnkFlows =>
    let s := s.putReg base r v
    if v.getLsbD 17 then s.flowsReset die else s
  | .evtPending w => s.setReg base r (v &&& BitVec.ofNat 64 (sourceMask w))
  | .evtComplete c => s.completeAt die c (fld v 0 10)
  | .evtRaise => s.raiseAt die (fld v 0 10)
  | .secTokenGo => if one then s.tokenGo else s
  | .secKeyGo => if one then s.keyGo else s
  | .secKeyErase => s.keyErase v
  | .secStatus => if v.getLsbD 32 then { s with sec := { s.sec with refused := false } } else s
  | .pwrApply => if one then s.pwrApplyAt else s
  | .pwrState => s.writePwrState v
  | .mirResync => s.mirResyncAt die v
  | .mirApply => if one then s.mirApplyAt die else s
  | r => s.putReg base r v

/-! ## Accesses (R9, R10, R364) -/

/-- The code of a master (R463), and the hub die through which its accesses enter (R10). R463 names no code for the configuration image; the
model takes that of control core 0 of hub die 8, and that hub (log entry 89). -/
def masterCode : Master → Nat
  | .host => 0x0000
  | .mgmt => 0x0001
  | .core hub k => 0x0100 + 4 * (hub - 8) + k
  | .image => 0x0100
def masterHub : Master → Nat
  | .core hub _ => hub
  | _ => 8

/-- Whether an address lies in this package's register space (R9, R10). -/
def State.ownRegister (s : State) (a : BitVec 64) : Bool := gPkg a == s.sec.pkg && gSpace a == 4 && fld a 32 16 == 0

/-- The die, block and offset of a register address (R9). -/
def regDie (a : BitVec 64) : Nat := fld a 28 4
def regBlk (a : BitVec 64) : Nat := fld a 20 8
def regOff (a : BitVec 64) : Nat := fld a 0 20

/-- REG_ACCESS_FAULT, in the ring of the die that the address names in this package, else of the hub through which it entered (R10, R45). -/
def State.regFault (s : State) (m : Master) (a : BitVec 64) (wr : Bool) (size : Nat) : State :=
  let die := if s.ownRegister a && decide (regDie a < 10) then regDie a else masterHub m
  s.event die kRegFault noCtx (masterCode m) 0#8 (leBytes 8 a.toNat ++ leBytes 1 (b2n wr) ++ leBytes 1 size)

/-- Whether a host without the owner's rights may make an access: reads of block 0x00 of every die and of block 0x12 of hub die 8 (R364). -/
def State.hostMay (s : State) (a : BitVec 64) (wr : Bool) : Bool :=
  s.sec.hostOwner || (!wr && (regBlk a == 0x00 || (regBlk a == 0x12 && regDie a == 8)))

/-- Why an access is not performed: by its form or the host's rights, which a read sees as all ones, or because the block is unassigned or
the address lies outside the package, which it sees as 0 (R10, R364). -/
def State.regBar (s : State) (m : Master) (a : BitVec 64) (wr : Bool) (size : Nat) : Option (BitVec 64) :=
  if size ≠ 8 ∨ a.toNat % 8 ≠ 0 then some (BitVec.allOnes 64)
  else if m = .host ∧ !s.hostMay a wr then some (BitVec.allOnes 64)
  else if !s.ownRegister a ∨ !s.assigned (regDie a) (regBlk a) then some 0#64
  else none

/-- The endpoint's MSI-X table of 65 vectors, 16 bytes each, and its pending-bit array lie under die value 0xF of the host's aperture (R364).
An entry is 8 or 4 bytes of the table; the pending bits read 0, for every vector is sent at once. -/
def State.msixAccess (s : State) (m : Master) (a : BitVec 64) (size : Nat) : Bool :=
  m == .host && s.ownRegister a && regDie a == 15 && (size == 8 || size == 4) && a.toNat % size == 0
    && (decide (fld a 0 28 < 0x410) || (decide (0x1000 ≤ fld a 0 28) && decide (fld a 0 28 < 0x1010)))

def State.msixRead (s : State) (off size : Nat) : BitVec 64 :=
  let v := (kvGet s.msix (off / 8)).getD 0#64
  if size = 8 then v else BitVec.ofNat 64 (fld v (off % 8 * 8) 32)

def State.msixWrite (s : State) (off size : Nat) (v : BitVec 64) : State :=
  if off ≥ 0x410 then s else
  let old := (kvGet s.msix (off / 8)).getD 0#64
  { s with msix := kvSet s.msix (off / 8) (if size = 8 then v else setFld old (off % 8 * 8) 32 v.toNat) }

/-- A register read (R10, R11). -/
def State.regRead (s : State) (m : Master) (a : BitVec 64) (size : Nat) : BitVec 64 × State :=
  if s.msixAccess m a size then (s.msixRead (fld a 0 28) size, s) else
  match s.regBar m a false size with
  | some v => (v, s.regFault m a false size)
  | none =>
    match s.locate (regDie a) (regBlk a) (regOff a) with
    | none => (0#64, s)
    | some r => s.readReg (regDie a) (regBlk a) r

/-- A register write (R10, R11). -/
def State.regWrite (s : State) (m : Master) (a : BitVec 64) (size : Nat) (v : BitVec 64) : State :=
  if s.msixAccess m a size then s.msixWrite (fld a 0 28) size v else
  match s.regBar m a true size with
  | some _ => s.regFault m a true size
  | none =>
    match s.locate (regDie a) (regBlk a) (regOff a) with
    | none => s
    | some r => s.writeReg (regDie a) (regBlk a) r v

/-! ## Accesses in S2 (R451) -/

/-- Whether an access needs a unit that S2 powers off: the compute dies, near and far memory controllers, and the last-level memory with the
partition registers (R449 to R451). -/
def needsPower (a : BitVec 64) : Bool :=
  decide (regDie a < 8) || regBlk a == 0x10 || regBlk a == 0x11 || regBlk a == 0x13

/-- An access held until the exit from S2, waking the package through its source (R451, R452). -/
def State.holdAccess (s : State) (c : Instr) (src : Option Nat) : State :=
  let s : State := { s with held := s.held ++ [c] }
  match src with
  | some n => s.wake n
  | none => s

/-- The wake source of a master's access: 1 for the management port, 2 for the host (R452). -/
def masterWake : Master → Option Nat
  | .host => some 2
  | .mgmt => some 1
  | _ => none

/-- A register write as its command performs it: held in S2 when it needs a unit that is off. -/
def State.registerWrite (s : State) (m : Master) (a : BitVec 64) (size : Nat) (v : BitVec 64) : State :=
  if s.power.st = .s2 ∧ s.ownRegister a ∧ needsPower a then s.holdAccess (.registerWrite m a size v) (masterWake m)
  else s.regWrite m a size v

/-- REGISTER_WRITE. -/
def execRegisterWrite (m : Master) (addr : BitVec 64) (size : Nat) (v : BitVec 64) (s : State) : Host.Outcome State Fault Refusal :=
  onUnit (masterOk m) "control core" s (s.registerWrite m addr size v)

end Sys2Proof.Machine
end

