-- ==== Sys2Proof/Machine/Host.lean ====
section
/-! DEFINITION. The host endpoint (R361 to R366) and boundary scan (R371, R430). -/

namespace Sys2Proof.Machine

/-- A PCI fault bit with its source (R367, R401). -/
def State.pciFault (s : State) (bit : Nat) : State := (s.setBits (dieAt 8) .pciFaults (2 ^ bit)).raise 8 srcPcie

/-- The space behind a memory window and the window's size: window 0 is A, 1 is B (R361, R362). -/
def windowSpace (w : Nat) : Nat := if w = 0 then 0 else 1
def windowBytes (w : Nat) : Nat := if w = 0 then 2 ^ 39 else 2 ^ 42

/-- Whether a host access to memory is allowed: R327 with HOST_R or HOST_W, and no fence on the pages' partitions (R362, R397). Before the
control cores watch queues every access is refused (R417). -/
def State.hostAllowed (s : State) (wr : Bool) (space off len : Nat) : Bool :=
  s.sec.watching && s.allowed true 0 wr space off len && (pageStarts off len).all (fun o =>
    !(s.reg (dieAt (s.hubFor space o)) .prtFence).getLsbD (s.entry space o % 16))

/-- A refused host access: DENIED, and, once the windows are open, the violation of R327. -/
def State.hostDenied (s : State) (wr : Bool) (space off len : Nat) : State :=
  let s := s.pciFault 2
  if !s.sec.watching then s else
  let bad := ((pageStarts off len).find? (fun o => !s.hostAllowed wr space o 1)).getD off
  s.violate 0x0000 noCtx (some (s.entry space bad % 16)) space bad

/-- Bytes of ones, as a refused read returns them (R327). -/
def onesBytes (n : Nat) : Bytes := List.replicate n 0xFF#8

/-- A host read through a memory window (R318, R362). -/
def State.hostRead (s : State) (space off len : Nat) : State :=
  if !s.hostAllowed false space off len then { s.hostDenied false space off len with hostData := some (onesBytes len) }
  else if s.poisoned space off len then { s.pciFault 1 with hostData := none }
  else { s with hostData := some (s.load space off len) }

/-- A host write through a memory window, line by line in ascending order under the partitions of its pages (R362, R363). -/
def State.hostWrite (s : State) (space off : Nat) (data : Bytes) : State :=
  if !s.hostAllowed true space off data.length then s.hostDenied true space off data.length
  else (lineParts (data.length + 1) off data).foldl (fun s (o, b) =>
    s.store (s.entry space o % 16) 0 space o b (s.dieNow (s.hubFor space o))) s

/-- The address behind byte `off` of the register aperture (R364). -/
def State.aperture (s : State) (off : Nat) : BitVec 64 := gAddr s.sec.pkg 4 off

/-- HOST_WINDOW_READ: window 0 is A, 1 is B, 2 the register aperture; a request outside every window is refused (R362, R364, R367). An access
that needs a unit that is off in S2 is held (R451). -/
def State.windowRead (s : State) (w off len : Nat) : State :=
  if w < 2 ∧ off + len ≤ windowBytes w then
    if s.power.st = .s2 then s.holdAccess (.hostWindowRead w off len) (some 2) else s.hostRead (windowSpace w) off len
  else if w = 2 ∧ off + len ≤ 2 ^ 32 then
    if s.power.st = .s2 ∧ needsPower (s.aperture off) then s.holdAccess (.hostWindowRead w off len) (some 2)
    else
      -- a read wider than 8 bytes is not performed: its first 8 bytes read as ones, as R10 has it; those beyond read 0 (log entry 89)
      let (v, s) := s.regRead .host (s.aperture off) len
      { s with hostData := some (leBytes len v.toNat) }
  else { s.pciFault 0 with hostData := some [] }

/-- HOST_WINDOW_READ. -/
def execHostWindowRead (w off len : Nat) (s : State) : Host.Outcome State Fault Refusal := done s (s.windowRead w off len)

/-- A write through window A or B, or to the register aperture (R363, R364). -/
def State.windowWrite (s : State) (w off : Nat) (data : Bytes) : State :=
  if w < 2 ∧ off + data.length ≤ windowBytes w then
    if s.power.st = .s2 then s.holdAccess (.hostWindowWrite w off data) (some 2) else s.hostWrite (windowSpace w) off data
  else if w = 2 ∧ off + data.length ≤ 2 ^ 32 then
    s.registerWrite .host (s.aperture off) data.length (BitVec.ofNat 64 (leNat data))
  else s.pciFault 0

/-- HOST_WINDOW_WRITE. -/
def execHostWindowWrite (w off : Nat) (data : Bytes) (s : State) : Host.Outcome State Fault Refusal := done s (s.windowWrite w off data)

/-- ENDPOINT_RESET: the endpoint's own state alone, RESETS and source 3 (R365, R401). -/
def execEndpointReset (s : State) : Host.Outcome State Fault Refusal :=
  done s <|
    let n := min 0xFFFF (fld (s.reg (dieAt 8) .pciStatus) 16 16 + 1)
    let s := (s.setField (dieAt 8) .pciStatus 16 16 n).raise 8 3
    { s with msix := [] }

/-! ## Boundary scan (R371, R430) -/

/-- Whether the restricted instructions take effect: before the control cores first watch queues, or in recovery (R371). -/
def State.scanOpen (s : State) : Bool := !s.sec.watching || s.sec.mode == .recovery

/-- A scan instruction in force; a restricted one acts as BYPASS outside its time. -/
def State.scanAs (s : State) (restricted : Bool) (i : Scan) : State := { s with scan := if restricted && !s.scanOpen then .bypass else i }

/-- The part fields of the chain: hub die 8, compute dies 0 to 7, hub die 9 (R371). -/
def scanParts : List Nat := 0x8209 :: List.replicate 8 0x8200 ++ [0x8209]

/-- BYPASS. -/
def execBypass (s : State) : Host.Outcome State Fault Refusal := done s (s.scanAs false .bypass)

/-- IDCODE: every die of the chain answers its part field. -/
def execIdcode (s : State) : Host.Outcome State Fault Refusal := done s { s.scanAs false .idcode with scanPart := scanParts }

/-- SAMPLE/PRELOAD. -/
def execSamplePreload (s : State) : Host.Outcome State Fault Refusal := done s (s.scanAs false .samplePreload)

/-- EXTEST. -/
def execExtest (s : State) : Host.Outcome State Fault Refusal := done s (s.scanAs true .extest)

/-- EXTEST_PULSE. -/
def execExtestPulse (s : State) : Host.Outcome State Fault Refusal := done s (s.scanAs true .extestPulse)

/-- EXTEST_TRAIN. -/
def execExtestTrain (s : State) : Host.Outcome State Fault Refusal := done s (s.scanAs true .extestTrain)

/-- CLAMP. -/
def execClamp (s : State) : Host.Outcome State Fault Refusal := done s (s.scanAs true .clamp)

/-- HIGHZ. -/
def execHighz (s : State) : Host.Outcome State Fault Refusal := done s (s.scanAs true .highz)

/-- A private instruction acts as BYPASS until debug is unlocked with SCOPE bit 0; what it does then the manual does not say (R371,
R430). -/
def execPrivateScanInstruction (code : Nat) (s : State) : Host.Outcome State Fault Refusal :=
  if s.power.rails && s.sec.debug && s.sec.scope.getLsbD 0 then .refused (.privateScan code) else done s (s.scanAs false .bypass)

end Sys2Proof.Machine
end

