-- ==== Sys2Proof/Machine/Startup.lean ====
section
/-! DEFINITION. Start-up (R336, R410 to R420): images and their sections, the sequence of POWER_GOOD and SELF_TEST_DONE, recovery with its
objects (R421, R422), and colophons (R423, R424). -/

namespace Sys2Proof.Machine

/-! ## Images (R410, R411) -/

/-- The fields of an image header (R410). -/
def imgSvn (b : Bytes) : Nat := num b 8 4
def imgBody (b : Bytes) : Nat := num b 12 4
def imgFlags (b : Bytes) : Nat := num b 18 1
def imgPoint (b : Bytes) : Nat := num b 19 1
def imgSections (b : Bytes) : Nat := num b 20 4

/-- The image hash (R410). -/
def imgHash (b : Bytes) : Bytes := shake256 32 (sub b 0 (0x8000 + imgBody b))

/-- Whether an image has the form of R410: `cfg` for a configuration image. -/
def imgFormed (cfg : Bool) (b : Bytes) : Bool :=
  num b 0 4 == (if cfg then 0x46434B48 else 0x57464B48) && num b 4 4 == 1 && decide (imgSvn b ≤ 63)
    && decide (imgBody b ≤ (if cfg then 0x17F8000 else 0x1FE8000)) && decide (0x8000 + imgBody b ≤ b.length)
    && allZero (sub b 120 8) && allZero (sub b 29920 2848)
    && (if cfg then decide (num b 16 2 ≤ 8191) && decide (imgFlags b < 32) && decide (imgPoint b ≤ 2)
        else num b 16 2 == 0 && imgFlags b == 0 && imgPoint b == 0 && imgSections b == 0)

/-- Whether an image verifies under R411, its SVN apart. -/
def State.imgVerifies (s : State) (cfg : Bool) (b : Bytes) : Bool :=
  let signer := shake256 32 (sub b 56 64)
  imgFormed cfg b && (if cfg then s.ownerSlot.isSome && signer == s.ownerHash else s.fuses.vendor.contains signer)
    && Config.slhVerify (sub b 56 64) (sub b 0 128) (sub b 128 29792) && shake256 32 (sub b 0x8000 (imgBody b)) == sub b 24 32

/-- Whether an image's SVN is at least its minimum (R411). -/
def State.imgSvnOk (s : State) (cfg : Bool) (b : Bytes) : Bool := decide ((if cfg then s.fuses.cfgMin else s.fuses.fwMin) ≤ imgSvn b)

/-! ## Sections (R412) -/

/-- A configuration record: its section, TYPE, address, value and data. -/
abbrev CfgRec := Nat × Nat × BitVec 64 × BitVec 64 × Bytes

/-- The records of a section; none when they break R412. `fuel` bounds their number. -/
def cfgRecords : Nat → Nat → Bytes → Option (List CfgRec)
  | _, _, [] => some []
  | 0, _, _ => none
  | fuel + 1, kind, b =>
    if num b 0 4 = 1 ∧ num b 4 4 = 0 ∧ b.length ≥ 24 then
      (cfgRecords fuel kind (b.drop 24)).map (fun l => (kind, 1, BitVec.ofNat 64 (num b 8 8), BitVec.ofNat 64 (num b 16 8), []) :: l)
    else if num b 0 4 = 2 ∧ b.length ≥ 16 + ceilDiv (num b 4 4) 8 * 8 then
      (cfgRecords fuel kind (b.drop (16 + ceilDiv (num b 4 4) 8 * 8))).map (fun l =>
        (kind, 2, BitVec.ofNat 64 (num b 8 8), 0#64, sub b 16 (num b 4 4)) :: l)
    else none

/-- The records of `n` sections of a body; none at a reserved section or one that breaks R412. -/
def cfgSections : Nat → Bytes → Option (List CfgRec)
  | 0, _ => some []
  | n + 1, b =>
    let kind := num b 0 2
    let len := num b 4 4
    if kind = 0 ∨ kind > 7 ∨ num b 2 2 ≠ 0 ∨ num b 8 8 ≠ 0 ∨ b.length < 16 + len then none
    else match cfgRecords (len + 1) kind (sub b 16 len), cfgSections n (b.drop (16 + len)) with
      | some l, some m => some (l ++ m)
      | _, _ => none

/-- The blocks that a section names (R412). -/
def sectionBlocks : Nat → List Nat
  | 1 => [0x01, 0x1F]
  | 2 => [0x03, 0x04, 0x18]
  | 3 => [0x13]
  | 4 => [0x14]
  | 5 => [0x1C]
  | 6 => [0x18]
  | _ => [0x08, 0x09, 0x0A, 0x0B, 0x0C, 0x0D, 0x0E, 0x0F]

/-- Whether the hub's memory group was refused for its regulators (R331). -/
def State.rateOver (s : State) : Bool :=
  [8, 9].any (fun hub => let v := s.reg (dieAt hub) .prtStatus; v.getLsbD 1 && fld v 2 3 == 5)

/-- A record applied with the module's own rights as partition 0; none when it breaks R412 or a limit (R27, R331). A write to an unassigned
block of those its section names, such as a fused-off cluster's, or to a misaligned address is discarded and recorded (R10). -/
def State.cfgApply (s : State) (r : CfgRec) : Option State :=
  let (kind, type, a, v, d) := r
  if type = 1 then
    if !s.ownRegister a ∨ !(sectionBlocks kind).contains (regBlk a) then none
    else
      let many := match s.locate (regDie a) (regBlk a) (regOff a) with
        | some (.morRedCfg _) => decide (fld v 32 14 > 8192)
        | _ => false
      let s := s.regWrite .image a 8 v
      if many || s.rateOver then none else some s
  else if gPkg a = s.sec.pkg ∧ gSpace a = 0 ∧ (pageStarts (gOff a) d.length).all (fun o => s.ownerPage 0 o) then
    some (s.store 0 0 0 (gOff a) d (s.dieNow 8))
  else none

/-- The sections of some kinds applied in order, kind by kind; the truth value tells that none broke R412 or a limit. -/
def State.cfgApplyAll (s : State) (kinds : List Nat) : State × Bool :=
  (kinds.flatMap (fun k => s.sec.config.filter (fun r => r.1 == k))).foldl (fun (x : State × Bool) r =>
    if !x.2 then x else match x.1.cfgApply r with
      | some t => (t, true)
      | none => (x.1, false)) (s, true)

/-! ## Failure (R418, R420) -/

/-- Recovery: every block is reset, ports are OFF, and the reason is reported (R418, R420). -/
def State.recover (s : State) (reason : Nat) : State :=
  let t : State := { State.reset with
    fuses := s.fuses, fresh := s.fresh, counters := s.counters, rings := s.rings, plumb := s.plumb, i3cAddr := s.i3cAddr, msix := s.msix, mgmt := s.mgmt
    doeReply := s.doeReply, faults := s.faults, vectors := s.vectors, sentOut := s.sentOut, ibi := s.ibi ++ [0x03#8]
    power := { Power.reset with enable := s.power.enable, switchOn := s.power.switchOn, overV := s.power.overV, inputMv := s.power.inputMv,
                                junction := s.power.junction }
    sec := { Sec.reset with mode := .recovery, reason := reason, booted := true, challenge := s.sec.challenge, slot := s.sec.slot,
                            ownerPk := s.sec.ownerPk, fwSvn := s.sec.fwSvn, cfgSvn := s.sec.cfgSvn, fwHash := s.sec.fwHash,
                            cfgHash := s.sec.cfgHash } }
  t.norRecord (leBytes 1 reason)

/-! ## POWER_GOOD (R417, R336) -/

/-- The package channels in use: all sixteen, or 0 to 3 and 8 to 11, or none (R313). -/
def usableChannels (l : List Nat) : List Nat :=
  let half := [0, 1, 2, 3, 8, 9, 10, 11]
  if (List.range 16).all l.contains then List.range 16 else if half.all l.contains then half else []

/-- The capacity code of a module (R339); a size that is not supported is 0. -/
def capCode (g : Nat) : Nat := if g = 64 then 1 else if g = 128 then 2 else if g = 256 then 3 else 0

/-- Memory comes up (R313, R315, R336, R338, R339, R367): stacks trained, far channels, every zero-map bit set, and CXL ports: x16 or x8, at 64
or 32 GT/s, and whether the device is one of several logical devices, are free. -/
def State.memoryUp (s : State) (t : BootTests) : State :=
  let s := [8, 9].foldl (fun s hub => (List.range 4).foldl (fun (s : State) k => s.setBits (dieAt hub) (.nmcStatus k) 3) s) s
  let chans := if capCode t.farGiB = 0 then [] else usableChannels t.farChannels
  let s : State := { s with farGiB := t.farGiB, farChans := chans, zeroClear := [] }
  let s := t.farChannels.foldl (fun (s : State) c =>
    if c ≥ 16 then s else
    s.setReg (dieAt (8 + c / 8)) (.fmcChan (c % 8)) (BitVec.ofNat 64 (3 + (b2n (chans.contains c)) * 4 + capCode t.farGiB * 8))) s
  let caps := (List.range 4).map (fun p => if s.twin ∧ p ≥ 2 then 0 else min 4096 ((t.cxlGiB[p]?).getD 0))
  let s : State := { s with cxlGiB := caps }
  (List.range 4).foldl (fun s p =>
    let cap := (caps[p]?).getD 0
    if cap = 0 then s else
    let (n, s) := s.draw
    s.setReg (dieAt (if p < 2 then 8 else 9)) (.cxlPort p)
      (BitVec.ofNat 64 (1 + (if n.testBit 0 then 8 else 16) * 2 + (if n.testBit 1 then 5 else 6) * 2 ^ 6 + 2 ^ 10 + b2n (n.testBit 2) * 2 ^ 11
        + b2n (n.testBit 0 || n.testBit 1) * 2 ^ 12 + cap * 2 ^ 13))) s

/-- The owner's public key, when the image's SIGNER is the enrolled owner. -/
def State.learnOwner (s : State) (b : Bytes) : State :=
  if s.ownerSlot.isSome ∧ shake256 32 (sub b 56 64) = s.ownerHash then { s with sec := { s.sec with ownerPk := sub b 56 64 } } else s

/-- The header of a verified configuration image in force (R410): package number, role, host rights and operating point. -/
def State.cfgHeader (s : State) (b : Bytes) : State :=
  let f := imgFlags b
  let role := if bitsOf f 3 2 = 3 then 0 else bitsOf f 3 2
  { s with
    sec := { s.sec with pkg := num b 16 2, role := role, hostOwner := f.testBit 2, point := imgPoint b }
    power := { s.power with supply := pointSupply (imgPoint b) } }

/-- The start-up from the verified configuration image on (R417): sections, memory, key pair, partition 0's random key, links. -/
def State.bringUp (s : State) (t : BootTests) (recs : List CfgRec) : State :=
  let s : State := { s with sec := { s.sec with config := recs } }
  let (n, s) := s.draw
  let s : State := { s with sec := { s.sec with kem := some n } }
  match s.cfgApplyAll [1, 2] with
  | (s, false) => s.recover 0x06
  | (s, true) =>
    if !t.nearOk then s.recover 0x07 else
    match (s.memoryUp t).cfgApplyAll [3, 4, 5] with
    | (s, false) => s.recover 0x06
    | (s, true) =>
      let (n, s) := s.draw
      let s : State := { s with sec := { s.sec with keys := kvSet s.sec.keys 0 (leBytes 64 n) } }
      match s.cfgApplyAll [6] with
      | (s, false) => s.recover 0x06
      | (s, true) => s

/-- The host link as it has trained: what the manual leaves to the outside is free, but WIDTH and SPEED are values that exist, and on a twin
carrier a link that is up is x8 (R361, R367, R437). -/
def State.hostLink (s : State) : State :=
  let (n, s) := s.draw
  let width := if s.twin then 8 else 2 ^ (n / 2 % 5)
  if n % 2 = 0 then s else
  s.setField (dieAt 8) .pciStatus 0 11 (1 + width * 2 + (1 + n / 2 ^ 8 % 6) * 2 ^ 6 + n / 2 ^ 16 % 2 * 2 ^ 10)

/-- The start-up sequence of R417 up to the compute-die test, ENROL mode, or recovery. An image whose plumb tree is deeper than 8 hops breaks a
limit (R35, R412; log entry 59). -/
def State.startUp (s : State) (t : BootTests) : State :=
  let s := s.newChallenge.hostLink
  let fw := s.fuses.norFw
  let cfg := s.fuses.norCfg
  let s : State := { s with
    fuses := { s.fuses with norLock := true }
    sec := { s.sec with booted := true, mode := .starting, fwHash := imgHash fw, fwSvn := imgSvn fw % 256 } }
  if !s.imgVerifies false fw then s.recover 0x01
  else if !s.imgSvnOk false fw then s.recover 0x02
  else if !t.hubsAgree then s.recover 0x03
  else match s.ownerSlot with
    | none => { s with sec := { s.sec with mode := .enrolling } }
    | some i =>
      let s : State := ({ s with sec := { s.sec with slot := i + 1, cfgHash := imgHash cfg, cfgSvn := imgSvn cfg % 256 } } : State).learnOwner cfg
      if !s.imgVerifies true cfg then s.recover 0x04
      else if !s.imgSvnOk true cfg then s.recover 0x05
      else if Config.plumbDepth cfg > 8 then s.recover 0x06
      else match cfgSections (imgSections cfg) (sub cfg 0x8000 (imgBody cfg)) with
        | none => s.recover 0x06
        | some recs => (s.cfgHeader cfg).bringUp t recs

/-- POWER_GOOD: the start-up from power-good, once (R417). -/
def execPowerGood (t : BootTests) (s : State) : Host.Outcome State Fault Refusal := done s (if s.sec.booted then s else s.startUp t)

/-! ## SELF_TEST_DONE (R417, R419) -/

/-- A core retired from power-good; the command index of its event is free (R419). -/
def State.retireAtStart (s : State) (no : Nat) : State :=
  let s := s.setKeystone (no / 16) (fun x => { x with retired := if x.retired.contains (no % 16) then x.retired else no % 16 :: x.retired })
  let (n, s) := s.draw
  ((s.event (no / 128) kRetired noCtx no 0#8 (leBytes 4 n)).norRecord (leBytes 2 no)).keyEvent (no / 16)

/-- The cores that the test retires: those that failed, and all of a cluster whose keystone, walker or cluster memory failed (R419). -/
def retiredBy (t : DieTests) : List Nat :=
  ((t.failedCores ++ t.failedClusters.flatMap (fun k => (List.range 16).map (16 * k + ·))).filter (· < 1024)).eraseDups

/-- Whether a die has more than four clusters fully retired (R419). -/
def State.dieFails (s : State) (die : Nat) : Bool :=
  decide (((List.range 8).filter (fun c => s.present (8 * die + c) &&
    (List.range 16).all (fun i => (s.keystone (8 * die + c)).retired.contains i))).length > 4)

/-- The minimum SVN fuses raised where the configuration image says so (R417). -/
def State.raiseMin (s : State) : State :=
  let f := imgFlags s.fuses.norCfg
  { s with fuses := { s.fuses with
      cfgMin := if f.testBit 0 then max s.fuses.cfgMin s.sec.cfgSvn else s.fuses.cfgMin
      fwMin := if f.testBit 1 then max s.fuses.fwMin s.sec.fwSvn else s.fuses.fwMin } }

/-- The control cores watch queues: last-level memory in cache mode, RUNNING (R336, R417). -/
def State.running (s : State) : State :=
  let s := [8, 9].foldl (fun (s : State) hub => (s.zeroArray hub).setField (dieAt hub) .llmCtl 0 1 1) s
  let s : State := { s with
    llms := s.llms.map (fun _ => { cache := true, switching := none, off := false, lines := [] })
    sec := { s.sec with mode := .running, watching := true } }
  s.routeAgain

/-- SELF_TEST_DONE (R417, R419). -/
def execSelfTestDone (t : DieTests) (s : State) : Host.Outcome State Fault Refusal :=
  done s <|
    if !s.sec.booted ∨ s.sec.mode ≠ .starting then s else
    let s := (retiredBy t).foldl State.retireAtStart s
    if !t.portsOk || (List.range 8).any s.dieFails then s.recover 0x08 else
    match s.cfgApplyAll [7] with
    | (s, false) => s.recover 0x06
    | (s, true) => s.distanceTable.raiseMin.running

/-! ## Recovery objects (R421, R422) -/

/-- Whether the package takes recovery objects (R420, R421). -/
def State.recovering (s : State) : Bool := s.sec.mode == .recovery || s.sec.mode == .enrolling

/-- How far chunks cover an object from byte 0 (R421). -/
def covered (l : List (Nat × Bytes)) : Nat :=
  l.foldl (fun n _ => l.foldl (fun n c => if c.1 ≤ n then max n (c.1 + c.2.length) else n) n) 0

/-- The object that chunks make up. -/
def assembled (total : Nat) (l : List (Nat × Bytes)) : Bytes := sub (l.foldl (fun b c => patch b c.1 c.2) (List.replicate total 0#8)) 0 total

/-- A whole object is verified (R411, R414, R422): an image is written to NOR, a token acts. The answer is 1 accepted or 2 refused. -/
def State.takeObject (s : State) (kind : Nat) (b : Bytes) : Nat × State :=
  match kind with
  | 2 =>
    let ok := s.tokenResult b == resOk
    (if ok then 1 else 2, s.submitToken b)
  | _ =>
    let cfg := kind == 1
    let s := if cfg then s.learnOwner b else s
    if s.imgVerifies cfg b && s.imgSvnOk cfg b then (1, { s with fuses := { s.fuses with norLock := false }, sec := { s.sec with writing := some (kind, b) } })
    else (2, s)

/-- A recovery chunk (R421): 0 taken, 1 object accepted, 2 object refused, 3 bad chunk. `most` is the path's limit of data bytes. -/
def State.takeChunk (s : State) (ch : Chunk) (most : Nat) : Nat × State :=
  if ch.kind > 2 ∨ ch.total > 0x2000000 ∨ ch.data.length > most ∨ ch.offset + ch.data.length > ch.total ∨ s.sec.writing.isSome then (3, s)
  else if !s.recovering then (2, s)
  else
    let old := match s.sec.objects.find? (fun o => o.kind == ch.kind && o.total == ch.total) with
      | some o => o.chunks
      | none => []
    let l := old ++ [(ch.offset, ch.data)]
    let rest := s.sec.objects.filter (fun o => o.kind != ch.kind)
    if covered l ≥ ch.total then
      ({ s with sec := { s.sec with objects := rest } } : State).takeObject ch.kind (assembled ch.total l)
    else (0, { s with sec := { s.sec with objects := rest ++ [{ kind := ch.kind, total := ch.total, chunks := l }] } })

/-- NOR_WRITE_DONE: the image and then the directory are written, and start-up begins again (R413, R422). -/
def execNorWriteDone (s : State) : Host.Outcome State Fault Refusal :=
  done s <|
    match s.sec.writing with
    | none => s
    | some (0, b) => ({ s with fuses := { s.fuses with norFw := b } } : State).reboot
    | some (_, b) => ({ s with fuses := { s.fuses with norCfg := b } } : State).reboot

/-- The NOR directory (R413). -/
def State.norDirectory (s : State) : Bytes :=
  leBytes 4 0x52444B48 ++ leBytes 4 s.fuses.norFw.length ++ leBytes 4 s.fuses.norCfg.length

/-! ## Colophons (R423, R424) -/

/-- The RETIRED field: bit n for physical core n (R423). -/
def State.retiredBytes (s : State) : Bytes :=
  (List.range 64).flatMap (fun k => leBytes 2 ((List.range 16).foldl (fun n i => n + (if (s.keystone k).retired.contains i then 2 ^ i else 0)) 0))

/-- Bytes 31,759 to 0 of a colophon (R423). -/
def State.colophonBody (s : State) (nonce : Bytes) : Bytes :=
  leBytes 4 0x4F434B48 ++ leBytes 2 1 ++ leBytes 2 s.sec.pkg ++ leBytes 8 (s.dieNow 8).toNat ++ sub nonce 0 32 ++ leBytes 8 s.idGrade
    ++ leBytes 8 (s.idFuse 8) ++ leBytes 1 s.sec.fwSvn ++ leBytes 1 s.sec.cfgSvn ++ leBytes 1 s.fuses.fwMin ++ leBytes 1 s.fuses.cfgMin
    ++ leBytes 1 s.sec.mode.code ++ leBytes 1 s.sec.reason ++ leBytes 1 (b2n s.sec.debug) ++ leBytes 1 (s.sec.scope.toNat + s.sec.slot * 8)
    ++ sub s.sec.fwHash 0 32 ++ sub s.sec.cfgHash 0 32 ++ (if s.sec.slot = 0 then List.replicate 32 0#8 else s.ownerHash) ++ s.kemHash ++ sub s.fuses.identityPk 0 64 ++ s.retiredBytes
    ++ s.kemKey ++ sub s.fuses.endorsement 0 29792 ++ List.replicate 8 0#8

/-- A colophon with its signature (R423). -/
def State.makeColophon (s : State) (nonce : Bytes) : Bytes :=
  let b := s.colophonBody nonce
  b ++ sub (Config.slhSign s.fuses.identityPk b) 0 29792

/-- Signing takes 38 ms of 4,000,000 ticks each (R424). -/
def signTicks : Nat := 152000000

/-- A colophon request (R424): the last colophon for its nonce, a new one, or none when four requests wait already. -/
def State.askColophon (s : State) (nonce : Bytes) : Option Bytes × State :=
  match s.sec.colophon with
  | some (n, b) => if n = nonce then (some b, s) else fresh s
  | none => fresh s
where
  /-- A new colophon, queued for the signing engine. -/
  fresh (s : State) : Option Bytes × State :=
    let now := s.plumb.now
    let wait := s.sec.signing.filter (fun t => decide (now.toNat < t.toNat))
    if wait.length ≥ 4 then (none, { s with sec := { s.sec with signing := wait } }) else
    let last := (wait.getLast?).getD now
    let b := s.makeColophon nonce
    (some b, { s with sec := { s.sec with signing := wait ++ [last + BitVec.ofNat 64 signTicks], colophon := some (nonce, b) } })

end Sys2Proof.Machine
end

