-- ==== Sys2Proof/Machine/Mgmt.lean ====
section
/-! DEFINITION. The management port (R368, R369), the Data Object Exchange requests (R366, R424), and the end of the exit from S2 with its
held accesses (R451, R452). -/

namespace Sys2Proof.Machine

/-! ## Requests and replies (R369) -/

/-- The STATUS codes of a response. -/
def mOk : Nat := 0
def mDenied : Nat := 1
def mBad : Nat := 2
def mBusy : Nat := 3

/-- A response: TYPE, the request's TAG, STATUS and payload. -/
def State.reply (s : State) (type : Nat) (tag : BitVec 8) (status : Nat) (payload : Bytes) : State :=
  { s with mgmt := s.mgmt ++ [{ type := type, tag := tag, status := status, payload := payload }] }

/-- A management request arrives: its event source, and its wake source in S2 (R401, R452). -/
def State.asked (s : State) : State := (s.raise 8 1).wake 1

/-- The roles of the port (R369, R410): 0 NONE, 1 MONITOR, 2 OWNER. A request is served when the role may make it; in recovery and ENROL
mode only those that recovery allows are. -/
def State.served (s : State) (role : Nat) (inRecovery : Bool) : Bool :=
  if s.recovering then inRecovery else decide (role ≤ s.sec.role)

/-- A request answered by `f` when it is served, else DENIED. -/
def State.serve (s : State) (role : Nat) (inRecovery : Bool) (type : Nat) (tag : BitVec 8) (f : State → State) : State :=
  let s := s.asked
  if s.served role inRecovery then f s else s.reply type tag mDenied []

/-- ENTDAA: the target takes a dynamic address (R368). -/
def execEntdaa (addr : BitVec 7) (s : State) : Host.Outcome State Fault Refusal := done s { s with i3cAddr := some addr }

/-- The payload of IDENTIFY (R369): grade, stepping, package number, plumb state and the thirty port states. -/
def State.identifyBytes (s : State) : Bytes :=
  leBytes 1 s.fuses.grade.toNat ++ leBytes 2 s.fuses.stepping.toNat ++ leBytes 2 s.sec.pkg ++ leBytes 1 s.plumb.st.code
    ++ (List.range 30).flatMap (fun n => leBytes 1 (s.port n).st.code)

/-- IDENTIFY: every role, recovery too. -/
def execIdentify (tag : BitVec 8) (s : State) : Host.Outcome State Fault Refusal :=
  done s (s.serve 0 true 1 tag (fun s => s.reply 1 tag mOk s.identifyBytes))

/-- A register read for the port, and its answer. -/
def State.mgmtRead (s : State) (tag : BitVec 8) (addr : BitVec 64) : State :=
  let (v, s) := s.regRead .mgmt addr 8
  ({ s with readData := v } : State).reply 2 tag mOk (leBytes 8 v.toNat)

/-- REG_READ: OWNER; held in S2 when it needs a unit that is off. -/
def execRegRead (tag : BitVec 8) (addr : BitVec 64) (s : State) : Host.Outcome State Fault Refusal :=
  done s <| s.serve 2 false 2 tag fun s =>
    if s.power.st = .s2 ∧ s.ownRegister addr ∧ needsPower addr then s.holdAccess (.regRead tag addr) none else s.mgmtRead tag addr

/-- A register write for the port, and its answer. -/
def State.mgmtWrite (s : State) (tag : BitVec 8) (addr v : BitVec 64) : State := (s.regWrite .mgmt addr 8 v).reply 3 tag mOk []

/-- REG_WRITE: OWNER; held in S2 when it needs a unit that is off. -/
def execRegWrite (tag : BitVec 8) (addr v : BitVec 64) (s : State) : Host.Outcome State Fault Refusal :=
  done s <| s.serve 2 false 3 tag fun s =>
    if s.power.st = .s2 ∧ s.ownRegister addr ∧ needsPower addr then s.holdAccess (.regWrite tag addr v) none else s.mgmtWrite tag addr v

/-- TELEMETRY: OWNER; the oldest records that wait, at most 64. -/
def execTelemetry (tag : BitVec 8) (n : Nat) (s : State) : Host.Outcome State Fault Refusal :=
  done s <| s.serve 2 false 4 tag fun s =>
    if n > 64 then s.reply 4 tag mBad []
    else ({ s with telem := s.telem.drop n } : State).reply 4 tag mOk (s.telem.take n).flatten

/-- The payload of HEALTH (R369): thermal flags, ports in FAILED, and faults waiting. -/
def State.healthBytes (s : State) : Bytes :=
  leBytes 1 (fld (s.reg (dieAt 8) .pwrThermal) 12 3)
    ++ leBytes 4 ((List.range 30).foldl (fun m n => m + (if (s.port n).st = .failed then 2 ^ n else 0)) 0)
    ++ leBytes 1 (min 255 s.faults.length)

/-- HEALTH: MONITOR and OWNER. -/
def execHealth (tag : BitVec 8) (s : State) : Host.Outcome State Fault Refusal :=
  done s (s.serve 1 false 5 tag (fun s => s.reply 5 tag mOk s.healthBytes))

/-- FAULT_REPORT: every role; the report that waits longest. -/
def execMgmtFaultReport (tag : BitVec 8) (s : State) : Host.Outcome State Fault Refusal :=
  done s <| s.serve 0 false 6 tag fun s =>
    match s.faults with
    | [] => s.reply 6 tag mOk []
    | f :: rest => ({ s with faults := rest } : State).reply 6 tag mOk f

/-! ## Colophons and recovery chunks (R366, R421, R424) -/

/-- The colophon that a management request reads from: at OFFSET 0 the nonce's, made if need be; elsewhere the last one, none when its nonce
differs (R424). The outer option tells a BAD_REQUEST, the inner one a BUSY. -/
def State.colophonAt (s : State) (nonce : Bytes) (off : Nat) : Option (Option Bytes) × State :=
  if nonce.length ≠ 32 then (none, s)
  else if off = 0 then let (b, s) := s.askColophon nonce; (some b, s)
  else match s.sec.colophon with
    | some (n, b) => if n = nonce then (some (some b), s) else (none, s)
    | none => (none, s)

/-- COLOPHON: every role, recovery too; up to 4088 bytes from OFFSET. -/
def execColophon (tag : BitVec 8) (nonce : Bytes) (off : Nat) (s : State) : Host.Outcome State Fault Refusal :=
  done s <| s.serve 0 true 7 tag fun s =>
    match s.colophonAt nonce off with
    | (none, s) => s.reply 7 tag mBad []
    | (some none, s) => s.reply 7 tag mBusy []
    | (some (some b), s) => s.reply 7 tag mOk ((b.drop off).take 4088)

/-- RECOVERY_CHUNK: recovery only, in any role; at most 4072 bytes of data; the answer is the chunk's status (R421). -/
def execRecoveryChunk (tag : BitVec 8) (ch : Chunk) (s : State) : Host.Outcome State Fault Refusal :=
  done s <|
    let s := s.asked
    if !s.recovering then s.reply 8 tag mDenied [] else
    let (n, s) := s.takeChunk ch 4072
    s.reply 8 tag mOk (leBytes 1 n)

/-- The answer to a colophon request over Data Object Exchange: the whole colophon, or BUSY (R366, R424). -/
def State.colophonDoe (s : State) (nonce : Bytes) : State :=
  match s.askColophon nonce with
  | (some b, s) => { s with doeReply := b }
  | (none, s) => { s with doeReply := leBytes 1 mBusy }

/-- A Data Object Exchange request arrives: its event source; in S2 it is held and wakes (R401, R451, R452). -/
def State.doe (s : State) (c : Instr) (f : State → State) : State :=
  let s := s.raise 8 2
  if s.power.st = .s2 then s.holdAccess c (some 2) else f s

/-- DOE_COLOPHON: a nonce of 32 bytes. -/
def execDoeColophon (nonce : Bytes) (s : State) : Host.Outcome State Fault Refusal :=
  done s (s.doe (.doeColophon nonce) (fun s => s.colophonDoe nonce))

/-- The answer to a recovery chunk over Data Object Exchange: at most 64 KiB of data. -/
def State.chunkDoe (s : State) (ch : Chunk) : State :=
  let (n, s) := s.takeChunk ch 65536
  { s with doeReply := leBytes 1 n }

/-- DOE_RECOVERY_IMAGE. -/
def execDoeRecoveryImage (ch : Chunk) (s : State) : Host.Outcome State Fault Refusal :=
  done s (s.doe (.doeRecoveryImage ch) (fun s => s.chunkDoe ch))

/-! ## The exit from S2 (R451, R452) -/

/-- A held access completes. -/
def State.perform (s : State) : Instr → State
  | .registerWrite m a size v => s.regWrite m a size v
  | .hostWindowRead w off len => s.windowRead w off len
  | .hostWindowWrite w off data => s.windowWrite w off data
  | .doeColophon nonce => s.colophonDoe nonce
  | .doeRecoveryImage ch => s.chunkDoe ch
  | .regRead tag a => s.mgmtRead tag a
  | .regWrite tag a v => s.mgmtWrite tag a v
  | _ => s

/-- S2_EXIT_DONE: STATE reads S1, and the held accesses complete in order. -/
def execS2ExitDone (s : State) : Host.Outcome State Fault Refusal :=
  done s <|
    if s.power.st ≠ .s2 ∨ s.power.moving ≠ some .s1 then s else
    let s := s.leaveS2
    s.held.foldl (fun (s : State) c => s.perform c) { s with held := [] }

end Sys2Proof.Machine
end

