-- ==== Sys2Proof/Machine/Clock.lean ====
section
/-! DEFINITION. What passes when no command waits: one plumb tick (R8, R34; log entry 4), with what the machine counts and records by
time: power-gated and regulator-held ticks (R54), stall ticks (R128), and the telemetry record of each millisecond (R369). -/

namespace Sys2Proof.Machine

/-- The counter advances; while the package is ahead of its upstream estimate, at half rate: every second tick (R34). In every other state
R34 allows steering by at most 100 ppm and does not say by how much; the model runs at the nominal rate (log entry 91). -/
def Plumb.tick (p : Plumb) : Plumb :=
  if p.ahead = 0 then { p with now := p.now + 1#64 }
  else if p.phase then { p with now := p.now + 1#64, phase := false, ahead := p.ahead - 1 }
  else { p with phase := true }

/-- Power-gated ticks of the keystones (R54). -/
def State.tickGated (s : State) : State :=
  (List.range 64).foldl (fun (s : State) k => if (s.keystone k).gated then s.count 2 (k / 8) k 4 1 else s) s

/-- Regulator-held ticks of the near and far controllers (R54, R330). -/
def State.tickHeld (s : State) : State :=
  s.queueAcc.foldl (fun (s : State) w =>
    if w.res = 0 then s.count 3 w.hub (w.id % 4) 3 1
    else if w.res = 1 then s.count 4 w.hub (4 + w.id % 8) 3 1
    else s) s

/-! ## Stalls (R128, R129, log entry 41) -/

/-- The logical cores of a command that a physical core hosts, as in a region's `cores` (R154). -/
def State.hosted (s : State) (r : Run) (h : Here) (no : Nat) : Nat :=
  let k := no / 16
  (List.range r.clusters.length).foldl (fun n j =>
    if r.clusters[j]? = some k then
      (List.range (hCores h.prog)).foldl (fun n l => if hostCore (s.liveCores k) (hCores h.prog) l = no % 16 then n + 2 ^ (16 * j + l) else n) n
    else n) 0

/-- The oldest unfinished instruction of a command on a core. -/
def State.oldest (s : State) (r : Run) (h : Here) (no : Nat) : Option Nat :=
  let on := s.hosted r h no
  let l := ((r.issued.map (·.index)) ++ r.unissued h.cmd).filter (fun k => coresOf h.cmd (wordAt h.prog k) &&& on != 0)
  l.foldl (fun (m : Option Nat) k => some (match m with | some x => min x k | none => k)) none

/-- Whether a stage of the open chain waits: for an empty slot (R113) … -/
def slotWaits (r : Run) (w : Word128) : Bool :=
  (w.op == 0x301 || w.op == 0x302) && (r.chain.map (stageWaits r)) == some true

/-- … or for a full one. -/
def stageStarves (r : Run) (w : Word128) : Bool :=
  w.op == 0x301 && w.imm != 0 && (r.chain.map (fun c => slotFull c (w.imm - 1))) == some false

/-- Whether a pinned convolution or pooling waits for halo rows of one of a set of cores (R218). -/
def haloWaits (r : Run) (h : Here) (w : Word128) (on : Nat) : Bool :=
  (w.op / 64 == 2 || w.op / 64 == 3) && w.lc != 0
    && num (sub h.prog (hConstOff h.prog + w.imm) 32) 14 1 != 0
    && (pins h.cmd.ncl (hCores h.prog) w.lc).any (fun t =>
      on.testBit (16 * t.2.1 + t.2.2) && !r.halos.any (fun f => f.index == w.ix && f.core == t.1 && f.full))

/-- Whether an engine of a core waits for a free accumulator set (R102). -/
def State.setWaits (s : State) (no : Nat) : Bool :=
  s.engines.any (fun e => e.no / 4 == no && e.lastIssued && !e.shadowFree)

/-- Whether an access of a context waits for its memory regulator on a resource (R330). -/
def State.accessWaits (s : State) (ctx res : Nat) : Bool := s.queueAcc.any (fun w => w.res == res && w.part == s.ctxPart ctx)

/-- The cause under which a core of a command is stalled (R128), by its place in R54's list: the first in R128's order that applies to the
oldest unfinished instruction of the command on the core; in step 4 of its commit the command waits under MORTAR (R254), as it does for the
grant of a lease (R239). What a unit inside the package takes in time the model does not show (log entry 41). -/
def State.stallOf (s : State) (r : Run) (no : Nat) : Option Nat :=
  let h := s.hereAt r r.next
  let on := s.hosted r h no
  match s.oldest r h no with
  | none => if r.sending && !s.sendsDone r.lead then some 5 else none
  | some i =>
    let w := wordAt h.prog i
    let began := r.issued.any (fun x => x.index == i)
    if s.power.waiting.contains (2 * no) then some 9
    else if s.setWaits no then some 8
    else if (!began && !r.mayIssue h.prog h.cmd w) || slotWaits r w then some 7
    else if began && haloWaits r h w on then some 1
    else if began && w.isMedia then some 6
    else if r.mortarSince.isSome || r.leases.any (fun u => u.phase == .asked) then some 5
    else if s.asking r.lead then some 4
    else if began && touchesMemory h.prog w && s.accessWaits r.ctx 1 then some 3
    else if began && touchesMemory h.prog w && s.accessWaits r.ctx 0 then some 2
    else if r.follows h.prog i || stageStarves r w then some 0
    else none

/-- One tick of a core of a command: its own counter and the command's total (R128, R129). -/
def State.tickCore (s : State) (r : Run) (no : Nat) : State :=
  match s.stallOf r no with
  | none => s
  | some c => (s.count 1 (no / 128) no (4 + c) 1).setRun r.lead (fun x => { x with stalls := modNth x.stalls c (· + 1) })

/-- The cores of a command. -/
def State.coresAt (s : State) (r : Run) : List Nat := r.clusters.flatMap (fun k => (s.liveCores k).map (16 * k + ·))

/-- One tick of the running commands. -/
def State.tickStalls (s : State) : State :=
  s.runs.foldl (fun (s : State) r => (s.coresAt r).foldl (fun (s : State) no => s.tickCore r no) s) s

/-- One tick of a primary command that is ready and waits for the fill command of a cluster to be killed: FILL_KILL in its own record
(R129), and in the counter of each core that counts no stall of the fill itself (R128: a tick has one cause). -/
def State.tickFill (s : State) (r : Run) (k : Nat) : State :=
  match s.primaryNext k with
  | some (c, q, _, _, .run _) =>
    let cores := (s.liveCores k).map (16 * k + ·)
    let s := s.setQueue c q (fun x => { x with fillKill := x.fillKill + cores.length })
    cores.foldl (fun s no => if (s.stallOf r no).isSome then s else s.count 1 (no / 128) no 14 1) s
  | _ => s

/-- One tick of the fill commands that a ready primary command waits for. -/
def State.tickFills (s : State) : State :=
  (s.runs.filter (·.fill)).foldl (fun s r => r.clusters.foldl (fun s k => s.tickFill r k) s) s

/-- A millisecond in ticks (R7). -/
def msTicks : Nat := 4000000

/-- A telemetry record at each full millisecond, 64 kept (R369): the electrical figures are free. -/
def State.tickTelemetry (s : State) : State :=
  if s.plumb.now.toNat % msTicks ≠ 0 then s else
  let (n, s) := s.draw
  let r := leBytes 8 s.plumb.now.toNat ++ leBytes 8 n ++ leBytes 2 s.power.supply ++ leBytes 1 s.hottest ++ leBytes 1 s.sec.point
    ++ leBytes 20 (n / 2 ^ 64) ++ List.replicate 8 0#8
  { s with telem := (s.telem ++ [r]).drop (s.telem.length + 1 - 64) }

/-- One plumb tick; with the rails off nothing passes (R441). -/
def tick (s : State) : State :=
  if s.power.rails then
    let s : State := { s with plumb := s.plumb.tick }
    s.tickGated.tickHeld.tickStalls.tickFills.tickTelemetry
  else s

end Sys2Proof.Machine
end

