-- ==== Sys2Proof/Machine/Dispatch.lean ====
section
/-! DEFINITION. The command table: one arm for each constructor of `Instr`, in the order of spec/opcode_table.json. -/

namespace Sys2Proof.Machine

/-- What a command does to everything but the queue. -/
def exec (i : Instr) (s : State) : Host.Outcome State Fault Refusal :=
  match i with
  | .move c ix => Sys2Proof.Machine.execMove c ix s
  | .moveMulticast c ix => Sys2Proof.Machine.execMoveMulticast c ix s
  | .moveFill c ix => Sys2Proof.Machine.execMoveFill c ix s
  | .matmul c ix => Sys2Proof.Machine.execMatmul c ix s
  | .convDirect c ix => Sys2Proof.Machine.execConvDirect c ix s
  | .convMin2 c ix => Sys2Proof.Machine.execConvMin2 c ix s
  | .convMin4 c ix => Sys2Proof.Machine.execConvMin4 c ix s
  | .convS2c c ix => Sys2Proof.Machine.execConvS2c c ix s
  | .convC2s c ix => Sys2Proof.Machine.execConvC2s c ix s
  | .poolMax c ix => Sys2Proof.Machine.execPoolMax c ix s
  | .poolAvg c ix => Sys2Proof.Machine.execPoolAvg c ix s
  | .poolMaxBwd c ix => Sys2Proof.Machine.execPoolMaxBwd c ix s
  | .poolAvgBwd c ix => Sys2Proof.Machine.execPoolAvgBwd c ix s
  | .attendFwd c ix => Sys2Proof.Machine.execAttendFwd c ix s
  | .attendBwd c ix => Sys2Proof.Machine.execAttendBwd c ix s
  | .attendMixed c ix => Sys2Proof.Machine.execAttendMixed c ix s
  | .scatterKv c ix => Sys2Proof.Machine.execScatterKv c ix s
  | .vecBinary c ix => Sys2Proof.Machine.execVecBinary c ix s
  | .vecFma c ix => Sys2Proof.Machine.execVecFma c ix s
  | .vecUnary c ix => Sys2Proof.Machine.execVecUnary c ix s
  | .vecReduce c ix => Sys2Proof.Machine.execVecReduce c ix s
  | .vecConvert c ix => Sys2Proof.Machine.execVecConvert c ix s
  | .vecImac c ix => Sys2Proof.Machine.execVecImac c ix s
  | .vecNarrow c ix => Sys2Proof.Machine.execVecNarrow c ix s
  | .vecCompare c ix => Sys2Proof.Machine.execVecCompare c ix s
  | .drain c ix => Sys2Proof.Machine.execDrain c ix s
  | .reduceSend c ix => Sys2Proof.Machine.execReduceSend c ix s
  | .reduceRead c ix => Sys2Proof.Machine.execReduceRead c ix s
  | .reduceStats c ix => Sys2Proof.Machine.execReduceStats c ix s
  | .mediaDecode c ix => Sys2Proof.Machine.execMediaDecode c ix s
  | .mediaEncode c ix => Sys2Proof.Machine.execMediaEncode c ix s
  | .mediaPyramid c ix => Sys2Proof.Machine.execMediaPyramid c ix s
  | .mediaCrop c ix => Sys2Proof.Machine.execMediaCrop c ix s
  | .mediaPack c ix => Sys2Proof.Machine.execMediaPack c ix s
  | .legacyCrop c ix => Sys2Proof.Machine.execLegacyCrop c ix s
  | .legacyResize c ix => Sys2Proof.Machine.execLegacyResize c ix s
  | .legacyFlip c ix => Sys2Proof.Machine.execLegacyFlip c ix s
  | .legacyRotate c ix => Sys2Proof.Machine.execLegacyRotate c ix s
  | .rand c ix => Sys2Proof.Machine.execRand c ix s
  | .sync c ix => Sys2Proof.Machine.execSync c ix s
  | .chainBegin c ix => Sys2Proof.Machine.execChainBegin c ix s
  | .chainStage c ix => Sys2Proof.Machine.execChainStage c ix s
  | .chainEnd c ix => Sys2Proof.Machine.execChainEnd c ix s
  | .leaseTakeRead c ix => Sys2Proof.Machine.execLeaseTakeRead c ix s
  | .leaseTakeCompare c ix => Sys2Proof.Machine.execLeaseTakeCompare c ix s
  | .leaseTakeWrite c ix => Sys2Proof.Machine.execLeaseTakeWrite c ix s
  | .leaseRelease c ix => Sys2Proof.Machine.execLeaseRelease c ix s
  | .leaseCheck c ix => Sys2Proof.Machine.execLeaseCheck c ix s
  | .statTime c ix => Sys2Proof.Machine.execStatTime c ix s
  | .statStep c ix => Sys2Proof.Machine.execStatStep c ix s
  | .statCores c ix => Sys2Proof.Machine.execStatCores c ix s
  | .engineBeat e b => Sys2Proof.Machine.execEngineBeat e b s
  | .shadowSwitch x => Sys2Proof.Machine.execShadowSwitch x s
  | .drainBegin e beats => Sys2Proof.Machine.execDrainBegin e beats s
  | .instructionIssue c => Sys2Proof.Machine.execInstructionIssue c s
  | .haloCopy c ix l => Sys2Proof.Machine.execHaloCopy c ix l s
  | .queueTailWrite addr => Sys2Proof.Machine.execQueueTailWrite addr s
  | .commandStart k => Sys2Proof.Machine.execCommandStart k s
  | .mark ctx q => Sys2Proof.Machine.execMark ctx q s
  | .fillCommandStart k => Sys2Proof.Machine.execFillCommandStart k s
  | .commandCommit c => Sys2Proof.Machine.execCommandCommit c s
  | .noticeTimeout tag => Sys2Proof.Machine.execNoticeTimeout tag s
  | .pieceEnd c => Sys2Proof.Machine.execPieceEnd c s
  | .commandKill c => Sys2Proof.Machine.execCommandKill c s
  | .loadRequest ctx => Sys2Proof.Machine.execLoadRequest ctx s
  | .retranslation k => Sys2Proof.Machine.execRetranslation k s
  | .keyApply k => Sys2Proof.Machine.execKeyApply k s
  | .imemLoadStart k => Sys2Proof.Machine.execImemLoadStart k s
  | .imemLoadDone k => Sys2Proof.Machine.execImemLoadDone k s
  | .keyInject k v => Sys2Proof.Machine.execKeyInject k v s
  | .keySchedApply k => Sys2Proof.Machine.execKeySchedApply k s
  | .keySchedPreempt k => Sys2Proof.Machine.execKeySchedPreempt k s
  | .wlkApply k => Sys2Proof.Machine.execWlkApply k s
  | .clmApply k => Sys2Proof.Machine.execClmApply k s
  | .contextRun ctx => Sys2Proof.Machine.execContextRun ctx s
  | .contextSuspend ctx => Sys2Proof.Machine.execContextSuspend ctx s
  | .suspendComplete ctx => Sys2Proof.Machine.execSuspendComplete ctx s
  | .contextTeardown ctx => Sys2Proof.Machine.execContextTeardown ctx s
  | .contextAbsent ctx => Sys2Proof.Machine.execContextAbsent ctx s
  | .plbApply hub => Sys2Proof.Machine.execPlbApply hub s
  | .syncExchange => Sys2Proof.Machine.execSyncExchange s
  | .plumbSync port m => Sys2Proof.Machine.execPlumbSync port m s
  | .exchangeMissed => Sys2Proof.Machine.execExchangeMissed s
  | .holdoverTimeout => Sys2Proof.Machine.execHoldoverTimeout s
  | .beatRateWindow die => Sys2Proof.Machine.execBeatRateWindow die s
  | .governorSupply => Sys2Proof.Machine.execGovernorSupply s
  | .ducApply hub v => Sys2Proof.Machine.execDucApply hub v s
  | .ductusHeldFlush die => Sys2Proof.Machine.execDuctusHeldFlush die s
  | .cntCaptureAt t => Sys2Proof.Machine.execCntCaptureAt t s
  | .captureArmReceived u => Sys2Proof.Machine.execCaptureArmReceived u s
  | .captureLatch u => Sys2Proof.Machine.execCaptureLatch u s
  | .captureDump hub => Sys2Proof.Machine.execCaptureDump hub s
  | .cntCaptureCancel v => Sys2Proof.Machine.execCntCaptureCancel v s
  | .cntApply hub v => Sys2Proof.Machine.execCntApply hub v s
  | .registerWrite m addr size v => Sys2Proof.Machine.execRegisterWrite m addr size v s
  | .accumulate hub port peer p => Sys2Proof.Machine.execAccumulate hub port peer p s
  | .windowClose hub r => Sys2Proof.Machine.execWindowClose hub r s
  | .slotClearDone hub r => Sys2Proof.Machine.execSlotClearDone hub r s
  | .accumulateReply tag r => Sys2Proof.Machine.execAccumulateReply tag r s
  | .accumulateRetransmit tag => Sys2Proof.Machine.execAccumulateRetransmit tag s
  | .accumulateRetry tag => Sys2Proof.Machine.execAccumulateRetry tag s
  | .mortarTimeout c => Sys2Proof.Machine.execMortarTimeout c s
  | .morApply hub => Sys2Proof.Machine.execMorApply hub s
  | .morShardApply hub => Sys2Proof.Machine.execMorShardApply hub s
  | .morLeaseDrop hub v => Sys2Proof.Machine.execMorLeaseDrop hub v s
  | .morRcptSel hub v => Sys2Proof.Machine.execMorRcptSel hub v s
  | .leaseRequest hub origin r => Sys2Proof.Machine.execLeaseRequest hub origin r s
  | .leaseGrant hub tag => Sys2Proof.Machine.execLeaseGrant hub tag s
  | .leaseReply tag o => Sys2Proof.Machine.execLeaseReply tag o s
  | .leaseTimeout hub tag => Sys2Proof.Machine.execLeaseTimeout hub tag s
  | .linkFrame port f => Sys2Proof.Machine.execLinkFrame port f s
  | .laneDrop port lane why => Sys2Proof.Machine.execLaneDrop port lane why s
  | .laneRetrainDone port lanes => Sys2Proof.Machine.execLaneRetrainDone port lanes s
  | .portTrainingDone port lanes reversed inverted asym => Sys2Proof.Machine.execPortTrainingDone port lanes reversed inverted asym s
  | .sessionHello port pkg pk => Sys2Proof.Machine.execSessionHello port pkg pk s
  | .sessionKemKey port key => Sys2Proof.Machine.execSessionKemKey port key s
  | .sessionKemCiphertext port ct => Sys2Proof.Machine.execSessionKemCiphertext port ct s
  | .sessionSignature port msg sig => Sys2Proof.Machine.execSessionSignature port msg sig s
  | .sessionRenewal port => Sys2Proof.Machine.execSessionRenewal port s
  | .heartbeatSend port => Sys2Proof.Machine.execHeartbeatSend port s
  | .heartbeat port pkg state => Sys2Proof.Machine.execHeartbeat port pkg state s
  | .heartbeatMissed port => Sys2Proof.Machine.execHeartbeatMissed port s
  | .portFailedRetry port => Sys2Proof.Machine.execPortFailedRetry port s
  | .portOff port => Sys2Proof.Machine.execPortOff port s
  | .fullModeRestored port lanes => Sys2Proof.Machine.execFullModeRestored port lanes s
  | .lnkApply hub => Sys2Proof.Machine.execLnkApply hub s
  | .lnkFlowsReset hub => Sys2Proof.Machine.execLnkFlowsReset hub s
  | .packetForward port p => Sys2Proof.Machine.execPacketForward port p s
  | .routeTimeout hub n => Sys2Proof.Machine.execRouteTimeout hub n s
  | .readRequest port p => Sys2Proof.Machine.execReadRequest port p s
  | .readCompletion port p => Sys2Proof.Machine.execReadCompletion port p s
  | .write port p => Sys2Proof.Machine.execWrite port p s
  | .writeReply port p => Sys2Proof.Machine.execWriteReply port p s
  | .remoteAccessTimeout tag => Sys2Proof.Machine.execRemoteAccessTimeout tag s
  | .wake port => Sys2Proof.Machine.execWake port s
  | .faultReport port data => Sys2Proof.Machine.execFaultReport port data s
  | .d2dLaneRepair a b repaired => Sys2Proof.Machine.execD2dLaneRepair a b repaired s
  | .hostWindowRead window off len => Sys2Proof.Machine.execHostWindowRead window off len s
  | .hostWindowWrite window off data => Sys2Proof.Machine.execHostWindowWrite window off data s
  | .endpointReset => Sys2Proof.Machine.execEndpointReset s
  | .doeColophon nonce => Sys2Proof.Machine.execDoeColophon nonce s
  | .doeRecoveryImage ch => Sys2Proof.Machine.execDoeRecoveryImage ch s
  | .entdaa addr => Sys2Proof.Machine.execEntdaa addr s
  | .identify tag => Sys2Proof.Machine.execIdentify tag s
  | .regRead tag addr => Sys2Proof.Machine.execRegRead tag addr s
  | .regWrite tag addr v => Sys2Proof.Machine.execRegWrite tag addr v s
  | .telemetry tag n => Sys2Proof.Machine.execTelemetry tag n s
  | .health tag => Sys2Proof.Machine.execHealth tag s
  | .mgmtFaultReport tag => Sys2Proof.Machine.execMgmtFaultReport tag s
  | .colophon tag nonce off => Sys2Proof.Machine.execColophon tag nonce off s
  | .recoveryChunk tag ch => Sys2Proof.Machine.execRecoveryChunk tag ch s
  | .norWriteDone => Sys2Proof.Machine.execNorWriteDone s
  | .bypass => Sys2Proof.Machine.execBypass s
  | .idcode => Sys2Proof.Machine.execIdcode s
  | .samplePreload => Sys2Proof.Machine.execSamplePreload s
  | .extest => Sys2Proof.Machine.execExtest s
  | .extestPulse => Sys2Proof.Machine.execExtestPulse s
  | .extestTrain => Sys2Proof.Machine.execExtestTrain s
  | .clamp => Sys2Proof.Machine.execClamp s
  | .highz => Sys2Proof.Machine.execHighz s
  | .privateScanInstruction code => Sys2Proof.Machine.execPrivateScanInstruction code s
  | .prtGrantGo hub v => Sys2Proof.Machine.execPrtGrantGo hub v s
  | .memApply hub => Sys2Proof.Machine.execMemApply hub s
  | .llmCacheMode hub => Sys2Proof.Machine.execLlmCacheMode hub s
  | .llmScratchpadMode hub => Sys2Proof.Machine.execLlmScratchpadMode hub s
  | .llmSwitchDone hub => Sys2Proof.Machine.execLlmSwitchDone hub s
  | .llmFlush hub part => Sys2Proof.Machine.execLlmFlush hub part s
  | .llmReleaseKept hub part => Sys2Proof.Machine.execLlmReleaseKept hub part s
  | .patrolScrub hub ctrl space off r => Sys2Proof.Machine.execPatrolScrub hub ctrl space off r s
  | .regulatorRefill hub => Sys2Proof.Machine.execRegulatorRefill hub s
  | .accessAdmit hub part res => Sys2Proof.Machine.execAccessAdmit hub part res s
  | .enrol token => Sys2Proof.Machine.execEnrol token s
  | .ownerRelease token => Sys2Proof.Machine.execOwnerRelease token s
  | .debugUnlock token => Sys2Proof.Machine.execDebugUnlock token s
  | .keyLoadFresh => Sys2Proof.Machine.execKeyLoadFresh s
  | .keyLoadSealed => Sys2Proof.Machine.execKeyLoadSealed s
  | .secKeyErase v => Sys2Proof.Machine.execSecKeyErase v s
  | .powerGood t => Sys2Proof.Machine.execPowerGood t s
  | .selfTestDone t => Sys2Proof.Machine.execSelfTestDone t s
  | .inputRise mv => Sys2Proof.Machine.execInputRise mv s
  | .inputUndervoltage mv => Sys2Proof.Machine.execInputUndervoltage mv s
  | .inputOvervoltage mv => Sys2Proof.Machine.execInputOvervoltage mv s
  | .enableLow => Sys2Proof.Machine.execEnableLow s
  | .enableHigh => Sys2Proof.Machine.execEnableHigh s
  | .pwrApply => Sys2Proof.Machine.execPwrApply s
  | .requestS0 => Sys2Proof.Machine.execRequestS0 s
  | .requestS1 => Sys2Proof.Machine.execRequestS1 s
  | .requestS2 => Sys2Proof.Machine.execRequestS2 s
  | .wakePin => Sys2Proof.Machine.execWakePin s
  | .wakeTimer => Sys2Proof.Machine.execWakeTimer s
  | .s2ExitDone => Sys2Proof.Machine.execS2ExitDone s
  | .clusterGate k => Sys2Proof.Machine.execClusterGate k s
  | .governorGrant die => Sys2Proof.Machine.execGovernorGrant die s
  | .nullBeatRelease e => Sys2Proof.Machine.execNullBeatRelease e s
  | .thermalWarn die c => Sys2Proof.Machine.execThermalWarn die c s
  | .thermalTrip die c => Sys2Proof.Machine.execThermalTrip die c s
  | .tripRailsOff => Sys2Proof.Machine.execTripRailsOff s
  | .coolantLow inlet outlet flow ms => Sys2Proof.Machine.execCoolantLow inlet outlet flow ms s
  | .mirApply hub => Sys2Proof.Machine.execMirApply hub s
  | .mirResync hub v => Sys2Proof.Machine.execMirResync hub v s
  | .resyncDone hub m => Sys2Proof.Machine.execResyncDone hub m s
  | .mirrorMark hub m tag stamp => Sys2Proof.Machine.execMirrorMark hub m tag stamp s
  | .mirrorBreak hub m denied => Sys2Proof.Machine.execMirrorBreak hub m denied s
  | .streamOpen c ix n => Sys2Proof.Machine.execStreamOpen c ix n s
  | .streamSwitch hub e => Sys2Proof.Machine.execStreamSwitch hub e s
  | .pictureDecode c ix n => Sys2Proof.Machine.execPictureDecode c ix n s
  | .audioDecode c ix n => Sys2Proof.Machine.execAudioDecode c ix n s
  | .medApply hub => Sys2Proof.Machine.execMedApply hub s
  | .evtClaim hub k => Sys2Proof.Machine.execEvtClaim hub k s
  | .evtComplete hub k n => Sys2Proof.Machine.execEvtComplete hub k n s
  | .evtRaise hub n => Sys2Proof.Machine.execEvtRaise hub n s
  | .wholeDieFault f => Sys2Proof.Machine.execWholeDieFault f s
  | .s2EntryDone => Sys2Proof.Machine.execS2EntryDone s
  | .inputOvervoltageClear mv => Sys2Proof.Machine.execInputOvervoltageClear mv s

end Sys2Proof.Machine
end

