-- ==== Sys2Proof/Safety.lean ====
section
/-! DEFINITION. What counts as a safe step, the invariants, and the frame predicates in which claims are stated. -/

namespace Sys2Proof.Machine

/-- Memory and scratchpad are in canonical form: addresses strictly rising, no listed 0. -/
def State.wf (s : State) : Bool := Memory.wf s.mem && Memory.wf s.scratch

/-- A step that neither faults nor refuses. -/
def SafeStep (s : State) : Prop := ∃ t, step s = .next t

/-- The commands of the supply, which act with the rails off (R438 to R441, R456). -/
def Supply : Instr → Bool
  | .inputRise _ | .inputUndervoltage _ | .inputOvervoltage _ | .inputOvervoltageClear _ | .enableLow | .enableHigh | .tripRailsOff => true
  | _ => false

/-- The state with the front command taken and its answer `t`: what a command that runs answers is `settle`d. -/
def Answers (c : Instr) (s t : State) : Prop := exec c s = .next (settle s t)

/-- Every byte of memory reads as before. -/
def SameMemory (s t : State) : Prop := ∀ a, memGet t.mem a = memGet s.mem a

/-- Every byte of memory outside `n` bytes from `a` reads as before. -/
def SameMemoryBut (a n : Nat) (s t : State) : Prop := ∀ x, (x < a ∨ a + n ≤ x) → memGet t.mem x = memGet s.mem x

/-- No register's stored value, pending copy or value in force differs. -/
def SameRegisters (s t : State) : Prop := t.regs = s.regs ∧ t.pend = s.pend ∧ t.live = s.live

/-- The effect of a Quento word on its targets in order; none where one of them is skipped, fails or waits. -/
def effectAll (body : Here → Act Unit) : List Here → State → Option State
  | [], s => some s
  | h :: t, s =>
    match body h s with
    | .ok (_, u) => effectAll body t u
    | .error _ => none

/-- Whether a word's placing is one that its class has, with no core at or above LOGICAL_CORES (R142). -/
def placed (pl : Placing) (h : Here) : Bool :=
  h.w.lc / 2 ^ hCores h.prog == 0 && (match pl with
    | .either => true
    | .once => true
    | .pinned => h.w.lc != 0
    | .spread => h.w.lc == 0)

/-- The targets of a word under a placing (R142). -/
def aims (pl : Placing) (h : Here) : List Here := if pl = .once then [h] else targets h

/-- A word of kind `is` with index `i` has issued in the running command on lead cluster `c` and waits for none before it, its placing is
allowed, the native instruction that stands for it names a present core of each target (R119), and its effect on every target, without a
skip, a failure or a wait, leads to `t`. -/
def Ready (is : Word128 → Bool) (pl : Placing) (body : Here → Act Unit) (c i : Nat) (s t : State) : Prop :=
  s.power.rails = true ∧ c < 64 ∧ s.inFlight is c i = true ∧
    ∃ r, s.runOf c = some r ∧ placed pl (s.hereAt r i) = true
      ∧ (aims pl (s.hereAt r i)).all (fun x => !s.fusedOut x) = true ∧ effectAll body (aims pl (s.hereAt r i)) s = some t

/-- The word runs: it has that effect and leaves the scoreboard (R110); nothing else happens. -/
def Runs (x : Instr) (is : Word128 → Bool) (pl : Placing) (body : Here → Act Unit) (c i : Nat) : Prop :=
  ∀ s t, Ready is pl body c i s t → Answers x s (t.finish c i)

/-- No parity injection is armed on any cluster (R130), and no running command meets a fault of cluster memory, last-level memory, an
accumulator or instruction memory (R216, R318, R398). -/
def Calm (s : State) : Prop := (∀ k ∈ s.keystones, k.inject = []) ∧ ∀ r ∈ s.runs, r.struck = Struck.none

/-- Nothing differs but the records of running commands with what they hold for their commit (R117, R185), the packets held with them
(R253), scratchpad, the counters and the place in the free values; memory keeps every byte. -/
def OnlyCommands (s t : State) : Prop :=
  SameMemory s t ∧ t = { s with mem := t.mem, runs := t.runs, scratch := t.scratch, scratchG := t.scratchG, sends := t.sends,
                                nextTag := t.nextTag, counters := t.counters, fresh := t.fresh }

/-- The word, where it runs with no parity injection armed, completes and changes only that. -/
def Quiet (x : Instr) (is : Word128 → Bool) (pl : Placing) (body : Here → Act Unit) (c i : Nat) : Prop :=
  ∀ s t, Calm s → Ready is pl body c i s t → ∃ u, exec x s = .next u ∧ OnlyCommands s u

/-- What a LEASE word of kind `is` does in flight: its request, its noted release, or its completion (R237, R238). -/
def LeaseRuns (x : Instr) (is : Word128 → Bool) (c i : Nat) : Prop :=
  ∀ (s : State) (r : Run), s.power.rails = true → c < 64 → s.inFlight is c i = true → s.runOf c = some r →
    (∀ u k t, r.leases.find? (fun u => u.index == i) = none → leaseBegin (s.hereAt r i) s = .ok (some (u, k), t) → u.op ≠ .release →
      Answers x s ((t.leaseAsk r u u.op k).2.setRun c (fun r => { r with leases := r.leases ++ [{ u with tag := (t.leaseAsk r u u.op k).1 }] })))
    ∧ (∀ u k t, r.leases.find? (fun u => u.index == i) = none → leaseBegin (s.hereAt r i) s = .ok (some (u, k), t) → u.op = .release →
        Answers x s ((t.setRun c (fun r => { r with leases := r.leases ++ [u] })).finish c i))
    ∧ (∀ u, r.leases.find? (fun u => u.index == i) = some u → u.phase ≠ .asked → u.op ≠ .takeRead →
        Answers x s (s.finish r.lead (s.hereAt r i).w.ix))
    ∧ ∀ u t, r.leases.find? (fun u => u.index == i) = some u → u.phase ≠ .asked → u.op = .takeRead →
        writeKeys (s.hereAt r i) (((range' (memKey (gSpace u.ticket) (gOff u.ticket)) 32).zip (ticketBytes u)).map
          (fun x => (x.1, x.2.toNat, 0))) s = .ok ((), t) → Answers x s (t.finish r.lead (s.hereAt r i).w.ix)

/-- The exact product of two FP16 codes, the amount it adds to a word in units of 2^-48, and the word that a list of them gives (R65). -/
def halfProduct (p : Nat × Nat) : Fp := fpMul (fpOf false p.1) (fpOf false p.2)

def halfUnits (p : Nat × Nat) : Int :=
  match halfProduct p with
  | .fin s m e => fpInt (-48) s m e
  | _ => 0

def halfSum (l : List (Nat × Nat)) : Exa := (accumulate (Acc.start 0) (l.map halfProduct)).finish

/-- The place of an FP16 or FP32 code that is no NaN in the order of values: its magnitude bits with its sign, so that both zeros are 0. -/
def codeOrder (w : Bool) (n : Nat) : Int :=
  let half := if w then 2 ^ 31 else 2 ^ 15
  if n < half then Int.ofNat n else -(Int.ofNat (n - half))

end Sys2Proof.Machine
end

