-- ==== Sys2Proof/Certificates/Slice0/Obligations.lean ====
section
/-! DEFINITION. What is claimed of the model: one proposition for each obligation, in the order of OBLIGATIONS.json. -/

open Sys2Proof Sys2Proof.Machine

/-! ## The machine -/

/-- One step of a state with command c at the front of its queue is exec of c on the state with the queue's rest, for every command and
every state. -/
def Obligations.FrontCommandRuns : Prop :=
  ∀ (c : Instr) (s : State), step { s with pending := c :: s.pending } = exec c s

/-- The model's choice (log entry 4): with no command waiting a step is one plumb tick. With the rails on and no time to catch up the plumb
count rises by 1, memory, registers and queue stay; with the rails off nothing changes. -/
def Obligations.IdleStepIsOneTick : Prop :=
  ∀ s : State, s.pending = [] →
    step s = .next (tick s)
      ∧ (s.power.rails = false → tick s = s)
      ∧ (s.power.rails = true → (tick s).plumb = s.plumb.tick ∧ SameRegisters s (tick s) ∧ (tick s).mem = s.mem
          ∧ (tick s).pending = s.pending)
      ∧ (s.power.rails = true → s.plumb.ahead = 0 → (tick s).plumb.now = s.plumb.now + 1#64)

/-- After reset memory and scratchpad are in canonical form and list nothing, the queue is empty, every register of every block reads its
reset value both as stored and in force, no context, claim, receipt, lease or remote access exists, and every port is OFF. -/
def Obligations.ResetLeavesTheResetValues : Prop :=
  State.reset.wf = true ∧ State.reset.mem = [] ∧ State.reset.scratch = [] ∧ State.reset.pending = []
    ∧ (∀ (b : Nat) (r : Reg), State.reset.reg b r = BitVec.ofNat 64 r.resetVal ∧ State.reset.live' b r = BitVec.ofNat 64 r.resetVal)
    ∧ (∀ c, (State.reset.ctx c).st = .absent) ∧ (∀ n, n < 30 → (State.reset.port n).st = .off)
    ∧ State.reset.claims = [] ∧ State.reset.receipts = [] ∧ State.reset.readers = [] ∧ State.reset.remotes = []
    ∧ State.reset.runs = [] ∧ State.reset.plumb.now = 0#64 ∧ State.reset.plumb.st = .free

/-- Whatever command is at the front, and also when none waits, a step that answers a next state from a state whose memory and scratchpad
are in canonical form answers one whose memory and scratchpad are. -/
def Obligations.EveryStepKeepsTheCanonicalForm : Prop :=
  ∀ s t : State, s.wf = true → step s = .next t → t.wf = true

/-- A command changes everything but the queue: the commands that wait behind it wait unchanged. -/
def Obligations.CommandsLeaveTheQueue : Prop :=
  ∀ (c : Instr) (s t : State), exec c s = .next t → t.pending = s.pending

/-- A command other than a private scan instruction answers a next state from every state when the units it names exist, and faults with
noSuchUnit from every state when one does not. A private scan instruction answers a next state, or is refused when the rails are on and
debug is unlocked with SCOPE bit 0. -/
def Obligations.CommandsStopOnlyAtMissingUnits : Prop :=
  (∀ (c : Instr) (s : State), (∀ n, c ≠ .privateScanInstruction n) →
    (c.wf = true → ∃ t, exec c s = .next t) ∧ (c.wf = false → ∃ what, exec c s = .fault (.noSuchUnit what)))
  ∧ ∀ (n : Nat) (s : State),
    if s.power.rails = true ∧ s.sec.debug = true ∧ s.sec.scope.getLsbD 0 = true then
      exec (.privateScanInstruction n) s = .refused (.privateScan n)
    else ∃ t, exec (.privateScanInstruction n) s = .next t

/-- With the rails off, a command that is no event of the supply changes nothing: memory, read byte by byte, and every other piece of state
stay. -/
def Obligations.NothingHappensWithTheRailsOff : Prop :=
  ∀ (c : Instr) (s t : State), s.power.rails = false → Supply c = false → exec c s = .next t → t = settle s s ∧ SameMemory s t

/-! ## Quento words -/

/-- A MOVE of form 0, 1 or 2 and a RAND that are in flight, whose placing is allowed and whose effect goes through on every target, have
that effect on the targets in order and leave the scoreboard; nothing else changes. -/
def Obligations.MoveAndRandomWordsRun : Prop :=
  ∀ c i : Nat,
    Runs (.move c i) (fun w => w.op == 0x000 && (w.form == 0 || decide (3 ≤ w.form))) .either moveCopy c i
      ∧ Runs (.moveMulticast c i) (fun w => w.op == 0x000 && w.form == 1) .either moveCast c i
      ∧ Runs (.moveFill c i) (fun w => w.op == 0x000 && w.form == 2) .either moveFill c i
      ∧ Runs (.rand c i) (fun w => w.op == 0x280) .either doRand c i

/-- MATMUL, the five forms of CONV, DRAIN, the four POOL words, the three ATTEND words and SCATTER_KV run in the same sense: their effect on the
targets in order, then off the scoreboard. -/
def Obligations.ProductWordsRun : Prop :=
  ∀ c i : Nat,
    Runs (.matmul c i) (fun w => w.op == 0x040) .either doMatmul c i
      ∧ Runs (.convDirect c i) (fun w => w.op == 0x080) .either (convDone (doConv false false)) c i
      ∧ Runs (.convMin2 c i) (fun w => w.op == 0x081) .either (convDone (doMin false)) c i
      ∧ Runs (.convMin4 c i) (fun w => w.op == 0x082) .either (convDone (doMin true)) c i
      ∧ Runs (.convS2c c i) (fun w => w.op == 0x083) .either (convDone (doConv true false)) c i
      ∧ Runs (.convC2s c i) (fun w => w.op == 0x084) .either (convDone (doConv false true)) c i
      ∧ Runs (.drain c i) (fun w => w.op == 0x1C0) .either doDrain c i
      ∧ Runs (.poolMax c i) (fun w => w.op == 0x0C0) .either doPoolMax c i
      ∧ Runs (.poolAvg c i) (fun w => w.op == 0x0C1) .either doPoolAvg c i
      ∧ Runs (.poolMaxBwd c i) (fun w => w.op == 0x0C2) .either doPoolMaxBwd c i
      ∧ Runs (.poolAvgBwd c i) (fun w => w.op == 0x0C3) .either doPoolAvgBwd c i
      ∧ Runs (.attendFwd c i) (fun w => w.op == 0x100) .either doAttendFwd c i
      ∧ Runs (.attendBwd c i) (fun w => w.op == 0x101) .either doAttendBwd c i
      ∧ Runs (.attendMixed c i) (fun w => w.op == 0x102) .either doAttendMixed c i
      ∧ Runs (.scatterKv c i) (fun w => w.op == 0x140) .either doScatter c i

/-- The eight VEC words run in the same sense. -/
def Obligations.VectorWordsRun : Prop :=
  ∀ c i : Nat,
    Runs (.vecBinary c i) (fun w => w.op == 0x180) .either doVecBinary c i
      ∧ Runs (.vecFma c i) (fun w => w.op == 0x181) .either doVecFma c i
      ∧ Runs (.vecUnary c i) (fun w => w.op == 0x182) .either doVecUnary c i
      ∧ Runs (.vecReduce c i) (fun w => w.op == 0x183) .either doVecReduce c i
      ∧ Runs (.vecConvert c i) (fun w => w.op == 0x184) .either doVecConvert c i
      ∧ Runs (.vecImac c i) (fun w => w.op == 0x185) .either doVecImac c i
      ∧ Runs (.vecNarrow c i) (fun w => w.op == 0x186) .either doVecNarrow c i
      ∧ Runs (.vecCompare c i) (fun w => w.op == 0x187) .either doVecCompare c i

/-- SYNC, CHAIN.BEGIN, CHAIN.STAGE, CHAIN.END, STAT.TIME, STAT.STEP, STAT.CORES and REDUCE.SEND run in the same sense. REDUCE.READ and
REDUCE.STATS whose window is closed run so too and end their wait (R254). -/
def Obligations.SequencingWordsRun : Prop :=
  ∀ c i : Nat,
    Runs (.sync c i) (fun w => w.op == 0x2C0) .once doSync c i
      ∧ Runs (.chainBegin c i) (fun w => w.op == 0x300) .once doChainBegin c i
      ∧ Runs (.chainStage c i) (fun w => w.op == 0x301) .once doChainStage c i
      ∧ Runs (.chainEnd c i) (fun w => w.op == 0x302) .once doChainEnd c i
      ∧ Runs (.statTime c i) (fun w => w.op == 0x380) .either doStatTime c i
      ∧ Runs (.statStep c i) (fun w => w.op == 0x381) .either doStatStep c i
      ∧ Runs (.statCores c i) (fun w => w.op == 0x382) .either doStatCores c i
      ∧ Runs (.reduceSend c i) (fun w => w.op == 0x200) .either doReduceSend c i
      ∧ (∀ s t, Ready (fun w => w.op == 0x201) .either doReduceRead c i s t →
          Answers (.reduceRead c i) s ((t.finish c i).setRun c (fun r => { r with mortarSince := none })))
      ∧ (∀ s t, Ready (fun w => w.op == 0x202) .either doReduceStats c i s t →
          Answers (.reduceStats c i) s ((t.finish c i).setRun c (fun r => { r with mortarSince := none })))

/-- Frame: where one of these words runs and no parity injection is armed, no byte of memory, no register, context, queue, port or other
state changes: only the command's own record with what it holds for its commit, scratchpad, packets held for the commit, counters and the
place in the free values. Named: the MOVE forms (with a source hint of 0 or 1), RAND, MATMUL, CONV, POOL, ATTEND, SCATTER_KV, VEC, DRAIN, SYNC,
CHAIN, STAT and REDUCE. -/
def Obligations.WordsHoldTheirOutputs : Prop :=
  ∀ c i : Nat,
    Quiet (.move c i) (fun w => w.op == 0x000 && (w.form == 0 || decide (3 ≤ w.form)) && decide (w.mod % 4 < 2)) .either moveCopy c i
      ∧ Quiet (.moveMulticast c i) (fun w => w.op == 0x000 && w.form == 1 && decide (w.mod % 4 < 2)) .either moveCast c i
      ∧ Quiet (.moveFill c i) (fun w => w.op == 0x000 && w.form == 2) .either moveFill c i
      ∧ Quiet (.rand c i) (fun w => w.op == 0x280) .either doRand c i
      ∧ Quiet (.matmul c i) (fun w => w.op == 0x040) .either doMatmul c i
      ∧ Quiet (.convDirect c i) (fun w => w.op == 0x080) .either (convDone (doConv false false)) c i
      ∧ Quiet (.convMin2 c i) (fun w => w.op == 0x081) .either (convDone (doMin false)) c i
      ∧ Quiet (.convMin4 c i) (fun w => w.op == 0x082) .either (convDone (doMin true)) c i
      ∧ Quiet (.convS2c c i) (fun w => w.op == 0x083) .either (convDone (doConv true false)) c i
      ∧ Quiet (.convC2s c i) (fun w => w.op == 0x084) .either (convDone (doConv false true)) c i
      ∧ Quiet (.drain c i) (fun w => w.op == 0x1C0) .either doDrain c i
      ∧ Quiet (.poolMax c i) (fun w => w.op == 0x0C0) .either doPoolMax c i
      ∧ Quiet (.poolAvg c i) (fun w => w.op == 0x0C1) .either doPoolAvg c i
      ∧ Quiet (.poolMaxBwd c i) (fun w => w.op == 0x0C2) .either doPoolMaxBwd c i
      ∧ Quiet (.poolAvgBwd c i) (fun w => w.op == 0x0C3) .either doPoolAvgBwd c i
      ∧ Quiet (.attendFwd c i) (fun w => w.op == 0x100) .either doAttendFwd c i
      ∧ Quiet (.attendBwd c i) (fun w => w.op == 0x101) .either doAttendBwd c i
      ∧ Quiet (.attendMixed c i) (fun w => w.op == 0x102) .either doAttendMixed c i
      ∧ Quiet (.scatterKv c i) (fun w => w.op == 0x140) .either doScatter c i
      ∧ Quiet (.vecBinary c i) (fun w => w.op == 0x180) .either doVecBinary c i
      ∧ Quiet (.vecFma c i) (fun w => w.op == 0x181) .either doVecFma c i
      ∧ Quiet (.vecUnary c i) (fun w => w.op == 0x182) .either doVecUnary c i
      ∧ Quiet (.vecReduce c i) (fun w => w.op == 0x183) .either doVecReduce c i
      ∧ Quiet (.vecConvert c i) (fun w => w.op == 0x184) .either doVecConvert c i
      ∧ Quiet (.vecImac c i) (fun w => w.op == 0x185) .either doVecImac c i
      ∧ Quiet (.vecNarrow c i) (fun w => w.op == 0x186) .either doVecNarrow c i
      ∧ Quiet (.vecCompare c i) (fun w => w.op == 0x187) .either doVecCompare c i
      ∧ Quiet (.sync c i) (fun w => w.op == 0x2C0) .once doSync c i
      ∧ Quiet (.chainBegin c i) (fun w => w.op == 0x300) .once doChainBegin c i
      ∧ Quiet (.chainStage c i) (fun w => w.op == 0x301) .once doChainStage c i
      ∧ Quiet (.chainEnd c i) (fun w => w.op == 0x302) .once doChainEnd c i
      ∧ Quiet (.statTime c i) (fun w => w.op == 0x380) .either doStatTime c i
      ∧ Quiet (.statStep c i) (fun w => w.op == 0x381) .either doStatStep c i
      ∧ Quiet (.statCores c i) (fun w => w.op == 0x382) .either doStatCores c i
      ∧ Quiet (.reduceSend c i) (fun w => w.op == 0x200) .either doReduceSend c i
      ∧ Quiet (.reduceRead c i) (fun w => w.op == 0x201) .either doReduceRead c i
      ∧ Quiet (.reduceStats c i) (fun w => w.op == 0x202) .either doReduceStats c i

/-- A command reads what it wrote. Bytes written to distinct addresses of memory read as written for the same command and every other byte
reads as before, memory itself unchanged. Bytes written to a core's scratchpad read as written; a byte of an invalid granule where no
distributed instruction keeps a core's share reads 0 with the tag clear; a byte that such a write leaves in a granule it makes valid reads 0;
granules not written read as before. -/
def Obligations.CommandsReadWhatTheyWrote : Prop :=
  (∀ (h : Here) (cells : List (Nat × Nat × Nat)) (s t : State) (r : Run), s.runOf h.lead = some r → (cells.map (·.1)).Nodup →
    writeKeys h cells s = .ok ((), t) →
    SameMemory s t ∧ ∃ r', t.runOf h.lead = some r' ∧ (∀ c ∈ cells, t.byteFor r' c.1 = c.2.1 % 256)
      ∧ ∀ k, k ∉ cells.map (·.1) → t.byteFor r' k = s.byteFor r k)
  ∧ ∀ (h : Here) (j l : Nat) (cells : List (Nat × Nat × Nat)) (s : State), Calm s → s.wf = true → (cells.map (·.1)).Nodup →
    (∀ o, (∀ r, s.runOf h.lead = some r → r.shareAt o = none) → kvGet s.scratchG (slotOf h.lead j l * 2 ^ 17 + o / 32) = none →
      readScratch h j l [o] s = .ok ([(0, 0)], s))
    ∧ ∃ t, writeScratch h j l cells s = .ok ((), t)
      ∧ (∀ c ∈ cells, ∃ tag, readScratch h j l [c.1] t = .ok ([(c.2.1 % 256, tag)], t))
      ∧ (∀ c ∈ cells, ∀ o, o / 32 = c.1 / 32 → o ∉ cells.map (·.1) →
          (∀ r, s.runOf h.lead = some r → r.shareAt o = none) → kvGet s.scratchG (slotOf h.lead j l * 2 ^ 17 + o / 32) = none →
          ∃ tag, readScratch h j l [o] t = .ok ([(0, tag)], t))
      ∧ ∀ o x, (∀ c ∈ cells, c.1 / 32 ≠ o / 32) → readScratch h j l [o] s = .ok (x, s) → readScratch h j l [o] t = .ok (x, t)

/-- MEDIA.ENCODE, MEDIA.PYRAMID, MEDIA.CROP, MEDIA.PACK and the four LEGACY words run once for their command and leave the scoreboard. -/
def Obligations.MediaWordsRun : Prop :=
  ∀ c i : Nat,
    Runs (.mediaEncode c i) (fun w => w.op == 0x241) .once doEncode c i
      ∧ Runs (.mediaPyramid c i) (fun w => w.op == 0x242) .once doPyramid c i
      ∧ Runs (.mediaCrop c i) (fun w => w.op == 0x243) .once doCrop c i
      ∧ Runs (.mediaPack c i) (fun w => w.op == 0x244) .once doPack c i
      ∧ Runs (.legacyCrop c i) (fun w => w.op == 0x250) .once doLegacyCrop c i
      ∧ Runs (.legacyResize c i) (fun w => w.op == 0x251) .once doLegacyResize c i
      ∧ Runs (.legacyFlip c i) (fun w => w.op == 0x252) .once doLegacyFlip c i
      ∧ Runs (.legacyRotate c i) (fun w => w.op == 0x253) .once doLegacyRotate c i

/-- MEDIA.DECODE in flight starts when its checks pass, and completes once every sample has reported. STREAM_OPEN, PICTURE_DECODE and
AUDIO_DECODE of sample n have the effect of their part of the decode: the opening of the sample, the next picture of the stream that is its
engine's present work, the recording. What a codec makes of the data is free (log entry 9), so a part that stops its command ends as
runPart says. STREAM_SWITCH: the engine takes the stream that the arbitration picks; where it picks none nothing changes. -/
def Obligations.DecodeCommandsRun : Prop :=
  (∀ (c i n : Nat) (s : State) (r : Run), s.power.rails = true → c < 64 → s.inFlight (fun w => w.op == 0x240) c i = true → s.runOf c = some r →
    (∀ t, r.decoding i = none → placed .once (s.hereAt r i) = true → startDecode (s.hereAt r i) s = .ok ((), t) →
      Answers (.mediaDecode c i) s (if ((t.runOf c).bind (fun r => r.decoding i)).isSome then t else t.finish c i))
    ∧ (∀ u dec t, r.decoding i = some u → decOf (s.hereAt r i) = some dec → dec.samples ≤ u.reports.length →
        endDecode (s.hereAt r i) u s = .ok ((), t) →
        Answers (.mediaDecode c i) s (if ((t.runOf c).bind (fun r => r.decoding i)).isNone then t.finish c i else t))
    ∧ (∀ t, openSample n (s.hereAt r i) s = .ok ((), t) → Answers (.streamOpen c i n) s t)
    ∧ (∀ x b dec e, s.streams.find? (fun x => x.lead == r.lead && x.index == (s.hereAt r i).w.ix && x.sample == n) = some x →
        s.holder x = some b → decOf (s.hereAt r i) = some dec →
        parseSample x.entry = some e → (s.medPick x.hub b.engine).map (·.number) = some x.number →
        Answers (.pictureDecode c i n) s (match decodeOne (s.hereAt r i) dec e x b.engine s with
          | .ok (_, t) => t
          | .error _ => runPart (pictureStep n) c i s))
    ∧ (∀ x dec e, s.streams.find? (fun x => x.lead == r.lead && x.index == (s.hereAt r i).w.ix && x.sample == n) = some x →
        decOf (s.hereAt r i) = some dec → parseSample x.entry = some e → 5 ≤ e.codec →
        Answers (.audioDecode c i n) s (match decodeSound (s.hereAt r i) dec e x s with
          | .ok (_, t) => t
          | .error _ => runPart (soundStep n) c i s)))
  ∧ ∀ (hub e : Nat) (s : State), s.power.rails = true → hubOk hub = true → e < 10 →
    (∀ x, s.medPick hub e = some x → Answers (.streamSwitch hub e) s (s.setBusy x e))
    ∧ (s.medPick hub e = none → Answers (.streamSwitch hub e) s s)

/-- A LEASE word in flight whose checks pass asks its home and notes its use, with a RELEASE noted without a request; one whose lease is
held completes: a form 0 take with its ticket held among the command's outputs, the others without a further effect. -/
def Obligations.LeaseWordsRun : Prop :=
  ∀ c i : Nat,
    LeaseRuns (.leaseTakeRead c i) (fun w => w.op == 0x340 && (w.form == 0 || decide (3 ≤ w.form))) c i
      ∧ LeaseRuns (.leaseTakeCompare c i) (fun w => w.op == 0x340 && w.form == 1) c i
      ∧ LeaseRuns (.leaseTakeWrite c i) (fun w => w.op == 0x340 && w.form == 2) c i
      ∧ LeaseRuns (.leaseRelease c i) (fun w => w.op == 0x341) c i
      ∧ LeaseRuns (.leaseCheck c i) (fun w => w.op == 0x342) c i

/-- INSTRUCTION_ISSUE puts the first word of a running command that the scoreboard lets issue on it; a word that is no opcode is skipped with
UNKNOWN in every place it names instead, one whose code cannot be corrected kills the command (the kill without an event is the model's choice,
log entry 105), and where none may issue nothing changes. With nothing running, no chain open and no word issued out of order the next word may
issue when its own regions fit. HALO_COPY copies the halo rows of a participating core of a convolution or pooling and marks them full when no
earlier writer of its regions is uncompleted and they are not full yet. -/
def Obligations.IssueAndHaloRun : Prop :=
  ∀ (c : Nat) (s : State) (r : Run), s.power.rails = true → c < 64 → s.runOf c = some r → r.failed = none →
    (∀ p cmd, p = s.image r → cmd = cmdAt p r.cmd → r.sending = false →
      (r.firstFree p cmd 0 (r.unissued cmd) = none → Answers (.instructionIssue c) s s)
      ∧ (∀ k, r.firstFree p cmd 0 (r.unissued cmd) = some k →
          Answers (.instructionIssue c) s (if r.struck.code.contains k then s.killRun r 0 false
          else if knownOp (wordAt p k).op = false then
            (logNamed (s.hereAt r k) cUnknown s).setRun c (fun r => r.passed k)
          else s.setRun c (fun r => { r.passed k with issued := r.issued ++ [{ index := k, regions := regionsOf p cmd (wordAt p k) }] })))
      ∧ (r.issued = [] → r.chain = none → r.ahead = [] → r.next < cmd.first + cmd.count →
          regionsFit [] (regionsOf p cmd (wordAt p r.next)) = true → r.firstFree p cmd 0 (r.unissued cmd) = some r.next))
    ∧ (∀ i l t, s.inFlight (fun w => (w.op / 64 == 2 || w.op / 64 == 3) && w.lc != 0) c i = true →
        haloBusy r (s.image r) (cmdAt (s.image r) r.cmd) i = false →
        r.halos.any (fun f => f.core == l && f.full) = false → haloInto (s.hereAt r i) l s = .ok ((), t) →
        Answers (.haloCopy c i l) s (t.setRun c (fun r => { r with halos := { index := i, core := l, full := true } :: r.halos })))

/-- ENGINE_BEAT on a granted engine with both operand vectors and an unfinished tile adds the beat to the active set and counts 1 beat, or 4
of an FP32 or window index; a quad's beat does so on the four engines of its core, each with its quarter of the block, when all four can take
one; without the vectors, or where an engine cannot, nothing changes and no beat is counted. SHADOW_SWITCH after the last index activates the
shadow set when its last drain has completed or it is cleared or reloaded. DRAIN_BEGIN does nothing before 6 beats have passed; then it drains
the shadow set, or the active one whose tile has ended: the drained words are stored for drains and the set is clear and free. -/
def Obligations.EnginesRun : Prop :=
  ∀ (e : Nat) (s : State), s.power.rails = true → e < 4096 →
    (∀ b, b.quad = none → beatReady b = true → s.engineUp e = true → (s.engine e).lastIssued = false →
      Answers (.engineBeat e b) s
        ((s.setEngine ((s.engine e).beat b)).count 1 (e / 512) (e / 4) (e % 4) (if b.format = .fp16 then 1 else 4)))
    ∧ (∀ b, (beatReady b = false ∨ (b.quad = none ∧ (s.engineUp e = false ∨ (s.engine e).lastIssued = true))) →
        Answers (.engineBeat e b) s s)
    ∧ (∀ b q, b.quad = some q → beatReady b = true → (∀ i, i < 4 → s.canBeat (4 * (e / 4) + i) = true) →
        Answers (.engineBeat e b) s ((List.range 4).foldl (fun s i => s.beatOne (4 * (e / 4) + i) (quarterBeat b q i)) s))
    ∧ (∀ b q i, b.quad = some q → i < 4 → s.canBeat (4 * (e / 4) + i) = false → Answers (.engineBeat e b) s s)
    ∧ (∀ f, (s.engine e).lastIssued = true → ((s.engine e).refill f).shadowFree = true →
        Answers (.shadowSwitch ⟨e, f⟩) s
          (s.setEngine { (s.engine e).refill f with activeB := !(s.engine e).activeB, lastIssued := false, beats := 0 }))
    ∧ (∀ ws, ws.length = 1024 → ((s.engine e).refill .cleared).shadowFree = true ∧ ((s.engine e).refill (.reloaded ws)).shadowFree = true)
    ∧ (∀ f, ((s.engine e).lastIssued = false ∨ ((s.engine e).refill f).shadowFree = false) → Answers (.shadowSwitch ⟨e, f⟩) s s)
    ∧ (∀ n, n < 6 → Answers (.drainBegin e n) s s)
    ∧ (∀ n, 6 ≤ n → (s.engine e).shadowFree = false →
        Answers (.drainBegin e n) s (s.setEngine ((s.engine e).drainSet (!(s.engine e).activeB))))
    ∧ (∀ n, 6 ≤ n → (s.engine e).shadowFree = true → (s.engine e).lastIssued = true →
        Answers (.drainBegin e n) s (s.setEngine ((s.engine e).drainSet (s.engine e).activeB)))

/-- After a beat word 32 i + j of an active set of 1024 words has one product more, that of row element i and column element j, and the beat
count is one higher; the other set stays. -/
def Obligations.BeatAddsTheOuterProduct : Prop :=
  ∀ (x : Engine) (b : Beat) (r c : List (BitVec 32)), b.rowVec = some r → b.colVec = some c → r.length = 32 → c.length = 32 →
    x.active.length = 1024 → b.rowExp.length = 32 → b.colExp.length = 32 →
    (x.beat b).beats = x.beats + 1
      ∧ (∀ i j, i < 32 → j < 32 → ∃ u a v, x.active[32 * i + j]? = some u ∧ (beatVals b.format r b.rowExp)[i]? = some a
          ∧ (beatVals b.format c b.colExp)[j]? = some v ∧ (x.beat b).active[32 * i + j]? = some (u.add (fpMul a v)))
      ∧ (x.activeB = true → (x.beat b).setA = x.setA) ∧ (x.activeB = false → (x.beat b).setB = x.setB)

/-- When a die's governor is ready GOVERNOR_GRANT grants the first waiting unit of the die, and NULL_BEAT_RELEASE takes a null-beating engine
off, ending the grant of a core without beating engines whose cluster runs nothing; otherwise both change nothing. CLUSTER_GATE gates an idle
present cluster in S1 once GATE_DELAY has passed, GATE_DELAY 0 acting as 1. GOVERNOR_SUPPLY above 95 °C lowers the supply 10 mV, not below
550 mV, and at or below it raises it 10 mV up to the selected point, once a millisecond. -/
def Obligations.GovernorRuns : Prop :=
  ∀ s : State, s.power.rails = true →
    (∀ die u, die < 10 → s.power.waiting.find? (fun u => u / 256 == die) = some u →
      Answers (.governorGrant die) s (if s.governorReady die = true then
        ({ s with power := { s.power with waiting := s.power.waiting.filter (· != u), granted := addUnit s.power.granted u } } : State).governed
          die else s))
    ∧ (∀ e, e < 4096 → (s.engine e).nullBeat = true →
        Answers (.nullBeatRelease e) s (if s.governorReady (e / 512) = true then
          (if (s.engines.filter (fun x => x.no != e)).any (fun x => x.no / 4 == e / 4) || !(s.runsOn (e / 64)).isEmpty then
            { s with engines := s.engines.filter (fun x => x.no != e) }
          else { s with engines := s.engines.filter (fun x => x.no != e),
                        power := { s.power with granted := s.power.granted.filter (fun u => u / 2 != e / 4) } } : State).governed (e / 512)
          else s))
    ∧ (∀ k, k < 64 → s.power.st = .s1 → s.power.moving = none → s.present k = true → s.runsOn k = [] →
        s.engines.any (fun e => e.nullBeat && e.no / 64 == k) = false →
        max 1 (s.cfg (dieAt 8) .pwrCfg 16 16) * 4000 ≤ (s.plumb.now - (s.keystone k).lastCmd).toNat →
        Answers (.clusterGate k) s (s.setKeystone k (fun x => { x with gated := true })))
    ∧ (4000000 ≤ (s.plumb.now - s.power.lastStep).toNat →
        (95 < s.hottest → 560 ≤ s.power.supply → Answers .governorSupply s ((s.supplyStep (s.power.supply - 10)).thermalFlag 13))
        ∧ (95 < s.hottest → s.power.supply < 560 → Answers .governorSupply s s)
        ∧ (s.hottest ≤ 95 → s.power.supply + 10 ≤ pointSupply s.sec.point →
            Answers .governorSupply s (s.supplyStep (s.power.supply + 10))))

/-- COMMAND_START on a cluster that is free starts the command it picks when it is the least of the command's clusters and all are free, with no fill
command on them; an entry that runs nothing is dealt with and its queue has had its turn, and with nothing ready nothing changes. FILL_COMMAND_START
does so for the fill context. MARK commits a ready MARK entry. -/
def Obligations.CommandsStart : Prop :=
  ∀ s : State, s.power.rails = true →
    (∀ k c q x e p, k < 64 → s.primaryBusy k = false → s.primaryNext k = some (c, q, x, e, .run p) → leastOf (s.startOn c e (.run p)) = k →
      (∀ l ∈ s.startOn c e (.run p), s.runsOn l = [] ∧ s.freeFor l c q = true) → (s.killFills (s.startOn c e (.run p))) = s →
      Answers (.commandStart k) s (s.startRun c q x e p false))
    ∧ (∀ k c q x e st, k < 64 → s.primaryBusy k = false → s.primaryNext k = some (c, q, x, e, st) → (∀ p, st ≠ .run p) →
        Answers (.commandStart k) s ((s.dealEntry c q x e st).tookTurn [k] q x.prio false))
    ∧ (∀ k, k < 64 → s.primaryBusy k = true ∨ s.primaryNext k = none → Answers (.commandStart k) s s)
    ∧ (∀ k c q x e p, k < 64 → s.fillCtx k = some c → s.runsOn k = [] → s.pickEntry c k true (s.fillPass c) = some (q, x, e, .run p) →
        leastOf (s.startOn c e (.run p)) = k → Answers (.fillCommandStart k) s (s.startRun c q x e p true))
    ∧ (∀ c q x e, c < 64 → s.ready c q = some (x, e, .mark) → e.kind = 1 → Answers (.mark c q) s (s.commitEntry c q e stEmpty []))

/-- COMMAND_COMMIT of a failed command records its failure; of one with instructions left it changes nothing; of one at its end whose lease
comparisons match it goes on with the writes; of one whose outputs carry a parity tag it runs it once more, and the second time fails it with
BLOTTED_OUTPUT. The model's choice (log entry 104): one that read with ADVANCE a window that another command has advanced since begins again.
PIECE_END of an intermediate piece with nothing in flight sends its accumulates, unless a send buffer carries a parity tag, which runs or fails
the command in the same way, and once they are answered stages the rest. COMMAND_KILL kills a command whose context no longer runs. -/
def Obligations.CommandsEnd : Prop :=
  ∀ (c : Nat) (s : State) (r : Run), s.power.rails = true → c < 64 → s.runOf c = some r →
    (∀ st, r.failed = some st → Answers (.commandCommit c) s (s.commitFailed r st.toNat))
    ∧ (r.failed = none → s.atEnd r = false → Answers (.commandCommit c) s s)
    ∧ (r.failed = none → s.atEnd r = true → r.wrote = false → s.readStale r = true →
        Answers (.commandCommit c) s (s.startOver r r.rerun))
    ∧ (r.failed = none → s.atEnd r = true → (r.wrote = true ∨ (r.sending = true ∧ s.readStale r = false)) →
        Answers (.commandCommit c) s (s.commitOn r))
    ∧ (r.failed = none → s.atEnd r = true → (r.wrote || r.sending) = false → s.readStale r = false →
        r.published.any (fun t => t.2.getLsbD 0) = true →
        Answers (.commandCommit c) s (if r.rerun then s.commitFailed r stBlotted else s.rerunBlot r))
    ∧ (r.failed = none → s.atEnd r = true → (r.wrote || r.sending) = false → s.readStale r = false →
        r.published.any (fun t => t.2.getLsbD 0) = false →
        (∀ b ∈ countBlocks (s.hereAt r r.next) r, s.blockOk r.ctx b.1 = true) →
        ∀ r', (leaseChecks s c).runOf c = some r' → r'.failed = none → r'.leasesChecked = true →
          Answers (.commandCommit c) s ((leaseChecks s c).commitOn r'))
    ∧ (r.failed = none → r.issued = [] → r.piece + 1 < r.pieces → ((s.sendsOf c).isEmpty || r.leases.isEmpty) = true → r.sending = false →
        Answers (.pieceEnd c) s (if r.bufferBlotted then (if r.rerun then s.commitFailed r stBlotted else s.rerunBlot r) else s.beginSends r))
    ∧ (r.failed = none → r.issued = [] → r.piece + 1 < r.pieces → ((s.sendsOf c).isEmpty || r.leases.isEmpty) = true →
        r.sending = true → s.sendsDone c = true →
        ∀ a n, stagingRegion (s.image r) r.queue = some (a, n) → gPkg (BitVec.ofNat 64 a) = s.sec.pkg →
          s.allowed false (s.ctxPart r.ctx) true (gSpace (BitVec.ofNat 64 a)) (gOff (BitVec.ofNat 64 a)) n = true →
          Answers (.pieceEnd c) s (s.stagePiece c r (BitVec.ofNat 64 a) n))
    ∧ (s.killable r = true → (s.ctx r.ctx).st ≠ .running →
        Answers (.commandKill c) s (s.killRun r stPreempt ((s.ctx r.ctx).st != .tearing)))

/-- The state moves of a context (R376): RUN of an ABSENT context reads and checks its entry, RUN of a SUSPENDED one makes it RUNNING;
SUSPEND makes a RUNNING one SUSPENDING and kills what can be killed; without a command left it becomes SUSPENDED; TEARDOWN begins and goes on
with the teardown; ABSENT clears a TORN_DOWN one. -/
def Obligations.ContextsMove : Prop :=
  ∀ (c : Nat) (s : State), s.power.rails = true → c < 64 →
    (s.actsOnRequests = true → s.power.halted = false → s.sec.debug = false → s.tableOk = true → s.request c = 1 →
      ((s.ctx c).st = .absent → Answers (.contextRun c) s (s.ctxEnter c))
      ∧ ((s.ctx c).st = .suspended → Answers (.contextRun c) s (s.ctxMove c .running 0#8)))
    ∧ (s.tableOk = true → s.request c = 2 → (s.ctx c).st = .running →
        Answers (.contextSuspend c) s (((s.ctxMove c .suspending 0#8).runs.filter
          (fun r => r.ctx == c && (s.ctxMove c .suspending 0#8).killable r)).foldl (fun s r => s.killRun r stPreempt true)
            (s.ctxMove c .suspending 0#8)))
    ∧ ((s.ctx c).st = .suspending → s.runs.any (fun r => r.ctx == c) = false →
        Answers (.suspendComplete c) s (s.ctxMove c .suspended 0#8))
    ∧ (s.tableOk = true → s.request c = 3 → Answers (.contextTeardown c) s ((s.beginTeardown c 0).tearDown c))
    ∧ ((s.ctx c).st = .tearing → s.request c ≠ 3 → Answers (.contextTeardown c) s (s.tearDown c))
    ∧ (s.tableOk = true → s.request c = 0 → (s.ctx c).st = .tornDown →
        Answers (.contextAbsent c) s ((s.ctxMove c .absent 0#8).setCtx c (fun x => { x with queues := [] })))

/-- LOAD_REQUEST of a live context whose load ring has an entry takes it. RETRANSLATION of a held cluster translates the programs placed on
it and releases it. IMEM_LOAD_START with no reference left clears the page for a load of no words, or begins to load it. IMEM_LOAD_DONE puts
the image into the page and ends the load. QUEUE_TAIL_WRITE to a line that no context watches changes no byte of memory and no register. -/
def Obligations.LoadsRun : Prop :=
  ∀ s : State, s.power.rails = true →
    (∀ c, c < 64 → ((s.ctx c).st = .running ∨ (s.ctx c).st = .suspending ∨ (s.ctx c).st = .suspended) →
      s.tailWord (s.ctx c).loadTail ≠ (s.ctx c).loadHead → Answers (.loadRequest c) s (s.takeLoad c))
    ∧ (∀ k, k < 64 → (s.keystone k).hold = true →
        Answers (.retranslation k) s (((s.programs.filter (fun x => x.place.any (fun l => l.contains k))).foldl (fun s x => s.retranslate k x) s).setKeystone
          k (fun y => { y with hold := false })))
    ∧ (∀ k, k < 64 → (s.keystone k).load = .waiting → s.pageRefs k (s.keystone k).loadPage = 0 →
        Answers (.imemLoadStart k) s (if (s.keystone k).loadWords = 0 then
          (s.setKeystone k (fun x => { x with load := .done, pages := modNth x.pages x.loadPage (fun _ => ImemPage.clear) })).keyEvent k
        else s.setKeystone k (fun x =>
          { x with load := .loading, pages := modNth x.pages x.loadPage (fun y => { y with loaded := false }) })))
    ∧ (∀ k, k < 64 → (s.keystone k).load = .loading →
        Answers (.imemLoadDone k) s ((s.setKeystone k (fun x => { x with load := .done, pages := modNth x.pages x.loadPage (fun _ =>
          { owner := (s.keystone k).loadOwner, loaded := true, waiting := false, tag := (s.keystone k).loadTag,
            words := (s.keystone k).loadWords, image := s.load 0 (s.keystone k).loadSrc (16 * (s.keystone k).loadWords),
            prog := none }) })).keyEvent k))
    ∧ (∀ addr, ∃ t, exec (.queueTailWrite addr) s = .next t ∧ SameMemory s t ∧
        ((∀ c, c < 64 → (s.ctx c).st = .absent ∨ (s.ctx c).st = .tornDown ∨ (s.ctx c).loadTail.toNat / 64 ≠ addr.toNat / 64) →
          SameRegisters s t))

/-- The grouped settings of a cluster: KEY_APPLY stages the load group and asks for the load, or during a load only records the loss;
KEY_SCHED_APPLY, WLK_APPLY and CLM_APPLY stage their group and bring an idle cluster to its command boundary; the PREEMPT form first kills
the cluster's killable commands; KEY_INJECT with debug unlocked and SCOPE bit 1 arms a strike, and without them changes nothing. -/
def Obligations.KeystoneSettings : Prop :=
  ∀ (k : Nat) (s : State), s.power.rails = true → k < 64 →
    (((s.keystone k).load = .waiting ∨ (s.keystone k).load = .loading) →
      Answers (.keyApply k) s (s.setBits (cluAt k) .keyLoadStatus 4))
    ∧ ((s.keystone k).load ≠ .waiting → (s.keystone k).load ≠ .loading →
        Answers (.keyApply k) s (((s.stage (cluAt k) .keyLoad).setKeystone k (fun x => { x with loadAsk := true })).boundary k))
    ∧ Answers (.keySchedApply k) s ((s.stage (cluAt k) .keySched).boundary k)
    ∧ Answers (.wlkApply k) s ((s.stage (cluAt k) .wlk).boundary k)
    ∧ Answers (.clmApply k) s ((s.stage (cluAt k) .clm).boundary k)
    ∧ Answers (.keySchedPreempt k) s (((((s.stage (cluAt k) .keySched).runsOn k).filter (s.stage (cluAt k) .keySched).killable).foldl
        (fun s r => s.killRun r stPreempt true) (s.stage (cluAt k) .keySched)).boundary k)
    ∧ (∀ v, s.sec.debug = true → s.sec.scope.getLsbD 1 = true → fld v 8 1 = 1 →
        Answers (.keyInject k v) s (s.setKeystone k (fun x => { x with inject := x.inject ++ [(fld v 0 4, fld v 4 4)] })))
    ∧ (∀ v, (s.sec.debug = false ∨ s.sec.scope.getLsbD 1 = false) → Answers (.keyInject k v) s s)

/-! ## Plumb time, rings and captures -/

/-- PLB_APPLY puts the hub's plumb group into force, and a root in FREE becomes LOCKED at PLB_EPOCH, or at its present time where that is later. A
follower in use starts an exchange each 100 µs and sends its request; its reply steers the package; a request is answered with this die's time. An
exchange of 100 µs without an answer is missed, the third in a row from LOCKED entering HOLDOVER, as does an upstream port that is down. HOLDOVER ends
in UNSYNC after 100 ms. BEAT_RATE_WINDOW at an operating point from 25 to 95 °C writes the rate of R29. -/
def Obligations.PlumbRuns : Prop :=
  ∀ s : State, s.power.rails = true →
    (∀ hub u, isHub hub = true → u = s.applyNow (dieAt hub) .plb →
      Answers (.plbApply hub) s (if u.plumb.st = .free ∧ u.plbRoot = true then
        ({ u with plumb := { u.plumb with now := if u.plumb.now.toNat ≤ (u.live' (dieAt 8) .plbEpoch).toNat then u.live' (dieAt 8) .plbEpoch
                                         else u.plumb.now } } : State).plumbMove .locked else u))
    ∧ (s.follows = true → s.usable s.upstream 6 = true → s.plumb.sent = none → 400000 ≤ (s.plumb.now - s.plumb.lastX).toNat →
        Answers .syncExchange s (({ s with plumb := { s.plumb with sent := some s.plumb.now, lastX := s.plumb.now } } : State).sendOn s.upstream
          (({ s with plumb := { s.plumb with sent := some s.plumb.now, lastX := s.plumb.now } } : State).packet
            (((s.port s.upstream).peer).getD 0) 6 0#16 (.plumbSync (.request s.plumb.now)))))
    ∧ (∀ port t1, port < 30 → (s.port port).peer.isSome = true → s.carriesClass port 6 = true →
        Answers (.plumbSync port (.request t1)) s (s.sendOn port (s.packet (((s.port port).peer).getD 0) 6 0#16
          (.plumbSync (.reply t1 (s.dieNow (portHub port)) (s.dieNow (portHub port)))))))
    ∧ (∀ port t1 t2 t3, port < 30 → (s.port port).peer.isSome = true → s.carriesClass port 6 = true → s.follows = true →
        port = s.upstream → s.plumb.sent = some t1 →
        Answers (.plumbSync port (.reply t1 t2 t3)) s
          (s.steer (offsetEstimate t1 t2 t3 s.plumb.now (s.cfg (dieAt (portHub port)) (.plbPortAsym port) 0 16))))
    ∧ (s.follows = true → s.carriesClass s.upstream 6 = false →
        Answers .exchangeMissed s (if s.plumb.st = .locked then
          ({ s with plumb := { s.plumb with sent := none } } : State).plumbMove .holdover
        else { s with plumb := { s.plumb with sent := none } }))
    ∧ (s.follows = true → s.carriesClass s.upstream 6 = true → s.plumb.sent.isSome = true →
        400000 ≤ (s.plumb.now - s.plumb.lastX).toNat →
        Answers .exchangeMissed s (if s.plumb.st = .locked ∧ 3 ≤ s.plumb.missed + 1 then
          ({ s with plumb := { s.plumb with sent := none, missed := s.plumb.missed + 1, good := 0 } } : State).plumbMove .holdover
        else { s with plumb := { s.plumb with sent := none, missed := s.plumb.missed + 1, good := 0 } }))
    ∧ (s.plumb.st = .holdover → 400000000 ≤ (s.plumb.now - s.plumb.entered).toNat → Answers .holdoverTimeout s (s.plumbMove .unsync))
    ∧ (∀ die t r, die < 8 → s.power.junction[die]? = some t → 25 ≤ t → t ≤ 95 → rateAt s.power.supply = some r →
        Answers (.beatRateWindow die) s
          (s.draw.2.setReg (dieAt die) .plbBeatRate (BitVec.ofNat 64 (r / (1000 + t - 65) % 65536))))

/-- CNT_CAPTURE_AT without a capture under way arms one, puts the dump bases into force and counts its number up; otherwise it only sets
REJECTED. An arm that reaches a unit in time arms it, and one that comes late latches it at once as LATE. An armed unit whose time has come
latches with the stamp T. CAPTURE_DUMP marks a hub that has not dumped as dumped, the capture DUMPING; once both hubs have,
the capture is DONE and source 8 rises. CNT_CAPTURE_CANCEL with bit 0 ends an armed capture; without it nothing changes. -/
def Obligations.CapturesRun : Prop :=
  ∀ s : State, s.power.rails = true →
    (∀ T, (s.capture.st = .idle ∨ s.capture.st = .done) →
      Answers (.cntCaptureAt T) s { (List.range 10).foldl (fun s d => s.force (dieAt (servingHub d)) (.cntDump d)) (s.setReg (dieAt 8) .cntCaptureAt T)
        with capture := { st := .armed, id := s.capture.id + 1#32, t := T, lateAny := false, lateNo := 0, latches := [], meters := [],
                          dumped := [] } })
    ∧ (∀ T, (s.capture.st = .armed ∨ s.capture.st = .latched ∨ s.capture.st = .dumping) →
        Answers (.cntCaptureAt T) s (s.setBits (dieAt 8) .cntCaptureStatus 16))
    ∧ (∀ u, unitOk u = true → s.capture.st = .armed → s.latchOf u = none → s.capture.t.toNat < (s.dieNow u.die).toNat →
        Answers (.captureArmReceived u) s (s.latchUnit u (s.dieNow u.die) true))
    ∧ (∀ u, unitOk u = true → s.capture.st = .armed → s.latchOf u = none → (s.dieNow u.die).toNat ≤ s.capture.t.toNat →
        Answers (.captureArmReceived u) s { s with capture := { s.capture with latches := s.capture.latches ++
          [{ unit := u, armed := true, stamp := none, late := false, values := [] }] } })
    ∧ (∀ u l, unitOk u = true → s.capture.st = .armed → s.latchOf u = some l → l.stamp = none → s.capture.t.toNat ≤ (s.dieNow u.die).toNat →
        Answers (.captureLatch u) s (s.latchUnit u s.capture.t false))
    ∧ (∀ hub, isHub hub = true → (s.capture.st = .latched ∨ s.capture.st = .dumping) → s.capture.dumped.contains hub = false →
        s.power.st ≠ .s2 → ∃ t, exec (.captureDump hub) s = .next t
          ∧ t.capture.dumped = hub :: s.capture.dumped
          ∧ (s.capture.dumped.length = 1 → t.capture.st = .done ∧ (t.reg (dieAt 8) (.evtPending 0)).getLsbD 8 = true)
          ∧ (s.capture.dumped.length ≠ 1 → t.capture.st = .dumping))
    ∧ (∀ v, fld v 0 1 = 1 → s.capture.st = .armed →
        Answers (.cntCaptureCancel v) s { s with capture := { s.capture with st := .idle, latches := [], meters := [] } })
    ∧ (∀ v, fld v 0 1 = 0 → Answers (.cntCaptureCancel v) s s)

/-- DUC_APPLY stages the ring groups of the named dies that its hub serves, recording an enabled ring outside the owner's partition; CNT_APPLY
stages the named dump bases; both change nothing when they name none of the hub's dies. DUCTUS_HELD_FLUSH brings the die's ring
settings into force and writes what the die holds. -/
def Obligations.RingsRun : Prop :=
  ∀ s : State, s.power.rails = true →
    (∀ hub v, isHub hub = true →
      (∀ d, d < 10 → servingHub d = hub → fld v d 1 = 0) → Answers (.ducApply hub v) s s ∧ Answers (.cntApply hub v) s s)
    ∧ (∀ hub v, isHub hub = true → Answers (.ducApply hub v) s ((List.range 10).foldl (fun s d =>
        if fld v d 1 = 1 ∧ serves hub d = true then
          (if fld ((s.stage (dieAt hub) (.duc d)).reg (dieAt hub) (.ducCtl d)) 0 1 = 1
              ∧ (s.stage (dieAt hub) (.duc d)).ownerArea hub (fld ((s.stage (dieAt hub) (.duc d)).reg (dieAt hub) (.ducBase d)) 21 27 * 2 ^ 21)
                  (2 ^ 21) = false then
            (s.stage (dieAt hub) (.duc d)).violateArea hub
              (fld ((s.stage (dieAt hub) (.duc d)).reg (dieAt hub) (.ducBase d)) 21 27 * 2 ^ 21)
          else s.stage (dieAt hub) (.duc d))
        else s) s))
    ∧ (∀ hub v, isHub hub = true → Answers (.cntApply hub v) s
        ((List.range 10).foldl (fun s d => if fld v d 1 = 1 ∧ serves hub d = true then s.stage (dieAt hub) (.cntDump d) else s) s))
    ∧ (∀ die, die < 10 → Answers (.ductusHeldFlush die) s ((s.ringForce die).flushHeld die))

/-! ## Registers -/

/-- REGISTER_WRITE of 8 aligned bytes by a master with the right performs the write of the register at that offset (writeReg; what its plain
part stores is PlainWritesFollowTheAccessCodes), and nothing at an unassigned offset; a write that its form, the master's rights or an
unassigned block bar performs nothing but the fault event; in S2 a write to a unit that is off is held. -/
def Obligations.RegisterWritesRun : Prop :=
  ∀ (m : Master) (a v : BitVec 64) (size : Nat) (s : State), s.power.rails = true → masterOk m = true →
    (s.power.st = .s2 → s.ownRegister a = true → needsPower a = true →
      Answers (.registerWrite m a size v) s (s.holdAccess (.registerWrite m a size v) (masterWake m)))
    ∧ (s.power.st ≠ .s2 → s.msixAccess m a size = false → (s.regBar m a true size).isSome = true →
        Answers (.registerWrite m a size v) s (s.regFault m a true size))
    ∧ (s.power.st ≠ .s2 → s.msixAccess m a size = false → s.regBar m a true size = none →
        ∀ r, s.locate (regDie a) (regBlk a) (regOff a) = some r →
          Answers (.registerWrite m a size v) s (s.writeReg (regDie a) (regBlk a) r v))
    ∧ (s.power.st ≠ .s2 → s.msixAccess m a size = false → s.regBar m a true size = none →
        s.locate (regDie a) (regBlk a) (regOff a) = none → Answers (.registerWrite m a size v) s s)

/-- What the plain part of a register write stores: bit by bit, a bit that is RW takes the value written; a bit that is W1C and no RW bit is
0 after a 1 and as before after a 0; every other bit is as before. No other register changes. -/
def Obligations.PlainWritesFollowTheAccessCodes : Prop :=
  ∀ (s : State) (base : Nat) (r : Reg) (v : BitVec 64),
    (∀ b, b < 64 → ((s.putReg base r v).reg base r).getLsbD b =
      (if (BitVec.ofNat 64 r.rw).getLsbD b then v.getLsbD b
       else if (BitVec.ofNat 64 r.w1c).getLsbD b && v.getLsbD b then false else (s.reg base r).getLsbD b))
    ∧ ∀ base' r', regKey base' r' ≠ regKey base r → (s.putReg base r v).reg base' r' = s.reg base' r'

/-- An apply takes effect whole: after a group of a block is applied at once, every register of the group of that block reads in force what
it had stored, none of the group is pending, no stored value changes, and no register of another address changes its value in force. -/
def Obligations.AppliesTakeEffectWhole : Prop :=
  ∀ (s : State) (base : Nat) (g : Group),
    (s.applyNow base g).regs = s.regs ∧ (s.applyNow base g).hasPend base g = false
    ∧ (∀ r, r.group = some g → s.regOf (regKey base r) = some r → (s.applyNow base g).live' base r = s.reg base r)
    ∧ ∀ base' r, s.inGroup base g (regKey base' r) = false → (s.applyNow base g).live' base' r = s.live' base' r

/-! ## Mortar and leases -/

/-- A packet from an authenticated peer, or from this package over its die-to-die links, is answered at the hub that RED bit 9 names: with what the
front end decides where the ingress check passes, else DENIED; the other hub takes none. WINDOW_CLOSE of an open window whose sources are all complete
closes it with its statistics record and frees its receipts; SLOT_CLEAR_DONE opens a clearing window with its slots cleared. -/
def Obligations.MortarHomeRuns : Prop :=
  ∀ (hub : Nat) (s : State), s.power.rails = true → hubOk hub = true →
    (∀ n peer p, n < 30 → hub = 8 + p.red.toNat / 512 % 2 → (s.port n).peer = some peer → s.carriesClass n (p.cls.toNat % 8) = true →
      Answers (.accumulate hub (some n) peer p) s
        (if ingressOk s hub peer p = true then (frontEnd s hub p).1.sendTo hub ((frontEnd s hub p).1.packet (p.origin.toNat % 8192)
            (p.cls.toNat % 8) p.job (replyBody p (frontEnd s hub p).2))
         else (s.countUnit hub 2).sendTo hub ((s.countUnit hub 2).packet (p.origin.toNat % 8192) (p.cls.toNat % 8) p.job
            (replyBody p .denied))))
    ∧ (∀ n peer p, n.getD 0 < 30 → hub ≠ 8 + p.red.toNat / 512 % 2 → Answers (.accumulate hub n peer p) s s)
    ∧ (∀ t peer p, hub = 8 + p.red.toNat / 512 % 2 → s.takeLocal (.accumulate p) = some t → ingressOk t hub s.sec.pkg p = true →
        Answers (.accumulate hub none peer p) s ((frontEnd t hub p).1.sendTo hub ((frontEnd t hub p).1.packet (p.origin.toNat % 8192)
          (p.cls.toNat % 8) p.job (replyBody p (frontEnd t hub p).2))))
    ∧ (∀ r, r < 512 → (s.redAt hub r).st = .opened → (s.redAt hub r).sources ≤ (s.redAt hub r).complete.length →
        Answers (.windowClose hub r) s ((s.setRed hub r (fun x =>
          { x with st := .closed, record := some (x.window, statRecord s x) })).freeReceipts hub r))
    ∧ (∀ r, r < 512 → (s.redAt hub r).st ≠ .opened → Answers (.windowClose hub r) s s)
    ∧ (∀ r, r < 512 → (s.redAt hub r).st = .clearing →
        Answers (.slotClearDone hub r) s ((s.clearSlots (s.redAt hub r)).setRed hub r (fun x => { x with st := .opened })))

/-- A chunk that a receipt of its origin already holds is not answered ADDED and is added to no slot: every byte of memory, the reductions and
the receipts stay. -/
def Obligations.DuplicateChunksAddNothing : Prop :=
  ∀ (s : State) (hub : Nat) (p : AccPacket) (e : Receipt), (s.redAt hub (p.red.toNat % 512)).hub = hub →
    s.rcptOf hub p = some e → e.origin = p.origin → e.bitmap.getLsbD (p.seq.toNat % 64) = true →
    (frontEnd s hub p).2 ≠ .added ∧ SameMemory s (frontEnd s hub p).1 ∧ (frontEnd s hub p).1.reds = s.reds
      ∧ (frontEnd s hub p).1.receipts = s.receipts

/-- The sender: a reply to an open packet records ADDED or DUPLICATE, sets the wait of RETRY, or on DENIED fails the command with
PERMIT_DENIED. A packet unanswered for 80,000 ticks, and one whose RETRY wait has passed, is sent again. MORTAR_TIMEOUT fails the command with
LINK_FAILED once its packet or its wait is older than TIMEOUT; before that nothing changes. -/
def Obligations.SendersRun : Prop :=
  ∀ s : State, s.power.rails = true →
    (∀ tag run x r, s.openSend tag = some (run, x) → x.target ≠ s.sec.pkg →
      Answers (.accumulateReply tag r) s (match r with
        | .denied => s.failRun run stPermit none
        | .retry => { s with sends := s.sends.map (fun z => if z.tag == x.tag then { z with retryAt := some (s.plumb.now +
            BitVec.ofNat 64 (max 1 (s.cfg (dieAt (servingHub (x.lead / 8))) .morRcptCtl 0 16) * 1024)) } else z) }
        | r => { s with sends := s.sends.map (fun z => if z.tag == x.tag then { z with answer := some r } else z) }))
    ∧ (∀ tag run x, s.openSend tag = some (run, x) → x.retryAt = none → 80000 ≤ (s.plumb.now - x.sentAt).toNat →
        Answers (.accumulateRetransmit tag) s (s.transmit x))
    ∧ (∀ tag run x u, s.openSend tag = some (run, x) → x.retryAt = some u → (s.plumb.now - u).toNat < 2 ^ 63 →
        Answers (.accumulateRetry tag) s (s.transmit x))
    ∧ (∀ c r hub u, c < 64 → s.runOf c = some r → r.failed = none → r.mortarSince = some (hub, u) → s.mortarLate hub u = true →
        Answers (.mortarTimeout c) s (s.failRun r stLink none))
    ∧ (∀ c r, c < 64 → s.runOf c = some r → r.sending = false → r.mortarSince = none → Answers (.mortarTimeout c) s s)

/-- MOR_APPLY puts permits and settings into force and then takes each of the 512 reductions in turn; MOR_SHARD_APPLY takes each of the 512
shards in turn; MOR_LEASE_DROP with GO drops a holder's entries and intents, without GO nothing; MOR_RCPT_SEL copies the selected receipt
into MOR_RCPT_DATA, zeros where there is none; MED_APPLY puts the media group into force. -/
def Obligations.MortarSettings : Prop :=
  ∀ (hub : Nat) (s : State), s.power.rails = true → hubOk hub = true →
    Answers (.morApply hub) s ((List.range 512).foldl (redApplyOne hub) (s.applyNow (dieAt hub) .mor))
    ∧ Answers (.morShardApply hub) s ((List.range 512).foldl (shardApplyOne hub) s)
    ∧ (∀ v, fld v 19 1 = 1 → Answers (.morLeaseDrop hub v) s (s.dropHolder hub (fld v 0 13) (fld v 13 6)))
    ∧ (∀ v, fld v 19 1 = 0 → Answers (.morLeaseDrop hub v) s s)
    ∧ (∀ v, ∃ t, exec (.morRcptSel hub v) s = .next t ∧ SameMemory s t ∧ SameRegisters s t ∧ t.receipts = s.receipts
        ∧ (s.rcptSel.length = 8 → ∀ k, k < 4 → t.rcptSel[4 * (hub - 8) + k]? = some (BitVec.ofNat 64
            (num ((((s.receipts.filter (fun e => e.hub == hub))[fld v 0 17]?).map receiptBytes).getD []) (8 * k) 8))))
    ∧ Answers (.medApply hub) s (s.applyNow (dieAt hub) .med)

/-- A lease request of an authenticated origin with a RECEIVE permit is examined in place of an earlier waiting take of its holder, and answered or
left waiting; any other is counted and answered DENIED. LEASE_GRANT answers a waiting request whose conditions have come to hold. A reply from another
package has its outcome at the requester. A take that has waited longer than TIMEOUT is answered TIMEOUT, its intent cleared. -/
def Obligations.LeaseHomeRuns : Prop :=
  ∀ (hub : Nat) (s : State), s.power.rails = true → hubOk hub = true →
    (∀ origin r, origin ≠ s.sec.pkg → r.pkg = origin → s.mayRecv hub r.job origin = true →
      Answers (.leaseRequest hub origin r) s (leaseServe s hub r))
    ∧ (∀ origin r, origin ≠ s.sec.pkg → (r.pkg ≠ origin ∨ s.mayRecv hub r.job origin = false) →
        Answers (.leaseRequest hub origin r) s ((s.countUnit hub 2).leaseAnswer hub r .denied))
    ∧ (∀ tag w o t, s.waits.find? (fun w => w.hub == hub && w.req.tag == tag && (leaseExamine s hub w.req).2.isSome) = some w →
        leaseExamine { s with waits := s.waits.filter (· != w) } hub w.req = (t, some o) →
        Answers (.leaseGrant hub tag) s (t.leaseAnswer hub w.req o))
    ∧ (∀ tag o r u, s.leaseByTag tag = some (r, u) → gPkg u.home ≠ s.sec.pkg → Answers (.leaseReply tag o) s (leaseOutcome s r u o))
    ∧ (∀ tag w, s.waits.find? (fun w => w.hub == hub && w.req.tag == tag && s.elapsed w.since (s.cfg (dieAt hub) .morLeaseCfg 0 32)) = some w →
        Answers (.leaseTimeout hub tag) s ((if w.req.op = .takeWrite then
          ({ s with waits := s.waits.filter (· != w) } : State).clearIntent hub w.req.home w.req.bytes w.req.pkg w.req.ctx w.req.step
          else { s with waits := s.waits.filter (· != w) }).leaseAnswer hub w.req .timeout))

/-- How the shard's entry answers a take without an intent on it (R239). A read take of the step after WRITTEN_STEP, with no read entry yet and
room in the table, leaves the holder's read entry and answers VERSION, WRITTEN_STEP and the time. A write take of that step on a shard
without a reader sets the intent and is granted the same. A write take of a step already written is STALE. -/
def Obligations.TakesAreGranted : Prop :=
  ∀ (s : State) (e : Shard) (r : LeaseReq),
    (r.op = .takeRead → e.written + 1 = r.step → e.intent = none → s.readers.any (holdsEntry r e) = false →
      (s.readers.filter (fun x => x.hub == e.hub)).length < 16384 →
      leaseTake s e r = ({ s with readers := s.readers ++ [{ hub := e.hub, s := e.s, pkg := r.pkg, ctx := r.ctx, step := r.step }] },
        some (.granted e.version e.written (s.dieNow e.hub))))
    ∧ (r.op = .takeWrite → e.written + 1 = r.step → e.intent = none → s.readers.any (fun x => x.hub == e.hub && x.s == e.s) = false →
        leaseTake s e r = (s.setShard e (fun x => { x with intent := some (r.pkg, r.ctx, r.step) }),
          some (.granted e.version e.written (s.dieNow e.hub))))
    ∧ (r.op = .takeWrite → r.step ≤ e.written → leaseTake s e r = (s.staleSeen e.hub, some .stale))

/-! ## Lintel -/

/-- A frame on a port that carries traffic: accepted when it is the next, whole and authentic; let pass when it was accepted before; asked for
again when it is broken, incomplete or too new; at the third bad seal in a row the session ends. -/
def Obligations.FramesAreAcceptedWhole : Prop :=
  ∀ (n : Nat) (f : Frame) (s : State), s.power.rails = true → n < 30 →
    ((s.port n).carries = false → Answers (.linkFrame n f) s s)
    ∧ ((s.port n).carries = true →
      (frameIntact f = true → f.tagOk = true → f.number = (s.port n).rxFrame → Answers (.linkFrame n f) s (s.acceptFrame n f))
      ∧ (frameIntact f = true → f.tagOk = true → f.number.toNat < (s.port n).rxFrame.toNat → Answers (.linkFrame n f) s s)
      ∧ (frameIntact f = false → Answers (.linkFrame n f) s (s.setPort n (fun p => { p with again := some (s.port n).rxFrame })))
      ∧ (frameIntact f = true → f.tagOk = true → (s.port n).rxFrame.toNat < f.number.toNat →
          Answers (.linkFrame n f) s (s.setPort n (fun p => { p with again := some (s.port n).rxFrame })))
      ∧ (frameIntact f = true → f.tagOk = false → (s.port n).sealBad + 1 < 3 →
          Answers (.linkFrame n f) s ((s.setPort n (fun p => { p with sealBad := p.sealBad + 1 })).setPort n
            (fun p => { p with again := some (s.port n).rxFrame })))
      ∧ (frameIntact f = true → f.tagOk = false → 3 ≤ (s.port n).sealBad + 1 →
          Answers (.linkFrame n f) s (((s.setPort n (fun p => { p with sealBad := p.sealBad + 1 })).setPort n
            (fun p => { p with again := some (s.port n).rxFrame })).sealFail n)))

/-- How a port trains, loses and regains lanes: TRAINING with enough lanes enters SESSION with those lanes and writes its asymmetry; a lane of a live port that goes bad
is dropped, the port RETRAINING, or FAILED with fewer than MIN_LANES; a retrained port goes on DEGRADED, or HAIRLINE under MODE 1; FAILED
trains again after a second with MODE not 0; a closing port whose frames are acknowledged is OFF; HAIRLINE that rises is UP with 8 lanes, else
DEGRADED. -/
def Obligations.PortsTrain : Prop :=
  ∀ (n : Nat) (s : State), s.power.rails = true → n < 30 →
    (∀ lanes rev inv asym, (s.port n).st = .training → s.minLanes n ≤ laneCount lanes →
      ∃ t, exec (.portTrainingDone n lanes rev inv asym) s = .next t
        ∧ (n < s.ports.length → s.routeWait = [] → (t.port n).st = .session ∧ (t.port n).active = lanes ∧ (t.port n).dropped = 0#8
          ∧ (t.port n).reversed = rev ∧ (t.port n).inverted = inv ∧ (t.port n).session.phase = 0)
        ∧ t.reg (dieAt (portHub n)) (.plbPortAsym n) = BitVec.ofNat 64 asym.toNat)
    ∧ (∀ lane why u, lane < 8 → ((s.port n).st = .up ∨ (s.port n).st = .degraded ∨ (s.port n).st = .hairline) →
        (s.port n).active.getLsbD lane = true → s.laneBad n why = true →
        u = ((s.setPort n (fun p =>
            { p with active := p.active &&& ~~~(BitVec.ofNat 8 (2 ^ lane)), dropped := p.dropped ||| BitVec.ofNat 8 (2 ^ lane) })).count
              5 (portHub n) n 3 1).event (portHub n) kLaneDropped noCtx n 0#8 (leBytes 1 lane) →
        Answers (.laneDrop n lane why) s (if laneCount (u.port n).active < u.minLanes n then u.portFail n else u.portMove n .retraining))
    ∧ (∀ lanes, (s.port n).st = .retraining → lanes &&& ~~~(s.port n).active = 0#8 → laneCount lanes < s.minLanes n →
        Answers (.laneRetrainDone n lanes) s (s.portFail n))
    ∧ (∀ lanes u, (s.port n).st = .retraining → lanes &&& ~~~(s.port n).active = 0#8 → s.minLanes n ≤ laneCount lanes →
        u = ((s.setPort n (fun p => { p with active := lanes, dropped := p.dropped ||| (p.active &&& ~~~lanes) })).setPort n
              (fun p => { p with hair := hairLane p })).event (portHub n) kRetrained noCtx n 0#8
            (leBytes 1 (laneCount lanes) ++ leBytes 4 (s.plumb.now - (s.port n).since).toNat) →
        Answers (.laneRetrainDone n lanes) s (u.portMove n (if u.portMode n = 1 then .hairline else .degraded)).distanceTable)
    ∧ ((s.port n).st = .failed → s.portMode n ≠ 0 → 4000000000 ≤ (s.plumb.now - (s.port n).since).toNat →
        Answers (.portFailedRetry n) s (s.portMove n .training))
    ∧ ((s.port n).closing = true → ((s.port n).held = [] ∨ 4000000 ≤ (s.plumb.now - (s.port n).since).toNat) →
        Answers (.portOff n) s (((s.setPort n (fun p => { p with closing := false, active := 0#8 })).endSession n).portMove n .off))
    ∧ (∀ lanes, (s.port n).st = .hairline → (s.port n).rising = true → lanes &&& (s.port n).dropped = 0#8 → s.minLanes n ≤ laneCount lanes →
        Answers (.fullModeRestored n lanes) s ((s.setPort n (fun p => { p with active := lanes, rising := false })).portMove n
          (if laneCount lanes = 8 then .up else .degraded)))

/-- The steps of a session (R356): a HELLO of another package than the configured one, or with another key, fails authentication; a good one
makes the lower-numbered side send its encapsulation key. The higher-numbered side encapsulates and signs; the lower-numbered decapsulates and
signs; a signature that verifies over this port's transcript ends in 104 bytes of keys and the port's run state, another fails authentication.
After 2^31 frames the keys are renewed. What the cryptographic functions answer is free (log entry 8). -/
def Obligations.SessionsRun : Prop :=
  ∀ (n : Nat) (s : State), s.power.rails = true → n < 30 →
    (∀ pkg pk, (s.port n).st = .session → (s.port n).session.phase = 0 →
      (pkg ≠ s.peerPkg n ∨ pkg = s.sec.pkg ∨ shake256 32 (sub pk 0 64) ≠ s.peerKey n) → Answers (.sessionHello n pkg pk) s (s.authFail n pkg))
    ∧ (∀ pkg pk, (s.port n).st = .session → (s.port n).session.phase = 0 → pkg = s.peerPkg n → pkg ≠ s.sec.pkg →
        shake256 32 (sub pk 0 64) = s.peerKey n →
        ∃ t, exec (.sessionHello n pkg pk) s = .next t
          ∧ (n < s.ports.length → (t.port n).session.phase = 1 ∧ (t.port n).session.peerPkg = pkg ∧ (t.port n).session.peerPk = sub pk 0 64)
          ∧ (pkg ≤ s.sec.pkg → t.sentOut = s.sentOut) ∧ (s.sec.pkg < pkg → t.sentOut.length = s.sentOut.length + 1))
    ∧ (∀ key, (s.port n).st = .session → (s.port n).session.phase = 1 → (s.port n).session.peerPkg < s.sec.pkg →
        ∃ t, exec (.sessionKemKey n key) s = .next t ∧ t.sentOut.length = s.sentOut.length + 2
          ∧ (n < s.ports.length → (t.port n).session.phase = 2 ∧ (t.port n).session.cipher = Config.kemCipher key (Config.freeNat s.fresh)
            ∧ (t.port n).session.secret = Config.kemSecret key (Config.freeNat s.fresh)))
    ∧ (∀ ct, (s.port n).st = .session → (s.port n).session.phase = 1 → s.sec.pkg < (s.port n).session.peerPkg →
        ∃ t, exec (.sessionKemCiphertext n ct) s = .next t ∧ t.sentOut.length = s.sentOut.length + 1
          ∧ (n < s.ports.length → (t.port n).session.phase = 2
            ∧ (t.port n).session.secret = Config.kemDecaps (s.port n).session.kem ct))
    ∧ (∀ msg sig, (s.port n).st = .session → (s.port n).session.phase = 2 →
        ∃ t, exec (.sessionSignature n msg sig) s = .next t
          ∧ ((Config.slhVerify (s.port n).session.peerPk msg sig && s.goodMsg n msg) = true → n < s.ports.length → s.routeWait = [] →
            (t.port n).st = s.runState n ∧ (t.port n).peer = some (s.port n).session.peerPkg ∧ (t.port n).session.phase = 3
              ∧ (t.port n).session.keys = shake256 104 ((s.port n).session.secret ++ s.transcript n) ∧ (t.port n).txFrame = 0#64)
          ∧ ((Config.slhVerify (s.port n).session.peerPk msg sig && s.goodMsg n msg) = false →
            t = settle s (s.authFail n (s.port n).session.peerPkg)))
    ∧ ((s.port n).session.phase = 3 → 2 ^ 31 * ((s.port n).session.renewals + 1) ≤ (s.port n).txFrame.toNat →
        ∃ t, exec (.sessionRenewal n) s = .next t
          ∧ (n < s.ports.length → (t.port n).session.renewals = (s.port n).session.renewals + 1 ∧ (t.port n).st = (s.port n).st))

/-- Heartbeats (R355): a port that carries traffic and has sent nothing for 4,194,304 ticks sends one; one from its peer sets the time of the
last and clears the misses; three intervals without one fail the port. LNK_APPLY puts the hub's Lintel group into force, acts on each of its
ports and tries the waiting packets again; LNK_FLOWS_RESET frees the hub's flows and no other's. D2D_LANE_REPAIR takes a module of
the link out of service unless the fault was repaired, and records either. -/
def Obligations.HeartbeatsAndLintelSettings : Prop :=
  ∀ s : State, s.power.rails = true →
    (∀ n, n < 30 → (s.port n).carries = true → 4194304 ≤ (s.plumb.now - (s.port n).lastTx).toNat →
      Answers (.heartbeatSend n) s ((s.setPort n (fun p => { p with lastTx := s.plumb.now })).sendOn n
        ((s.setPort n (fun p => { p with lastTx := s.plumb.now })).packet ((s.port n).peer.getD 0) 6 0#16
          (.heartbeat s.sec.pkg (s.port n).st.code))))
    ∧ (∀ n pkg st, n < 30 → (s.port n).carries = true → (s.port n).peer = some pkg →
        Answers (.heartbeat n pkg st) s (s.setPort n (fun p => { p with lastRx := s.plumb.now, missed := 0 })))
    ∧ (∀ n pkg st, n < 30 → (s.port n).peer ≠ some pkg → Answers (.heartbeat n pkg st) s s)
    ∧ (∀ n, n < 30 → (s.port n).carries = true → 4194304 * ((s.port n).missed + 1) ≤ (s.plumb.now - (s.port n).lastRx).toNat →
        Answers (.heartbeatMissed n) s (if 3 ≤ (s.port n).missed + 1 then
          (s.setPort n (fun p => { p with missed := p.missed + 1 })).portFail n
        else s.setPort n (fun p => { p with missed := p.missed + 1 })))
    ∧ (∀ hub, isHub hub = true → Answers (.lnkApply hub) s (s.lnkApplyAt hub))
    ∧ (∀ hub, isHub hub = true → Answers (.lnkFlowsReset hub) s { s with flows := s.flows.filter (fun f => f.hub != hub) })
    ∧ (∀ a b r key u, d2dPairs.contains (min a b, max a b) = true → key = 16 * min a b + max a b →
        u = (if r then s else
          { s with d2dLost := kvSet s.d2dLost key (min ((kvGet s.d2dLost key).getD 0 + 1) (d2dModules (max a b))) }) →
        Answers (.d2dLaneRepair a b r) s
          ((u.draw.2.event (min a b) kRetrained noCtx (0x100 + key) 0#8 (leBytes 1 u.draw.1 ++ leBytes 4 (u.draw.1 / 256 % 80001))).distanceTable))

/-- A packet that a live port carries is received with its send stamp extended to the value within 2^39 ticks of the hub's time whose low 40 bits it
is: one to be forwarded whose header is out of range is dropped with its fault bit; one for this package goes to the unit of its TYPE (a read request,
a read completion, a write, a write reply); one for another package is forwarded. A WAKE raises the Lintel wake source and a FAULT_REPORT sets
PEER_FAULT and waits for the management port. -/
def Obligations.PacketsArrive : Prop :=
  ∀ (n : Nat) (p : Packet) (s : State), s.power.rails = true → n < 30 → (s.port n).carries = true →
    (∀ a tag len, p.body = .readRequest a tag len → s.carriesClass n p.cls = true → p.dest = s.sec.pkg → headerOk p = true →
      Answers (.readRequest n p) s
        ((((s.stampIn n p).meter n p.src p.job p.cls 0 (payloadBytes p.body)).count 5 (portHub n) n 1 (payloadBytes p.body)).readIn n p a tag len))
    ∧ (∀ tag st d bad, p.body = .readCompletion tag st d bad → s.carriesClass n p.cls = true → p.dest = s.sec.pkg → headerOk p = true →
        Answers (.readCompletion n p) s
          ((((s.stampIn n p).meter n p.src p.job p.cls 0 (payloadBytes p.body)).count 5 (portHub n) n 1 (payloadBytes p.body)).completionIn p tag st d bad))
    ∧ (∀ a tag d, p.body = .write a tag d → s.carriesClass n p.cls = true → p.dest = s.sec.pkg → headerOk p = true →
        Answers (.write n p) s
          ((((s.stampIn n p).meter n p.src p.job p.cls 0 (payloadBytes p.body)).count 5 (portHub n) n 1 (payloadBytes p.body)).writeIn n p a tag d))
    ∧ (∀ tag st, p.body = .writeReply tag st → s.carriesClass n p.cls = true → p.dest = s.sec.pkg → headerOk p = true →
        Answers (.writeReply n p) s
          ((((s.stampIn n p).meter n p.src p.job p.cls 0 (payloadBytes p.body)).count 5 (portHub n) n 1 (payloadBytes p.body)).writeReplyIn n p tag st))
    ∧ (s.carriesClass n p.cls = true → p.dest ≠ s.sec.pkg → headerOk p = true →
        Answers (.packetForward n p) s
          ((((s.stampIn n p).meter n p.src p.job p.cls 0 (payloadBytes p.body)).count 5 (portHub n) n 1 (payloadBytes p.body)).forward n p))
    ∧ (s.carriesClass n p.cls = true → p.dest ≠ s.sec.pkg → headerOk p = false →
        Answers (.packetForward n p) s (((s.stampIn n p).setBits (dieAt (portHub n)) .lnkFaults 4).portEvent n))
    ∧ (∀ V : BitVec 64, V.truncate 40 = p.stamp → -(2 ^ 39) < (V - s.dieNow (portHub n)).toInt → (V - s.dieNow (portHub n)).toInt < 2 ^ 39 →
        n < s.ports.length → ((s.stampIn n p).port n).rxStamp = V)
    ∧ Answers (.wake n) s ((s.raise 8 srcWake).wake 0)
    ∧ (∀ data, Answers (.faultReport n data) s { (s.setBits (dieAt (portHub n)) (.lnkStatus n) 0x80000).portEvent n with
        faults := s.faults ++ [data], ibi := s.ibi ++ [0x01#8] })

/-- Time limits: a waiting packet older than LNK_CFG.TIMEOUT is dropped with its fault bit, and an open take of this package that it carried fails its
command with LINK_FAILED; a command's remote access without an answer for that long fails the command with LINK_FAILED; a notice without a reply is
lost. -/
def Obligations.TimeLimitsAct : Prop :=
  ∀ s : State, s.power.rails = true →
    (∀ hub k w rest, isHub hub = true →
      takeNth (fun w => w.hub == hub && !(w.packet.src == s.sec.pkg && isMirror w.packet.body)) k s.routeWait = (some w, rest) →
      s.elapsed w.since (s.linkTimeout hub) = true → (∀ q, w.packet.body ≠ .leaseRequest q) →
      ∃ t, exec (.routeTimeout hub k) s = .next t ∧ t.routeWait = rest
        ∧ (t.reg (dieAt hub) .lnkFaults).getLsbD 1 = true ∧ SameMemory s t)
    ∧ (∀ hub k w rest q r x u, isHub hub = true →
        takeNth (fun w => w.hub == hub && !(w.packet.src == s.sec.pkg && isMirror w.packet.body)) k s.routeWait = (some w, rest) →
        s.elapsed w.since (s.linkTimeout hub) = true → w.packet.body = .leaseRequest q → w.packet.src = s.sec.pkg →
        u = ({ s with routeWait := rest } : State).setBits (dieAt hub) .lnkFaults 2 →
        s.leaseByTag q.tag = some (r, x) → x.phase = .asked →
        Answers (.routeTimeout hub k) s ((match u.routePorts hub w.packet.dest with
          | port :: _ => u.portEvent port
          | [] => u).failRun r stLink none))
    ∧ (∀ tag x lead r, s.remotes.find? (fun x => x.tag == tag) = some x → x.use = .command lead → s.runOf lead = some r →
        s.elapsed x.since (s.linkTimeout (servingHub (lead / 8))) = true →
        Answers (.remoteAccessTimeout tag) s
          (({ s with remotes := s.remotes.filter (fun y => y.tag != tag) } : State).failRun r stLink none))
    ∧ (∀ tag x hub c q, s.remotes.find? (fun x => x.tag == tag) = some x → x.use = .notice hub c q →
        s.elapsed x.since (s.linkTimeout hub) = true →
        Answers (.noticeTimeout tag) s (({ s with remotes := s.remotes.filter (fun y => y.tag != tag) } : State).noticeLost c q))

/-! ## Host, boundary scan and management -/

/-- Host accesses out of S2: a read of window A or B that R362 allows answers the bytes as stored, a poisoned one answers nothing and sets its
fault bit, a refused one answers ones and records it; a write is performed line by line under the pages' partitions or refused whole. A register read answers the
register; an access outside every window is refused. In S2 they are held. ENDPOINT_RESET counts up RESETS, clears the MSI-X table and raises
source 3. -/
def Obligations.HostAccessesRun : Prop :=
  ∀ (w off : Nat) (s : State), s.power.rails = true →
    (∀ len, w < 2 → off + len ≤ windowBytes w → s.power.st ≠ .s2 → s.hostAllowed false (windowSpace w) off len = true →
      s.poisoned (windowSpace w) off len = false →
      Answers (.hostWindowRead w off len) s { s with hostData := some (s.load (windowSpace w) off len) })
    ∧ (∀ len, w < 2 → off + len ≤ windowBytes w → s.power.st ≠ .s2 → s.hostAllowed false (windowSpace w) off len = true →
        s.poisoned (windowSpace w) off len = true → Answers (.hostWindowRead w off len) s { s.pciFault 1 with hostData := none })
    ∧ (∀ len, (2 < w ∨ (w < 2 ∧ windowBytes w < off + len) ∨ (w = 2 ∧ 2 ^ 32 < off + len)) →
        Answers (.hostWindowRead w off len) s { s.pciFault 0 with hostData := some [] })
    ∧ (∀ data, (2 < w ∨ (w < 2 ∧ windowBytes w < off + data.length) ∨ (w = 2 ∧ 2 ^ 32 < off + data.length)) →
        Answers (.hostWindowWrite w off data) s (s.pciFault 0))
    ∧ (∀ len, w < 2 → off + len ≤ windowBytes w → s.power.st ≠ .s2 → s.hostAllowed false (windowSpace w) off len = false →
        Answers (.hostWindowRead w off len) s { s.hostDenied false (windowSpace w) off len with hostData := some (onesBytes len) })
    ∧ (∀ len, w < 2 → off + len ≤ windowBytes w → s.power.st = .s2 →
        Answers (.hostWindowRead w off len) s (s.holdAccess (.hostWindowRead w off len) (some 2)))
    ∧ (∀ len v u, w = 2 → off + len ≤ 2 ^ 32 → s.power.st ≠ .s2 → s.regRead .host (s.aperture off) len = (v, u) →
        Answers (.hostWindowRead w off len) s { u with hostData := some (leBytes len v.toNat) })
    ∧ (∀ data, w < 2 → off + data.length ≤ windowBytes w → s.power.st ≠ .s2 →
        s.hostAllowed true (windowSpace w) off data.length = true →
        Answers (.hostWindowWrite w off data) s ((lineParts (data.length + 1) off data).foldl (fun s x =>
          s.store (s.entry (windowSpace w) x.1 % 16) 0 (windowSpace w) x.1 x.2 (s.dieNow (s.hubFor (windowSpace w) x.1))) s))
    ∧ (∀ data, w < 2 → off + data.length ≤ windowBytes w → s.power.st ≠ .s2 →
        s.hostAllowed true (windowSpace w) off data.length = false →
        Answers (.hostWindowWrite w off data) s (s.hostDenied true (windowSpace w) off data.length))
    ∧ (∀ data, w = 2 → off + data.length ≤ 2 ^ 32 → Answers (.hostWindowWrite w off data) s
        (s.registerWrite .host (s.aperture off) data.length (BitVec.ofNat 64 (leNat data))))
    ∧ ∃ t, exec .endpointReset s = .next t ∧ t.msix = [] ∧ (t.reg (dieAt 8) (.evtPending 0)).getLsbD 3 = true
        ∧ fld (t.reg (dieAt 8) .pciStatus) 16 16 = min 0xFFFF (fld (s.reg (dieAt 8) .pciStatus) 16 16 + 1) ∧ SameMemory s t

/-- Boundary scan: BYPASS, IDCODE and SAMPLE/PRELOAD act at any time, IDCODE with the part fields of the ten dies in chain order; EXTEST,
EXTEST_PULSE, EXTEST_TRAIN, CLAMP and HIGHZ act before the control cores first watch queues or in recovery, and else as BYPASS. A private
instruction acts as BYPASS until debug is unlocked with SCOPE bit 0. None changes memory or a register. -/
def Obligations.BoundaryScanRuns : Prop :=
  ∀ s : State, s.power.rails = true →
    Answers .bypass s { s with scan := .bypass } ∧ Answers .samplePreload s { s with scan := .samplePreload }
    ∧ Answers .idcode s
        { s with scan := .idcode, scanPart := [0x8209, 0x8200, 0x8200, 0x8200, 0x8200, 0x8200, 0x8200, 0x8200, 0x8200, 0x8209] }
    ∧ ((s.sec.watching = false ∨ s.sec.mode = .recovery) →
        Answers .extest s { s with scan := .extest } ∧ Answers .extestPulse s { s with scan := .extestPulse }
        ∧ Answers .extestTrain s { s with scan := .extestTrain } ∧ Answers .clamp s { s with scan := .clamp }
        ∧ Answers .highz s { s with scan := .highz })
    ∧ (s.sec.watching = true → s.sec.mode ≠ .recovery →
        ∀ c ∈ [Instr.extest, .extestPulse, .extestTrain, .clamp, .highz], Answers c s { s with scan := .bypass })
    ∧ (∀ k, (s.sec.debug = false ∨ s.sec.scope.getLsbD 0 = false) → Answers (.privateScanInstruction k) s { s with scan := .bypass })

/-- Management requests of a role that may make them are answered by their TYPE: IDENTIFY, HEALTH and FAULT_REPORT with their payload, REG_READ
and REG_WRITE outside S2 with the access, TELEMETRY with the oldest records, COLOPHON with up to 4088 bytes from OFFSET, RECOVERY_CHUNK in
recovery with the chunk's status. One the role may not make is answered DENIED. ENTDAA takes the address. Data Object Exchange answers a
colophon or a chunk out of S2. -/
def Obligations.ManagementAnswers : Prop :=
  ∀ (tag : BitVec 8) (s : State), s.power.rails = true →
    (∀ a, Answers (.entdaa a) s { s with i3cAddr := some a })
    ∧ Answers (.identify tag) s (s.asked.reply 1 tag mOk s.asked.identifyBytes)
    ∧ (s.asked.recovering = false →
        (∀ a, 2 ≤ s.asked.sec.role → s.asked.power.st ≠ .s2 → Answers (.regRead tag a) s (s.asked.mgmtRead tag a))
        ∧ (∀ a v, 2 ≤ s.asked.sec.role → s.asked.power.st ≠ .s2 → Answers (.regWrite tag a v) s (s.asked.mgmtWrite tag a v))
        ∧ (∀ a, s.asked.sec.role < 2 → Answers (.regRead tag a) s (s.asked.reply 2 tag mDenied []))
        ∧ (∀ a v, s.asked.sec.role < 2 → Answers (.regWrite tag a v) s (s.asked.reply 3 tag mDenied []))
        ∧ (∀ n, 2 ≤ s.asked.sec.role → n ≤ 64 → Answers (.telemetry tag n) s
            (({ s.asked with telem := s.asked.telem.drop n } : State).reply 4 tag mOk (s.asked.telem.take n).flatten))
        ∧ (1 ≤ s.asked.sec.role → Answers (.health tag) s (s.asked.reply 5 tag mOk s.asked.healthBytes))
        ∧ (∀ f rest, s.asked.faults = f :: rest → Answers (.mgmtFaultReport tag) s (({ s.asked with faults := rest } : State).reply 6 tag mOk f))
        ∧ (s.asked.faults = [] → Answers (.mgmtFaultReport tag) s (s.asked.reply 6 tag mOk []))
        ∧ (∀ ch, Answers (.recoveryChunk tag ch) s (s.asked.reply 8 tag mDenied [])))
    ∧ (∀ nonce off b t, s.asked.colophonAt nonce off = (some (some b), t) →
        Answers (.colophon tag nonce off) s (t.reply 7 tag mOk ((b.drop off).take 4088)))
    ∧ (∀ nonce off t, s.asked.colophonAt nonce off = (none, t) → Answers (.colophon tag nonce off) s (t.reply 7 tag mBad []))
    ∧ (∀ ch, s.asked.recovering = true →
        Answers (.recoveryChunk tag ch) s ((s.asked.takeChunk ch 4072).2.reply 8 tag mOk (leBytes 1 (s.asked.takeChunk ch 4072).1)))
    ∧ (∀ nonce, s.power.st ≠ .s2 → Answers (.doeColophon nonce) s ((s.raise 8 2).colophonDoe nonce))
    ∧ (∀ ch, s.power.st ≠ .s2 → Answers (.doeRecoveryImage ch) s ((s.raise 8 2).chunkDoe ch))

/-! ## Memory system -/

/-- PRT_GRANT_GO without GO changes nothing, with it writes the entries of the pages in order or is refused with its reason. MEM_APPLY whose
rates exceed a capacity is refused with reason 5. A refill adds RATE to each bucket of its hub up to 16 BURST and leaves the other hub's. An
admitted access takes 16 parts of its bucket, unless it borrows; one not admitted waits. A patrol read of a clean line changes nothing; a
corrected one is counted; an uncorrectable one is poisoned. -/
def Obligations.MemoryControlsRun : Prop :=
  ∀ (hub : Nat) (s : State), s.power.rails = true → isHub hub = true →
    (∀ v, fld v 16 1 = 0 → Answers (.prtGrantGo hub v) s s)
    ∧ (∀ v r, fld v 16 1 = 1 → s.grantReject hub (fld (s.reg (dieAt hub) .prtGrantPage) 43 2) (fld (s.reg (dieAt hub) .prtGrantPage) 0 27)
          (fld (s.reg (dieAt hub) .prtGrantPage) 27 16) (fld v 0 16) = some r → Answers (.prtGrantGo hub v) s (s.prtReject hub r))
    ∧ (∀ v, fld v 16 1 = 1 → s.grantReject hub (fld (s.reg (dieAt hub) .prtGrantPage) 43 2) (fld (s.reg (dieAt hub) .prtGrantPage) 0 27)
          (fld (s.reg (dieAt hub) .prtGrantPage) 27 16) (fld v 0 16) = none →
        Answers (.prtGrantGo hub v) s ((List.range (fld (s.reg (dieAt hub) .prtGrantPage) 27 16)).foldl (fun t i =>
          t.grantPage hub (fld (s.reg (dieAt hub) .prtGrantPage) 43 2) (fld (s.reg (dieAt hub) .prtGrantPage) 0 27 + i) (fld v 0 16)) s))
    ∧ (s.ratesFit hub = false → Answers (.memApply hub) s (s.prtReject hub 5))
    ∧ (s.ratesFit hub = true → ∃ t, exec (.memApply hub) s = .next t ∧ SameMemory s t ∧ t.regs = s.regs
        ∧ ∀ p r, s.regOf (regKey (dieAt hub) (.rgl p r)) = some (.rgl p r) →
            t.live' (dieAt hub) (.rgl p r) = s.reg (dieAt hub) (.rgl p r))
    ∧ (∃ t, exec (.regulatorRefill hub) s = .next t ∧ SameMemory s t ∧ SameRegisters s t ∧ t.tokens.length = s.tokens.length
        ∧ ∀ i n, s.tokens[i]? = some n → t.tokens[i]? = some (if i / 80 = hub - 8 then
            min (n + fld (s.live' (dieAt hub) (.rgl (i % 80 / 5) (i % 5))) 0 20) (fld (s.live' (dieAt hub) (.rgl (i % 80 / 5) (i % 5))) 20 24 * 16)
            else n))
    ∧ (∀ part res, part < 16 → res < 5 → 16 ≤ s.tokensOf hub part res →
        Answers (.accessAdmit hub part res) s
          { s with queueAcc := dropFirst (fun w => w.hub == hub && w.part == part && w.res == res) s.queueAcc,
                   tokens := modNth s.tokens (bucketIx hub part res) (fun t => t - 16) })
    ∧ (∀ part res, part < 16 → res < 5 → s.tokensOf hub part res < 16 → (s.admits hub part res).1 = false →
        s.queueAcc.any (fun w => w.hub == hub && w.part == part && w.res == res) = false →
        Answers (.accessAdmit hub part res) s { s with fresh := s.fresh + 1, queueAcc := s.queueAcc ++
          [{ hub := hub, part := part, res := res, id := Config.freeNat s.fresh }] })
    ∧ (∀ ctrl space off, ctrl < 14 → s.controllerOf hub space off = some ctrl → s.scrubHours hub ctrl ≠ 0 →
        Answers (.patrolScrub hub ctrl space off .clean) s s
        ∧ (∀ how, Answers (.patrolScrub hub ctrl space off (.corrected how)) s
            ((s.corrected hub ctrl (off - off % 64) how).rowHit hub ctrl space off))
        ∧ Answers (.patrolScrub hub ctrl space off .uncorrectable) s (s.poisonLine hub ctrl space off))

/-- LLM_CACHE_MODE and LLM_SCRATCHPAD_MODE set MODE and, for another mode than the present one, begin the switch with the array zeroed and no
line kept; LLM_SWITCH_DONE ends it. LLM_FLUSH drops the partition's lines and LLM_RELEASE_KEPT only releases its kept ones; both leave
every byte of memory. -/
def Obligations.LastLevelMemoryRuns : Prop :=
  ∀ (hub : Nat) (s : State), s.power.rails = true → isHub hub = true →
    ((s.llm hub).switching = none → (s.llm hub).cache = false →
      Answers (.llmCacheMode hub) s (((s.setField (dieAt hub) .llmCtl 0 1 1).zeroArray hub).setLlm hub (fun m => { m with switching := some true, lines := [] })))
    ∧ ((s.llm hub).switching = none → (s.llm hub).cache = true →
        Answers (.llmScratchpadMode hub) s (((s.setField (dieAt hub) .llmCtl 0 1 0).zeroArray hub).setLlm hub (fun m => { m with switching := some false, lines := [] })))
    ∧ ((s.llm hub).switching = none → (s.llm hub).cache = true → Answers (.llmCacheMode hub) s (s.setField (dieAt hub) .llmCtl 0 1 1))
    ∧ (∀ c, (s.llm hub).switching = some c →
        Answers (.llmSwitchDone hub) s (s.setLlm hub (fun m => { m with cache := c, switching := none, lines := [] })))
    ∧ ((s.llm hub).switching = none → Answers (.llmSwitchDone hub) s s)
    ∧ (∀ part, part < 16 → ∃ t, exec (.llmFlush hub part) s = .next t ∧ SameMemory s t ∧ SameRegisters s t
        ∧ (hub - 8 < s.llms.length → (t.llm hub).lines.all (fun l => l.part != part) = true))
    ∧ (∀ part, part < 16 → ∃ t, exec (.llmReleaseKept hub part) s = .next t ∧ SameMemory s t ∧ SameRegisters s t
        ∧ (hub - 8 < s.llms.length → (t.llm hub).lines.all (fun l => !(l.part == part && l.kept)) = true))

/-! ## Security, start-up and power -/

/-- A token of an operation is submitted: its result goes to SEC_STATUS, and one that is refused changes nothing else. One accepted renews the
challenge and has its effect: the hash burned and a new start, the slot revoked and a new start, or DEBUG with SCOPE, memory zeroed and
contexts torn down. KEY_LOAD_FRESH and KEY_LOAD_SEALED act on the record at SEC_KEY_BASE. SEC_KEY_ERASE with GO clears the slots named,
without it nothing. Whether a signature verifies is free (log entry 8). -/
def Obligations.SecurityRuns : Prop :=
  ∀ (s : State) (k : Bytes), s.power.rails = true →
    (num k 4 1 = 0 → Answers (.enrol k) s (if s.tokenResult k = resOk then (s.secResult resOk).newChallenge.enrol k
        else s.secResult (s.tokenResult k)))
    ∧ (num k 4 1 = 1 → Answers (.ownerRelease k) s (if s.tokenResult k = resOk then (s.secResult resOk).newChallenge.ownerRelease
        else s.secResult (s.tokenResult k)))
    ∧ (num k 4 1 = 2 → Answers (.debugUnlock k) s (if s.tokenResult k = resOk then (s.secResult resOk).newChallenge.debugUnlock (num k 72 8)
        else s.secResult (s.tokenResult k)))
    ∧ (num s.keyRecord 4 1 = 0 → s.ownerPage 0 s.keyOff = true → s.sec.debug = false → keyFormed s.keyRecord = true →
        Answers .keyLoadFresh s (s.keyFresh s.keyOff s.keyRecord))
    ∧ (num s.keyRecord 4 1 = 0 → s.ownerPage 0 s.keyOff = false → Answers .keyLoadFresh s (s.secResult resPage))
    ∧ (num s.keyRecord 4 1 = 1 → s.ownerPage 0 s.keyOff = true → s.sec.debug = false → keyFormed s.keyRecord = true →
        Answers .keyLoadSealed s (s.keySealed s.keyRecord))
    ∧ (∀ v, fld v 16 1 = 0 → Answers (.secKeyErase v) s s)
    ∧ (∀ v, fld v 16 1 = 1 → ∃ t, exec (.secKeyErase v) s = .next t ∧ t.sec.result = resOk
        ∧ ∀ p, 1 ≤ p → p < 16 → v.getLsbD p = true → kvGet t.sec.keys p = none)

/-- POWER_GOOD starts the package up once; a second one changes nothing. SELF_TEST_DONE after it retires the cores that failed, enters recovery 0x08
when a port failed or a die has more than four clusters fully retired, and else puts the ports in use, writes the distance table and ends in RUNNING,
or ends in recovery 0x06. NOR_WRITE_DONE puts the waiting image into the NOR device and starts up again; without one it changes nothing. -/
def Obligations.StartUpRuns : Prop :=
  ∀ s : State, s.power.rails = true →
    (∀ t, s.sec.booted = false → Answers (.powerGood t) s (s.startUp t))
    ∧ (∀ t, s.sec.booted = true → Answers (.powerGood t) s s)
    ∧ (∀ t, s.sec.booted = true → s.sec.mode = .starting →
        (!t.portsOk || (List.range 8).any ((retiredBy t).foldl State.retireAtStart s).dieFails) = true →
        Answers (.selfTestDone t) s (((retiredBy t).foldl State.retireAtStart s).recover 0x08))
    ∧ (∀ t u, s.sec.booted = true → s.sec.mode = .starting →
        (!t.portsOk || (List.range 8).any ((retiredBy t).foldl State.retireAtStart s).dieFails) = false →
        ((retiredBy t).foldl State.retireAtStart s).cfgApplyAll [7] = (u, true) → Answers (.selfTestDone t) s u.distanceTable.raiseMin.running)
    ∧ (∀ b, s.sec.writing = some (0, b) → Answers .norWriteDone s ({ s with fuses := { s.fuses with norFw := b } } : State).reboot)
    ∧ (∀ n b, s.sec.writing = some (n + 1, b) → Answers .norWriteDone s ({ s with fuses := { s.fuses with norCfg := b } } : State).reboot)
    ∧ (s.sec.writing = none → Answers .norWriteDone s s)

/-- The supply acts with the rails on or off: a rise through 47.0 V closes the switch and, with enable high and no trip held, raises the rails;
below 44.0 V, and with enable low, all state is lost and the rails are off; above 54.5 V the switch opens and below 54.0 V it closes again;
enable high with the switch closed raises the rails; a millisecond after a trip the rails are off and the package stays off. Raised rails
leave memory empty, the registers at reset and the fuses as before. -/
def Obligations.SupplyRuns : Prop :=
  ∀ s : State,
    (∀ mv, s.power.inputMv < 47000 → 47000 ≤ mv → mv ≤ 54500 → s.power.enable = true → s.power.latched = false → s.power.rails = false →
      ∃ t, exec (.inputRise mv) s = .next t ∧ t.power.rails = true ∧ t.power.switchOn = true ∧ t.power.inputMv = mv ∧ t.mem = []
        ∧ t.regs = State.reset.regs ∧ t.fuses = s.fuses ∧ t.pending = s.pending)
    ∧ (∀ mv, mv < 44000 → ∃ t, exec (.inputUndervoltage mv) s = .next t ∧ t.power.rails = false ∧ t.power.switchOn = false
        ∧ t.power.inputMv = mv ∧ t.mem = [] ∧ t.scratch = [] ∧ t.regs = State.reset.regs)
    ∧ (∀ mv, 44000 ≤ mv → Answers (.inputUndervoltage mv) s s)
    ∧ (∀ mv, 54500 < mv → Answers (.inputOvervoltage mv) s { s with power := { s.power with inputMv := mv, switchOn := false, overV := true } })
    ∧ (∀ mv, s.power.overV = true → mv < 54000 →
        Answers (.inputOvervoltageClear mv) s { s with power := { s.power with inputMv := mv, switchOn := true, overV := false } })
    ∧ (∃ t, exec .enableLow s = .next t ∧ t.power.rails = false ∧ t.power.enable = false ∧ t.power.latched = false ∧ t.mem = []
        ∧ t.regs = State.reset.regs)
    ∧ (s.power.switchOn = true → 47000 ≤ s.power.inputMv → s.power.latched = false →
        ∃ t, exec .enableHigh s = .next t ∧ t.power.rails = true ∧ t.power.enable = true)
    ∧ (∀ T, s.power.tripped = some T → 4000000 ≤ (s.plumb.now - T).toNat →
        ∃ t, exec .tripRailsOff s = .next t ∧ t.power.rails = false ∧ t.power.latched = true ∧ t.mem = [])
    ∧ (s.power.tripped = none → Answers .tripRailsOff s s)

/-- PWR_APPLY puts the power group into force. REQUEST_S0 ungates every cluster in S0 and REQUEST_S1 selects S1, out of S2 and of a move.
REQUEST_S2 begins the entry when no context is RUNNING, SUSPENDING or TEARING, else sets REFUSED. S2_ENTRY_DONE ends in S2 and S2_EXIT_DONE in
S1 with the held accesses performed in order. An enabled wake pin or timer of a package in S2 starts the exit; elsewhere it changes nothing. -/
def Obligations.PowerStatesRun : Prop :=
  ∀ s : State, s.power.rails = true →
    Answers .pwrApply s (s.applyNow (dieAt 8) .pwr)
    ∧ (s.power.st ≠ .s2 → s.power.moving = none →
        Answers .requestS0 s { s.setField (dieAt 8) .pwrState 0 2 0 with
          power := { s.power with st := .s0 }, keystones := s.keystones.map (fun k => { k with gated := false }) }
        ∧ Answers .requestS1 s { s.setField (dieAt 8) .pwrState 0 2 1 with power := { s.power with st := .s1 } })
    ∧ (s.ctxs.any (fun x => x.st == .running || x.st == .suspending || x.st == .tearing) = true →
        Answers .requestS2 s (s.setBits (dieAt 8) .pwrState 0x80))
    ∧ (s.ctxs.any (fun x => x.st == .running || x.st == .suspending || x.st == .tearing) = false → s.power.st ≠ .s2 → s.power.moving = none →
        Answers .requestS2 s { s.setField (dieAt 8) .pwrState 0 2 2 with power := { s.power with moving := some .s2 } })
    ∧ (s.power.moving = some .s2 → ∃ t, exec .s2EntryDone s = .next t ∧ t.power.st = .s2 ∧ t.power.moving = none ∧ t.power.waiting = []
        ∧ t.power.granted = [] ∧ (s.routeWait = [] → t.engines = []))
    ∧ (s.power.st = .s2 → s.power.moving = some .s1 →
        Answers .s2ExitDone s (s.leaveS2.held.foldl (fun s c => s.perform c) { s.leaveS2 with held := [] }))
    ∧ (s.power.st = .s2 → s.power.moving = none → (s.live' (dieAt 8) .pwrWakeEn).getLsbD 3 = true →
        ∃ t, exec .wakePin s = .next t ∧ t.power.moving = some .s1 ∧ (t.reg (dieAt 8) .pwrWakeCause).getLsbD 3 = true)
    ∧ (s.power.st ≠ .s2 → Answers .wakePin s s ∧ Answers .wakeTimer s s)
    ∧ (s.power.st = .s2 → s.power.moving = none → (s.live' (dieAt 8) .pwrWakeEn).getLsbD 4 = true → s.reg (dieAt 8) .pwrWakeAt ≠ 0#64 →
        (s.reg (dieAt 8) .pwrWakeAt).toNat ≤ s.plumb.now.toNat →
        ∃ t, exec .wakeTimer s = .next t ∧ t.power.moving = some .s1 ∧ (t.reg (dieAt 8) .pwrWakeCause).getLsbD 4 = true)

/-- A sensor reading is kept, and at WARN_C sets bit 12 of PWR_THERMAL; at 110 °C it stops every context once, reports and starts the trip.
A coolant limit broken for more than a second sets bit 14; the reading is kept. A fault that takes down a hub die, a compute die or the row
routes stops every context and reports. -/
def Obligations.ThermalAndFaultsRun : Prop :=
  ∀ s : State, s.power.rails = true →
    (∀ die c, die < 10 → c < (s.sensed die c).warnC → Answers (.thermalWarn die c) s (s.sensed die c))
    ∧ (∀ die c, die < 10 → (s.sensed die c).warnC ≤ c → Answers (.thermalWarn die c) s ((s.sensed die c).thermalFlag 12))
    ∧ (∀ die c, die < 10 → c < 110 → Answers (.thermalTrip die c) s (s.sensed die c))
    ∧ (∀ die c, die < 10 → 110 ≤ c → s.power.tripped = none →
        Answers (.thermalTrip die c) s ((({ (s.sensed die c) with power := { (s.sensed die c).power with tripped := some s.plumb.now } } : State).stopAll).report
          true [8, 9]))
    ∧ (∀ inlet outlet flow ms, 15 ≤ inlet → inlet ≤ 40 → 680 ≤ flow →
        Answers (.coolantLow inlet outlet flow ms) s { s with power := { s.power with coolant := (inlet, outlet, flow) } })
    ∧ (∀ inlet outlet flow ms, 40 < inlet → 1000 < ms →
        Answers (.coolantLow inlet outlet flow ms) s
          (({ s with power := { s.power with coolant := (inlet, outlet, flow) } } : State).thermalFlag 14))
    ∧ (∀ hub, isHub hub = true → Answers (.wholeDieFault (.hubDie hub)) s ((s.loseHub hub).stopAll.report (hub != 8) [17 - hub]))
    ∧ (∀ die, die < 8 → Answers (.wholeDieFault (.computeDie die)) s (s.stopAll.report true [8, 9]))
    ∧ Answers (.wholeDieFault .rowRoutes) s (s.stopAll.report true [8, 9])

/-- MIR_APPLY and MIR_RESYNC act on the hub's mirror ranges. A resynchronisation whose mark is acknowledged returns the range to MIRRORING and
forgets its lines. A mark from the partner becomes MARK with DIRTY and STALE clear and is acknowledged. A denied line breaks a mirroring
range; so do three idle partner ports. Without a twin carrier marks and breaks change nothing. -/
def Obligations.MirrorsRun : Prop :=
  ∀ (hub : Nat) (s : State), s.power.rails = true → isHub hub = true →
    Answers (.mirApply hub) s (s.mirApplyAt hub)
    ∧ (∀ v, Answers (.mirResync hub v) s (s.mirResyncAt hub v))
    ∧ (∀ m, m < 8 → s.mirSt hub m = 3 → s.mirror.any (fun e => e.hub == hub && e.m == m && e.mark.isSome && e.acked) = true →
        Answers (.resyncDone hub m) s
          (({ s with mirror := s.mirror.filter (fun e => !(e.hub == hub && e.m == m && e.acked)) } : State).setField (dieAt hub) (.mirOutState m) 0 2 1))
    ∧ (∀ m, m < 8 → s.mirSt hub m ≠ 3 → Answers (.resyncDone hub m) s s)
    ∧ (∀ m tag T u, m < 8 → s.twin = true → u = (s.setReg (dieAt hub) (.mirInMark m) T).setReg (dieAt hub) (.mirInState m) 0#64 →
        Answers (.mirrorMark hub m tag T) s
          (u.sendBy hub (u.packet (u.peerPkg (if hub = 8 then 12 else 27)) 0 0#16 (.writeReply tag 0))))
    ∧ (∀ m, m < 8 → s.twin = true → Answers (.mirrorBreak hub m true) s (s.mirBreak hub m true))
    ∧ (∀ m, m < 8 → s.twin = true → (partnerPorts hub).all s.portIdle = true →
        Answers (.mirrorBreak hub m false) s ((s.mirBreak hub m false).mirrorStale hub m))
    ∧ (∀ m tag T denied, m < 8 → s.twin = false → Answers (.mirrorMark hub m tag T) s s ∧ Answers (.mirrorBreak hub m denied) s s)

/-- The claim of R403: a source is claimable by core k when it is pending, enabled and not active, its TARGET is k and its PRIORITY exceeds
EVT_THRESHOLD[k]. A claim answers 0 and changes nothing else when none is; else the claimable source of highest priority, the lowest number
among equals, with its pending bit cleared and its active bit set. A completion clears the active bit of a source the core claimed and is
otherwise ignored. EVT_RAISE makes sources 768 to 1023 pending and ignores the others. -/
def Obligations.EventsRun : Prop :=
  ∀ (hub k : Nat) (s : State), s.power.rails = true → isHub hub = true → k < 4 →
    ((∀ n, n < 1024 → s.claimable hub k n = false) → Answers (.evtClaim hub k) s { s with readData := 0#64 })
    ∧ (∀ n, 0 < n → n < 1024 → s.claimable hub k n = true → s.claimable hub k 0 = false →
        (∀ j, j < 1024 → s.claimable hub k j = true → s.evtPrio hub j < s.evtPrio hub n ∨ (s.evtPrio hub j = s.evtPrio hub n ∧ n ≤ j)) →
        ∃ t, exec (.evtClaim hub k) s = .next t ∧ t.readData = BitVec.ofNat 64 n ∧ t.evtIsPending hub n = false ∧ t.evtIsActive hub n = true
          ∧ t.claims = s.claims ++ [{ hub := hub, source := n, core := k }] ∧ SameMemory s t
          ∧ ∀ j, j < 1024 → j ≠ n → t.evtIsPending hub j = s.evtIsPending hub j)
    ∧ (∀ n, Answers (.evtComplete hub k n) s { s with claims := s.claims.filter (fun c => !(c.hub == hub && c.source == n && c.core == k)) })
    ∧ (∀ n, 768 ≤ n → n ≤ 1023 → ∃ t, exec (.evtRaise hub n) s = .next t ∧ t.evtIsPending hub n = true ∧ SameMemory s t
        ∧ t.claims = s.claims)
    ∧ (∀ n, (n < 768 ∨ 1023 < n) → Answers (.evtRaise hub n) s s)

/-! ## Numbers -/

/-- FP16 accumulation (R65): the word that products of FP16 values give, up to 2^31 of them, has VALUE equal to the exact sum of the finite
products in units of 2^-48, with ANCHOR 0, and neither INEXACT_LOW nor OVERFLOW; it is the same word for every order of the products and for
every split into a first pass that is spilled and a second that reloads it. -/
def Obligations.HalfSumsAreExact : Prop :=
  ∀ l : List (Nat × Nat), l.length ≤ 2 ^ 31 →
    (halfSum l).value = (l.map halfUnits).sum ∧ (halfSum l).anchor = 0 ∧ (halfSum l).inexactLow = false ∧ (halfSum l).overflow = false
      ∧ (∀ l', l'.Perm l → halfSum l' = halfSum l)
      ∧ ∀ l1 l2, l = l1 ++ l2 →
          (accumulate (Acc.reload (halfSum l1)) (l2.map halfProduct)).finish = halfSum l

/-- No bit of a number is dropped: an EXA128 word whose VALUE and ANCHOR are in range is the word read from its 128 bits, and an FP16 or FP32
code that is no NaN is the code its value is written as, raising no count; a NaN is written as the canonical one. -/
def Obligations.NumbersRoundTrip : Prop :=
  (∀ x : Exa, -(2 ^ 111) ≤ x.value → x.value < 2 ^ 111 → -128 ≤ x.anchor → x.anchor ≤ 127 → exaOf (exaNat x) = x)
  ∧ ∀ (w : Bool) (n : Nat), n < (if w then 2 ^ 32 else 2 ^ 16) →
      encFp w (fpOf w n) = Res.of (if isNan w n then nanBits w else n)

/-- Minimum, maximum and comparisons of FP16 and FP32 codes (R86): minimum and maximum give the canonical NaN if either operand is a NaN and
else the lesser and the greater code, -0 below +0; a comparison follows the order of the values, -0 equal to +0, and with a NaN only "not
equal" holds. -/
def Obligations.ExtremesAndComparisons : Prop :=
  ∀ (w : Bool) (a b : Nat), a < (if w then 2 ^ 32 else 2 ^ 16) → b < (if w then 2 ^ 32 else 2 ^ 16) →
    ((isNan w a || isNan w b) = true →
      (vecBinary 3 w (fpOf w a) (fpOf w b)).bits = nanBits w ∧ (vecBinary 4 w (fpOf w a) (fpOf w b)).bits = nanBits w
        ∧ vecCompare 0 (fpOf w a) (fpOf w b) = 0 ∧ vecCompare 1 (fpOf w a) (fpOf w b) = 1 ∧ vecCompare 2 (fpOf w a) (fpOf w b) = 0
        ∧ vecCompare 3 (fpOf w a) (fpOf w b) = 0)
    ∧ ((isNan w a || isNan w b) = false →
      (vecBinary 3 w (fpOf w a) (fpOf w b)).bits = (if codeOrder w a < codeOrder w b ∨ (codeOrder w a = codeOrder w b ∧ a ≥ b) then a else b)
        ∧ (vecBinary 4 w (fpOf w a) (fpOf w b)).bits = (if codeOrder w b < codeOrder w a ∨ (codeOrder w a = codeOrder w b ∧ a ≤ b) then a else b)
        ∧ vecCompare 0 (fpOf w a) (fpOf w b) = b2n (decide (codeOrder w a = codeOrder w b))
        ∧ vecCompare 1 (fpOf w a) (fpOf w b) = b2n (decide (codeOrder w a ≠ codeOrder w b))
        ∧ vecCompare 2 (fpOf w a) (fpOf w b) = b2n (decide (codeOrder w a < codeOrder w b))
        ∧ vecCompare 3 (fpOf w a) (fpOf w b) = b2n (decide (codeOrder w a ≤ codeOrder w b)))

/-- Narrowing of an INT32 element v to INT16 by a shift s of 0 to 31 (R92): the value floor(v / 2^s), or with rounding half up
floor((v + 2^(s - 1)) / 2^s) for s above 0, saturated to -32768 and 32767; the element marks a saturation exactly when it saturated, and a
list of elements adds one to the saturation count for each mark. -/
def Obligations.NarrowingSaturates : Prop :=
  ∀ (s : Nat) (half : Bool) (v : Int), s ≤ 31 → -(2 ^ 31) ≤ v → v < 2 ^ 31 →
    (∃ x : Int, x * 2 ^ s ≤ v + (if half ∧ 0 < s then 2 ^ (s - 1) else 0) ∧ v + (if half ∧ 0 < s then 2 ^ (s - 1) else 0) < (x + 1) * 2 ^ s
      ∧ narrow s half v = (max (-32768) (min 32767 x), decide (x < -32768 ∨ 32767 < x)))
    ∧ (intRes 16 (narrow s half v)).sat = (narrow s half v).2
    ∧ ∀ l : List Int, tally (l.map (fun v => intRes 16 (narrow s half v))) (·.sat) = (l.filter (fun v => (narrow s half v).2)).length

/-- The status of a command that commits (R96, subject to the precedence of R15): where none of the codes 0x01 to 0x06 applies, SATURATED for a
SATURATED sum that is not zero, otherwise OVERFLOW_SEEN for an OVERFLOW or NAN sum that is not zero, otherwise OK; and the status is the same
whatever UNDERFLOW, EMPTY_ROWS and INEXACT_LOW are. -/
def Obligations.CountsSetTheStatus : Prop :=
  ∀ (r : Run) (h : Here),
    (r.status h < 0x10 → 0x01 ≤ r.status h ∧ r.status h ≤ 0x06 ∨ r.status h = stOk)
    ∧ ((r.status h = stOk ∨ 0x10 ≤ r.status h) →
        r.status h = (if r.sum (·.saturated) ≠ 0 then stSaturated
          else if r.sum (·.overflow) ≠ 0 ∨ r.sum (·.nan) ≠ 0 then stOverflow else stOk))
    ∧ ∀ f : Counts → Nat × Nat × Nat, Run.status { r with counts := r.counts.map (fun c =>
        { c with underflow := (f c).1, emptyRows := (f c).2.1, inexactLow := (f c).2.2 }) } h = r.status h
end

