-- ==== Sys2Proof/Laws/Memory.lean ====
section
/-! SUPPORT. Memory cells: every operation keeps the canonical form, a read after a write gives what was written, and a write leaves
every other byte alone. Keyed lists: what a key reads after another was set or removed. -/

namespace Sys2Proof.Machine

/-! ## The canonical form -/

/-- Every listed address lies above `a`. -/
def Above (a : Nat) (m : List Host.Cell) : Prop := ∀ c ∈ m, a < c.1

theorem wf_cons_iff (a : Nat) (b : Byte) (m : List Host.Cell) :
    Memory.wf ((a, b) :: m) = true ↔ b ≠ 0#8 ∧ Above a m ∧ Memory.wf m = true := by
  induction m generalizing a b with
  | nil => simp [Memory.wf, Above]
  | cons c t ih =>
    obtain ⟨x, y⟩ := c
    have h := ih x y
    simp only [Memory.wf, Bool.and_eq_true, decide_eq_true_eq, bne_iff_ne, ne_eq]
    constructor
    · rintro ⟨⟨hb, hax⟩, ht⟩
      refine ⟨hb, ?_, ht⟩
      have ha := (h.1 ht).2.1
      intro c hc
      rcases List.mem_cons.1 hc with rfl | hc
      · exact hax
      · exact Nat.lt_trans hax (ha c hc)
    · rintro ⟨hb, ha, ht⟩
      exact ⟨⟨hb, ha (x, y) (by simp)⟩, ht⟩

@[simp] theorem wf_nil : Memory.wf [] = true := rfl

theorem above_memSet {k a : Nat} {b : Byte} {m : List Host.Cell} (hk : k < a) (h : Above k m) : Above k (memSet m a b) := by
  induction m with
  | nil =>
    simp only [memSet]
    split
    · exact h
    · intro c hc
      simp only [List.mem_singleton] at hc
      subst hc
      exact hk
  | cons c t ih =>
    obtain ⟨x, y⟩ := c
    have ht : Above k t := fun c hc => h c (List.mem_cons_of_mem _ hc)
    have hx : k < x := h (x, y) (by simp)
    simp only [memSet]
    split
    · split
      · exact h
      · intro c hc
        rcases List.mem_cons.1 hc with rfl | hc
        · exact hk
        · exact h c hc
    · split
      · split
        · exact ht
        · intro c hc
          rcases List.mem_cons.1 hc with rfl | hc
          · exact hk
          · exact ht c hc
      · intro c hc
        rcases List.mem_cons.1 hc with rfl | hc
        · exact hx
        · exact ih ht c hc

/-- Storing a byte keeps the canonical form. -/
theorem memSet_wf {m : List Host.Cell} (a : Nat) (b : Byte) (h : Memory.wf m = true) : Memory.wf (memSet m a b) = true := by
  induction m with
  | nil =>
    simp only [memSet]
    split
    · rfl
    · simpa [Memory.wf] using ‹¬b = 0#8›
  | cons c t ih =>
    obtain ⟨x, y⟩ := c
    have hx := (wf_cons_iff x y t).1 h
    simp only [memSet]
    split
    · split
      · exact h
      · refine (wf_cons_iff _ _ _).2 ⟨‹_›, ?_, h⟩
        intro c hc
        rcases List.mem_cons.1 hc with rfl | hc
        · assumption
        · exact Nat.lt_trans ‹a < x› (hx.2.1 c hc)
    · split
      · subst_vars
        split
        · exact hx.2.2
        · exact (wf_cons_iff _ _ _).2 ⟨‹_›, hx.2.1, hx.2.2⟩
      · exact (wf_cons_iff _ _ _).2 ⟨hx.1, above_memSet (by omega) hx.2.1, ih hx.2.2⟩

/-- Storing a byte string keeps the canonical form. -/
theorem memWrite_wf {m : List Host.Cell} (a : Nat) (bs : Bytes) (h : Memory.wf m = true) : Memory.wf (memWrite m a bs) = true := by
  induction bs generalizing m a with
  | nil => exact h
  | cons b t ih => exact ih (a + 1) (memSet_wf a b h)

theorem filter_wf {m : List Host.Cell} (p : Host.Cell → Bool) (h : Memory.wf m = true) : Memory.wf (m.filter p) = true := by
  induction m with
  | nil => rfl
  | cons c t ih =>
    obtain ⟨x, y⟩ := c
    have hx := (wf_cons_iff x y t).1 h
    simp only [List.filter_cons]
    split
    · exact (wf_cons_iff _ _ _).2 ⟨hx.1, fun c hc => hx.2.1 c (List.mem_filter.1 hc).1, ih hx.2.2⟩
    · exact ih hx.2.2

/-- Clearing a range keeps the canonical form. -/
theorem memClear_wf {m : List Host.Cell} (a n : Nat) (h : Memory.wf m = true) : Memory.wf (memClear m a n) = true := filter_wf _ h

/-- Whatever the cells, their canonical list has the canonical form. -/
theorem memCanon_wf (m : List Host.Cell) : Memory.wf (memCanon m) = true := by
  induction m with
  | nil => rfl
  | cons c t ih => exact memSet_wf c.1 c.2 ih

/-! ## Reading -/

theorem memGet_above {a : Nat} {m : List Host.Cell} (h : Above a m) : memGet m a = 0#8 := by
  induction m with
  | nil => rfl
  | cons c t ih =>
    obtain ⟨x, y⟩ := c
    have hx : a < x := h (x, y) (by simp)
    simp only [memGet]
    rw [if_neg (by omega)]
    exact ih fun c hc => h c (List.mem_cons_of_mem _ hc)

theorem memSet_above {m : List Host.Cell} {a : Nat} {b : Byte} (hb : b ≠ 0#8) (h : Above a m) : memSet m a b = (a, b) :: m := by
  cases m with
  | nil => simp [memSet, hb]
  | cons c t =>
    obtain ⟨x, y⟩ := c
    have hx : a < x := h (x, y) (by simp)
    simp [memSet, hx, hb]

/-- A list in canonical form is its own canonical list. -/
theorem memCanon_of_wf {m : List Host.Cell} (h : Memory.wf m = true) : memCanon m = m := by
  induction m with
  | nil => rfl
  | cons c t ih =>
    obtain ⟨x, y⟩ := c
    have hx := (wf_cons_iff x y t).1 h
    simp only [memCanon, ih hx.2.2]
    exact memSet_above hx.1 hx.2.1

/-- A byte reads as what was stored there last, and every other byte as before. -/
theorem memGet_memSet {m : List Host.Cell} (h : Memory.wf m = true) (a : Nat) (b : Byte) (x : Nat) :
    memGet (memSet m a b) x = if x = a then b else memGet m x := by
  induction m with
  | nil =>
    simp only [memSet]
    split
    · subst_vars
      simp [memGet]
    · simp only [memGet]
      split
      · subst_vars
        simp
      · rw [if_neg (fun hx => ‹¬a = x› hx.symm)]
  | cons c t ih =>
    obtain ⟨k, y⟩ := c
    have hx := (wf_cons_iff k y t).1 h
    simp only [memSet]
    split
    · rename_i hak
      have habove : Above a ((k, y) :: t) := by
        intro c hc
        rcases List.mem_cons.1 hc with rfl | hc
        · exact hak
        · exact Nat.lt_trans hak (hx.2.1 c hc)
      split
      · subst_vars
        split
        · subst_vars
          exact memGet_above habove
        · rfl
      · by_cases hxa : a = x
        · subst hxa
          simp [memGet]
        · rw [if_neg (fun e => hxa e.symm)]
          conv => lhs; unfold memGet
          rw [if_neg hxa]
    · split
      · subst_vars
        split
        · subst_vars
          split
          · subst_vars
            exact memGet_above hx.2.1
          · conv => rhs; unfold memGet
            rw [if_neg (fun e => ‹¬x = _› e.symm)]
        · by_cases hxa : k = x
          · subst hxa
            simp [memGet]
          · rw [if_neg (fun e => hxa e.symm)]
            simp [memGet, hxa]
      · by_cases hkx : k = x
        · subst hkx
          simp only [memGet, if_pos]
          rw [if_neg (fun e => ‹¬a = _› e.symm)]
        · simp only [memGet, if_neg hkx]
          exact ih hx.2.2

/-- The canonical list reads as the cells do. -/
theorem memGet_memCanon (m : List Host.Cell) (x : Nat) : memGet (memCanon m) x = memGet m x := by
  induction m with
  | nil => rfl
  | cons c t ih =>
    obtain ⟨k, y⟩ := c
    simp only [memCanon, memGet_memSet (memCanon_wf t), ih]
    simp only [memGet]
    by_cases hk : k = x
    · simp [hk]
    · rw [if_neg hk, if_neg (fun e => hk e.symm)]

/-- A stored byte string reads back, and every byte outside it reads as before. -/
theorem memGet_memWrite {m : List Host.Cell} (h : Memory.wf m = true) (a : Nat) (bs : Bytes) (x : Nat) :
    memGet (memWrite m a bs) x = if a ≤ x ∧ x < a + bs.length then (bs[x - a]?).getD 0#8 else memGet m x := by
  induction bs generalizing m a with
  | nil =>
    have : ¬(a ≤ x ∧ x < a + ([] : Bytes).length) := by simp
    rw [if_neg this]
    rfl
  | cons b t ih =>
    simp only [memWrite, ih (memSet_wf a b h) (a + 1), memGet_memSet h, List.length_cons]
    by_cases hx : x = a
    · subst hx
      rw [if_neg (by omega), if_pos rfl, if_pos (by omega)]
      simp
    · by_cases hin : a + 1 ≤ x ∧ x < a + 1 + t.length
      · rw [if_pos hin, if_pos (by omega)]
        obtain ⟨i, hi⟩ : ∃ i, x - a = i + 1 := ⟨x - a - 1, by omega⟩
        rw [hi, show x - (a + 1) = i by omega]
        simp
      · rw [if_neg hin, if_neg hx, if_neg (by omega)]

/-- A cleared range reads 0, and every byte outside it reads as before. -/
theorem memGet_memClear (m : List Host.Cell) (a n x : Nat) :
    memGet (memClear m a n) x = if a ≤ x ∧ x < a + n then 0#8 else memGet m x := by
  induction m with
  | nil => simp [memClear, memGet]
  | cons c t ih =>
    obtain ⟨k, y⟩ := c
    have ih' : memGet (List.filter (fun c => decide (c.1 < a) || decide (a + n ≤ c.1)) t) x
        = if a ≤ x ∧ x < a + n then 0#8 else memGet t x := ih
    simp only [memClear, List.filter_cons]
    by_cases hk : k < a ∨ a + n ≤ k
    · rw [if_pos (by simpa using hk)]
      simp only [memGet, ih']
      by_cases hx : k = x
      · subst hx
        rw [if_pos rfl, if_neg (by omega), if_pos rfl]
      · rw [if_neg hx, if_neg hx]
    · rw [if_neg (by simpa using hk), ih']
      simp only [memGet]
      by_cases hx : k = x
      · subst hx
        rw [if_pos (by omega), if_pos (by omega)]
      · rw [if_neg hx]

/-! ## Keyed lists -/

/-- A key that was removed reads none; every other key reads as before. -/
theorem kvGet_kvDel {α : Type} (l : List (Nat × α)) (a x : Nat) : kvGet (kvDel l a) x = if x = a then none else kvGet l x := by
  induction l with
  | nil => simp [kvDel, kvGet]
  | cons e t ih =>
    obtain ⟨k, v⟩ := e
    have ih' : kvGet (List.filter (fun e => e.1 != a) t) x = if x = a then none else kvGet t x := ih
    simp only [kvDel, List.filter_cons]
    by_cases hk : k = a
    · subst hk
      simp only [bne_self_eq_false, Bool.false_eq_true, if_false, ih', kvGet]
      by_cases hx : x = k
      · rw [if_pos hx, if_pos hx]
      · rw [if_neg hx, if_neg hx, if_neg (fun e => hx e.symm)]
    · rw [if_pos (by simpa using hk)]
      simp only [kvGet, ih']
      by_cases hx : k = x
      · subst hx
        rw [if_pos rfl, if_neg hk, if_pos rfl]
      · rw [if_neg hx, if_neg hx]

/-- A key that was set reads its value. -/
theorem kvGet_kvSet_same {α : Type} (l : List (Nat × α)) (a : Nat) (v : α) : kvGet (kvSet l a v) a = some v := by
  induction l with
  | nil => simp [kvSet, kvGet]
  | cons e t ih =>
    obtain ⟨k, w⟩ := e
    simp only [kvSet]
    split
    · simp [kvGet]
    · split
      · simp [kvGet]
      · simp only [kvGet]
        rw [if_neg (fun e => ‹¬a = k› e.symm)]
        exact ih

/-- A key reads as before when another was set. -/
theorem kvGet_kvSet_other {α : Type} (l : List (Nat × α)) {a x : Nat} (v : α) (h : x ≠ a) : kvGet (kvSet l a v) x = kvGet l x := by
  induction l with
  | nil => simp [kvSet, kvGet, Ne.symm h]
  | cons e t ih =>
    obtain ⟨k, w⟩ := e
    simp only [kvSet]
    split
    · simp [kvGet, Ne.symm h]
    · split
      · subst_vars
        simp [kvGet, Ne.symm h]
      · simp only [kvGet, ih]

end Sys2Proof.Machine
end

