-- ==== Sys2Proof/Laws/State.lean ====
section
/-! SUPPORT. One lemma for each update of the state and each field it leaves alone, so that no proof unfolds a record update. -/

namespace Sys2Proof.Machine

/-! ## settle -/

@[simp] theorem settle_regs (s t : State) : (settle s t).regs = t.regs := rfl
@[simp] theorem settle_pend (s t : State) : (settle s t).pend = t.pend := rfl
@[simp] theorem settle_live (s t : State) : (settle s t).live = t.live := rfl
@[simp] theorem settle_poison (s t : State) : (settle s t).poison = t.poison := rfl
@[simp] theorem settle_memTags (s t : State) : (settle s t).memTags = t.memTags := rfl
@[simp] theorem settle_indet (s t : State) : (settle s t).indet = t.indet := rfl
@[simp] theorem settle_zeroClear (s t : State) : (settle s t).zeroClear = t.zeroClear := rfl
@[simp] theorem settle_farGiB (s t : State) : (settle s t).farGiB = t.farGiB := rfl
@[simp] theorem settle_farChans (s t : State) : (settle s t).farChans = t.farChans := rfl
@[simp] theorem settle_cxlGiB (s t : State) : (settle s t).cxlGiB = t.cxlGiB := rfl
@[simp] theorem settle_scratchG (s t : State) : (settle s t).scratchG = t.scratchG := rfl
@[simp] theorem settle_engines (s t : State) : (settle s t).engines = t.engines := rfl
@[simp] theorem settle_keystones (s t : State) : (settle s t).keystones = t.keystones := rfl
@[simp] theorem settle_runs (s t : State) : (settle s t).runs = t.runs := rfl
@[simp] theorem settle_ctxs (s t : State) : (settle s t).ctxs = t.ctxs := rfl
@[simp] theorem settle_programs (s t : State) : (settle s t).programs = t.programs := rfl
@[simp] theorem settle_nextUid (s t : State) : (settle s t).nextUid = t.nextUid := rfl
@[simp] theorem settle_plumb (s t : State) : (settle s t).plumb = t.plumb := rfl
@[simp] theorem settle_rings (s t : State) : (settle s t).rings = t.rings := rfl
@[simp] theorem settle_capture (s t : State) : (settle s t).capture = t.capture := rfl
@[simp] theorem settle_counters (s t : State) : (settle s t).counters = t.counters := rfl
@[simp] theorem settle_reds (s t : State) : (settle s t).reds = t.reds := rfl
@[simp] theorem settle_receipts (s t : State) : (settle s t).receipts = t.receipts := rfl
@[simp] theorem settle_rcptSel (s t : State) : (settle s t).rcptSel = t.rcptSel := rfl
@[simp] theorem settle_trailSeq (s t : State) : (settle s t).trailSeq = t.trailSeq := rfl
@[simp] theorem settle_sends (s t : State) : (settle s t).sends = t.sends := rfl
@[simp] theorem settle_shards (s t : State) : (settle s t).shards = t.shards := rfl
@[simp] theorem settle_readers (s t : State) : (settle s t).readers = t.readers := rfl
@[simp] theorem settle_waits (s t : State) : (settle s t).waits = t.waits := rfl
@[simp] theorem settle_leased (s t : State) : (settle s t).leased = t.leased := rfl
@[simp] theorem settle_llms (s t : State) : (settle s t).llms = t.llms := rfl
@[simp] theorem settle_tokens (s t : State) : (settle s t).tokens = t.tokens := rfl
@[simp] theorem settle_queueAcc (s t : State) : (settle s t).queueAcc = t.queueAcc := rfl
@[simp] theorem settle_rowHits (s t : State) : (settle s t).rowHits = t.rowHits := rfl
@[simp] theorem settle_corrAt (s t : State) : (settle s t).corrAt = t.corrAt := rfl
@[simp] theorem settle_ports (s t : State) : (settle s t).ports = t.ports := rfl
@[simp] theorem settle_flows (s t : State) : (settle s t).flows = t.flows := rfl
@[simp] theorem settle_d2dLost (s t : State) : (settle s t).d2dLost = t.d2dLost := rfl
@[simp] theorem settle_routeWait (s t : State) : (settle s t).routeWait = t.routeWait := rfl
@[simp] theorem settle_sentOut (s t : State) : (settle s t).sentOut = t.sentOut := rfl
@[simp] theorem settle_remotes (s t : State) : (settle s t).remotes = t.remotes := rfl
@[simp] theorem settle_nextTag (s t : State) : (settle s t).nextTag = t.nextTag := rfl
@[simp] theorem settle_vectors (s t : State) : (settle s t).vectors = t.vectors := rfl
@[simp] theorem settle_hostData (s t : State) : (settle s t).hostData = t.hostData := rfl
@[simp] theorem settle_readData (s t : State) : (settle s t).readData = t.readData := rfl
@[simp] theorem settle_doeReply (s t : State) : (settle s t).doeReply = t.doeReply := rfl
@[simp] theorem settle_mgmt (s t : State) : (settle s t).mgmt = t.mgmt := rfl
@[simp] theorem settle_ibi (s t : State) : (settle s t).ibi = t.ibi := rfl
@[simp] theorem settle_faults (s t : State) : (settle s t).faults = t.faults := rfl
@[simp] theorem settle_i3cAddr (s t : State) : (settle s t).i3cAddr = t.i3cAddr := rfl
@[simp] theorem settle_telem (s t : State) : (settle s t).telem = t.telem := rfl
@[simp] theorem settle_scan (s t : State) : (settle s t).scan = t.scan := rfl
@[simp] theorem settle_scanPart (s t : State) : (settle s t).scanPart = t.scanPart := rfl
@[simp] theorem settle_msix (s t : State) : (settle s t).msix = t.msix := rfl
@[simp] theorem settle_fuses (s t : State) : (settle s t).fuses = t.fuses := rfl
@[simp] theorem settle_sec (s t : State) : (settle s t).sec = t.sec := rfl
@[simp] theorem settle_power (s t : State) : (settle s t).power = t.power := rfl
@[simp] theorem settle_streams (s t : State) : (settle s t).streams = t.streams := rfl
@[simp] theorem settle_medBusy (s t : State) : (settle s t).medBusy = t.medBusy := rfl
@[simp] theorem settle_mirror (s t : State) : (settle s t).mirror = t.mirror := rfl
@[simp] theorem settle_claims (s t : State) : (settle s t).claims = t.claims := rfl
@[simp] theorem settle_held (s t : State) : (settle s t).held = t.held := rfl
@[simp] theorem settle_fresh (s t : State) : (settle s t).fresh = t.fresh := rfl

/-! ## setReg -/

@[simp] theorem setReg_pend (s : State) (b : Nat) (r : Reg) (v : BitVec 64) : (s.setReg b r v).pend = s.pend := rfl
@[simp] theorem setReg_live (s : State) (b : Nat) (r : Reg) (v : BitVec 64) : (s.setReg b r v).live = s.live := rfl
@[simp] theorem setReg_mem (s : State) (b : Nat) (r : Reg) (v : BitVec 64) : (s.setReg b r v).mem = s.mem := rfl
@[simp] theorem setReg_poison (s : State) (b : Nat) (r : Reg) (v : BitVec 64) : (s.setReg b r v).poison = s.poison := rfl
@[simp] theorem setReg_memTags (s : State) (b : Nat) (r : Reg) (v : BitVec 64) : (s.setReg b r v).memTags = s.memTags := rfl
@[simp] theorem setReg_indet (s : State) (b : Nat) (r : Reg) (v : BitVec 64) : (s.setReg b r v).indet = s.indet := rfl
@[simp] theorem setReg_zeroClear (s : State) (b : Nat) (r : Reg) (v : BitVec 64) : (s.setReg b r v).zeroClear = s.zeroClear := rfl
@[simp] theorem setReg_farGiB (s : State) (b : Nat) (r : Reg) (v : BitVec 64) : (s.setReg b r v).farGiB = s.farGiB := rfl
@[simp] theorem setReg_farChans (s : State) (b : Nat) (r : Reg) (v : BitVec 64) : (s.setReg b r v).farChans = s.farChans := rfl
@[simp] theorem setReg_cxlGiB (s : State) (b : Nat) (r : Reg) (v : BitVec 64) : (s.setReg b r v).cxlGiB = s.cxlGiB := rfl
@[simp] theorem setReg_scratch (s : State) (b : Nat) (r : Reg) (v : BitVec 64) : (s.setReg b r v).scratch = s.scratch := rfl
@[simp] theorem setReg_scratchG (s : State) (b : Nat) (r : Reg) (v : BitVec 64) : (s.setReg b r v).scratchG = s.scratchG := rfl
@[simp] theorem setReg_engines (s : State) (b : Nat) (r : Reg) (v : BitVec 64) : (s.setReg b r v).engines = s.engines := rfl
@[simp] theorem setReg_keystones (s : State) (b : Nat) (r : Reg) (v : BitVec 64) : (s.setReg b r v).keystones = s.keystones := rfl
@[simp] theorem setReg_runs (s : State) (b : Nat) (r : Reg) (v : BitVec 64) : (s.setReg b r v).runs = s.runs := rfl
@[simp] theorem setReg_ctxs (s : State) (b : Nat) (r : Reg) (v : BitVec 64) : (s.setReg b r v).ctxs = s.ctxs := rfl
@[simp] theorem setReg_programs (s : State) (b : Nat) (r : Reg) (v : BitVec 64) : (s.setReg b r v).programs = s.programs := rfl
@[simp] theorem setReg_nextUid (s : State) (b : Nat) (r : Reg) (v : BitVec 64) : (s.setReg b r v).nextUid = s.nextUid := rfl
@[simp] theorem setReg_plumb (s : State) (b : Nat) (r : Reg) (v : BitVec 64) : (s.setReg b r v).plumb = s.plumb := rfl
@[simp] theorem setReg_rings (s : State) (b : Nat) (r : Reg) (v : BitVec 64) : (s.setReg b r v).rings = s.rings := rfl
@[simp] theorem setReg_capture (s : State) (b : Nat) (r : Reg) (v : BitVec 64) : (s.setReg b r v).capture = s.capture := rfl
@[simp] theorem setReg_counters (s : State) (b : Nat) (r : Reg) (v : BitVec 64) : (s.setReg b r v).counters = s.counters := rfl
@[simp] theorem setReg_reds (s : State) (b : Nat) (r : Reg) (v : BitVec 64) : (s.setReg b r v).reds = s.reds := rfl
@[simp] theorem setReg_receipts (s : State) (b : Nat) (r : Reg) (v : BitVec 64) : (s.setReg b r v).receipts = s.receipts := rfl
@[simp] theorem setReg_rcptSel (s : State) (b : Nat) (r : Reg) (v : BitVec 64) : (s.setReg b r v).rcptSel = s.rcptSel := rfl
@[simp] theorem setReg_trailSeq (s : State) (b : Nat) (r : Reg) (v : BitVec 64) : (s.setReg b r v).trailSeq = s.trailSeq := rfl
@[simp] theorem setReg_sends (s : State) (b : Nat) (r : Reg) (v : BitVec 64) : (s.setReg b r v).sends = s.sends := rfl
@[simp] theorem setReg_shards (s : State) (b : Nat) (r : Reg) (v : BitVec 64) : (s.setReg b r v).shards = s.shards := rfl
@[simp] theorem setReg_readers (s : State) (b : Nat) (r : Reg) (v : BitVec 64) : (s.setReg b r v).readers = s.readers := rfl
@[simp] theorem setReg_waits (s : State) (b : Nat) (r : Reg) (v : BitVec 64) : (s.setReg b r v).waits = s.waits := rfl
@[simp] theorem setReg_leased (s : State) (b : Nat) (r : Reg) (v : BitVec 64) : (s.setReg b r v).leased = s.leased := rfl
@[simp] theorem setReg_llms (s : State) (b : Nat) (r : Reg) (v : BitVec 64) : (s.setReg b r v).llms = s.llms := rfl
@[simp] theorem setReg_tokens (s : State) (b : Nat) (r : Reg) (v : BitVec 64) : (s.setReg b r v).tokens = s.tokens := rfl
@[simp] theorem setReg_queueAcc (s : State) (b : Nat) (r : Reg) (v : BitVec 64) : (s.setReg b r v).queueAcc = s.queueAcc := rfl
@[simp] theorem setReg_rowHits (s : State) (b : Nat) (r : Reg) (v : BitVec 64) : (s.setReg b r v).rowHits = s.rowHits := rfl
@[simp] theorem setReg_corrAt (s : State) (b : Nat) (r : Reg) (v : BitVec 64) : (s.setReg b r v).corrAt = s.corrAt := rfl
@[simp] theorem setReg_ports (s : State) (b : Nat) (r : Reg) (v : BitVec 64) : (s.setReg b r v).ports = s.ports := rfl
@[simp] theorem setReg_flows (s : State) (b : Nat) (r : Reg) (v : BitVec 64) : (s.setReg b r v).flows = s.flows := rfl
@[simp] theorem setReg_d2dLost (s : State) (b : Nat) (r : Reg) (v : BitVec 64) : (s.setReg b r v).d2dLost = s.d2dLost := rfl
@[simp] theorem setReg_routeWait (s : State) (b : Nat) (r : Reg) (v : BitVec 64) : (s.setReg b r v).routeWait = s.routeWait := rfl
@[simp] theorem setReg_sentOut (s : State) (b : Nat) (r : Reg) (v : BitVec 64) : (s.setReg b r v).sentOut = s.sentOut := rfl
@[simp] theorem setReg_remotes (s : State) (b : Nat) (r : Reg) (v : BitVec 64) : (s.setReg b r v).remotes = s.remotes := rfl
@[simp] theorem setReg_nextTag (s : State) (b : Nat) (r : Reg) (v : BitVec 64) : (s.setReg b r v).nextTag = s.nextTag := rfl
@[simp] theorem setReg_vectors (s : State) (b : Nat) (r : Reg) (v : BitVec 64) : (s.setReg b r v).vectors = s.vectors := rfl
@[simp] theorem setReg_hostData (s : State) (b : Nat) (r : Reg) (v : BitVec 64) : (s.setReg b r v).hostData = s.hostData := rfl
@[simp] theorem setReg_readData (s : State) (b : Nat) (r : Reg) (v : BitVec 64) : (s.setReg b r v).readData = s.readData := rfl
@[simp] theorem setReg_doeReply (s : State) (b : Nat) (r : Reg) (v : BitVec 64) : (s.setReg b r v).doeReply = s.doeReply := rfl
@[simp] theorem setReg_mgmt (s : State) (b : Nat) (r : Reg) (v : BitVec 64) : (s.setReg b r v).mgmt = s.mgmt := rfl
@[simp] theorem setReg_ibi (s : State) (b : Nat) (r : Reg) (v : BitVec 64) : (s.setReg b r v).ibi = s.ibi := rfl
@[simp] theorem setReg_faults (s : State) (b : Nat) (r : Reg) (v : BitVec 64) : (s.setReg b r v).faults = s.faults := rfl
@[simp] theorem setReg_i3cAddr (s : State) (b : Nat) (r : Reg) (v : BitVec 64) : (s.setReg b r v).i3cAddr = s.i3cAddr := rfl
@[simp] theorem setReg_telem (s : State) (b : Nat) (r : Reg) (v : BitVec 64) : (s.setReg b r v).telem = s.telem := rfl
@[simp] theorem setReg_scan (s : State) (b : Nat) (r : Reg) (v : BitVec 64) : (s.setReg b r v).scan = s.scan := rfl
@[simp] theorem setReg_scanPart (s : State) (b : Nat) (r : Reg) (v : BitVec 64) : (s.setReg b r v).scanPart = s.scanPart := rfl
@[simp] theorem setReg_msix (s : State) (b : Nat) (r : Reg) (v : BitVec 64) : (s.setReg b r v).msix = s.msix := rfl
@[simp] theorem setReg_fuses (s : State) (b : Nat) (r : Reg) (v : BitVec 64) : (s.setReg b r v).fuses = s.fuses := rfl
@[simp] theorem setReg_sec (s : State) (b : Nat) (r : Reg) (v : BitVec 64) : (s.setReg b r v).sec = s.sec := rfl
@[simp] theorem setReg_power (s : State) (b : Nat) (r : Reg) (v : BitVec 64) : (s.setReg b r v).power = s.power := rfl
@[simp] theorem setReg_streams (s : State) (b : Nat) (r : Reg) (v : BitVec 64) : (s.setReg b r v).streams = s.streams := rfl
@[simp] theorem setReg_medBusy (s : State) (b : Nat) (r : Reg) (v : BitVec 64) : (s.setReg b r v).medBusy = s.medBusy := rfl
@[simp] theorem setReg_mirror (s : State) (b : Nat) (r : Reg) (v : BitVec 64) : (s.setReg b r v).mirror = s.mirror := rfl
@[simp] theorem setReg_claims (s : State) (b : Nat) (r : Reg) (v : BitVec 64) : (s.setReg b r v).claims = s.claims := rfl
@[simp] theorem setReg_held (s : State) (b : Nat) (r : Reg) (v : BitVec 64) : (s.setReg b r v).held = s.held := rfl
@[simp] theorem setReg_fresh (s : State) (b : Nat) (r : Reg) (v : BitVec 64) : (s.setReg b r v).fresh = s.fresh := rfl
@[simp] theorem setReg_pending (s : State) (b : Nat) (r : Reg) (v : BitVec 64) : (s.setReg b r v).pending = s.pending := rfl

/-! ## stage -/

@[simp] theorem stage_regs (s : State) (b : Nat) (g : Group) : (s.stage b g).regs = s.regs := rfl
@[simp] theorem stage_live (s : State) (b : Nat) (g : Group) : (s.stage b g).live = s.live := rfl
@[simp] theorem stage_mem (s : State) (b : Nat) (g : Group) : (s.stage b g).mem = s.mem := rfl
@[simp] theorem stage_poison (s : State) (b : Nat) (g : Group) : (s.stage b g).poison = s.poison := rfl
@[simp] theorem stage_memTags (s : State) (b : Nat) (g : Group) : (s.stage b g).memTags = s.memTags := rfl
@[simp] theorem stage_indet (s : State) (b : Nat) (g : Group) : (s.stage b g).indet = s.indet := rfl
@[simp] theorem stage_zeroClear (s : State) (b : Nat) (g : Group) : (s.stage b g).zeroClear = s.zeroClear := rfl
@[simp] theorem stage_farGiB (s : State) (b : Nat) (g : Group) : (s.stage b g).farGiB = s.farGiB := rfl
@[simp] theorem stage_farChans (s : State) (b : Nat) (g : Group) : (s.stage b g).farChans = s.farChans := rfl
@[simp] theorem stage_cxlGiB (s : State) (b : Nat) (g : Group) : (s.stage b g).cxlGiB = s.cxlGiB := rfl
@[simp] theorem stage_scratch (s : State) (b : Nat) (g : Group) : (s.stage b g).scratch = s.scratch := rfl
@[simp] theorem stage_scratchG (s : State) (b : Nat) (g : Group) : (s.stage b g).scratchG = s.scratchG := rfl
@[simp] theorem stage_engines (s : State) (b : Nat) (g : Group) : (s.stage b g).engines = s.engines := rfl
@[simp] theorem stage_keystones (s : State) (b : Nat) (g : Group) : (s.stage b g).keystones = s.keystones := rfl
@[simp] theorem stage_runs (s : State) (b : Nat) (g : Group) : (s.stage b g).runs = s.runs := rfl
@[simp] theorem stage_ctxs (s : State) (b : Nat) (g : Group) : (s.stage b g).ctxs = s.ctxs := rfl
@[simp] theorem stage_programs (s : State) (b : Nat) (g : Group) : (s.stage b g).programs = s.programs := rfl
@[simp] theorem stage_nextUid (s : State) (b : Nat) (g : Group) : (s.stage b g).nextUid = s.nextUid := rfl
@[simp] theorem stage_plumb (s : State) (b : Nat) (g : Group) : (s.stage b g).plumb = s.plumb := rfl
@[simp] theorem stage_rings (s : State) (b : Nat) (g : Group) : (s.stage b g).rings = s.rings := rfl
@[simp] theorem stage_capture (s : State) (b : Nat) (g : Group) : (s.stage b g).capture = s.capture := rfl
@[simp] theorem stage_counters (s : State) (b : Nat) (g : Group) : (s.stage b g).counters = s.counters := rfl
@[simp] theorem stage_reds (s : State) (b : Nat) (g : Group) : (s.stage b g).reds = s.reds := rfl
@[simp] theorem stage_receipts (s : State) (b : Nat) (g : Group) : (s.stage b g).receipts = s.receipts := rfl
@[simp] theorem stage_rcptSel (s : State) (b : Nat) (g : Group) : (s.stage b g).rcptSel = s.rcptSel := rfl
@[simp] theorem stage_trailSeq (s : State) (b : Nat) (g : Group) : (s.stage b g).trailSeq = s.trailSeq := rfl
@[simp] theorem stage_sends (s : State) (b : Nat) (g : Group) : (s.stage b g).sends = s.sends := rfl
@[simp] theorem stage_shards (s : State) (b : Nat) (g : Group) : (s.stage b g).shards = s.shards := rfl
@[simp] theorem stage_readers (s : State) (b : Nat) (g : Group) : (s.stage b g).readers = s.readers := rfl
@[simp] theorem stage_waits (s : State) (b : Nat) (g : Group) : (s.stage b g).waits = s.waits := rfl
@[simp] theorem stage_leased (s : State) (b : Nat) (g : Group) : (s.stage b g).leased = s.leased := rfl
@[simp] theorem stage_llms (s : State) (b : Nat) (g : Group) : (s.stage b g).llms = s.llms := rfl
@[simp] theorem stage_tokens (s : State) (b : Nat) (g : Group) : (s.stage b g).tokens = s.tokens := rfl
@[simp] theorem stage_queueAcc (s : State) (b : Nat) (g : Group) : (s.stage b g).queueAcc = s.queueAcc := rfl
@[simp] theorem stage_rowHits (s : State) (b : Nat) (g : Group) : (s.stage b g).rowHits = s.rowHits := rfl
@[simp] theorem stage_corrAt (s : State) (b : Nat) (g : Group) : (s.stage b g).corrAt = s.corrAt := rfl
@[simp] theorem stage_ports (s : State) (b : Nat) (g : Group) : (s.stage b g).ports = s.ports := rfl
@[simp] theorem stage_flows (s : State) (b : Nat) (g : Group) : (s.stage b g).flows = s.flows := rfl
@[simp] theorem stage_d2dLost (s : State) (b : Nat) (g : Group) : (s.stage b g).d2dLost = s.d2dLost := rfl
@[simp] theorem stage_routeWait (s : State) (b : Nat) (g : Group) : (s.stage b g).routeWait = s.routeWait := rfl
@[simp] theorem stage_sentOut (s : State) (b : Nat) (g : Group) : (s.stage b g).sentOut = s.sentOut := rfl
@[simp] theorem stage_remotes (s : State) (b : Nat) (g : Group) : (s.stage b g).remotes = s.remotes := rfl
@[simp] theorem stage_nextTag (s : State) (b : Nat) (g : Group) : (s.stage b g).nextTag = s.nextTag := rfl
@[simp] theorem stage_vectors (s : State) (b : Nat) (g : Group) : (s.stage b g).vectors = s.vectors := rfl
@[simp] theorem stage_hostData (s : State) (b : Nat) (g : Group) : (s.stage b g).hostData = s.hostData := rfl
@[simp] theorem stage_readData (s : State) (b : Nat) (g : Group) : (s.stage b g).readData = s.readData := rfl
@[simp] theorem stage_doeReply (s : State) (b : Nat) (g : Group) : (s.stage b g).doeReply = s.doeReply := rfl
@[simp] theorem stage_mgmt (s : State) (b : Nat) (g : Group) : (s.stage b g).mgmt = s.mgmt := rfl
@[simp] theorem stage_ibi (s : State) (b : Nat) (g : Group) : (s.stage b g).ibi = s.ibi := rfl
@[simp] theorem stage_faults (s : State) (b : Nat) (g : Group) : (s.stage b g).faults = s.faults := rfl
@[simp] theorem stage_i3cAddr (s : State) (b : Nat) (g : Group) : (s.stage b g).i3cAddr = s.i3cAddr := rfl
@[simp] theorem stage_telem (s : State) (b : Nat) (g : Group) : (s.stage b g).telem = s.telem := rfl
@[simp] theorem stage_scan (s : State) (b : Nat) (g : Group) : (s.stage b g).scan = s.scan := rfl
@[simp] theorem stage_scanPart (s : State) (b : Nat) (g : Group) : (s.stage b g).scanPart = s.scanPart := rfl
@[simp] theorem stage_msix (s : State) (b : Nat) (g : Group) : (s.stage b g).msix = s.msix := rfl
@[simp] theorem stage_fuses (s : State) (b : Nat) (g : Group) : (s.stage b g).fuses = s.fuses := rfl
@[simp] theorem stage_sec (s : State) (b : Nat) (g : Group) : (s.stage b g).sec = s.sec := rfl
@[simp] theorem stage_power (s : State) (b : Nat) (g : Group) : (s.stage b g).power = s.power := rfl
@[simp] theorem stage_streams (s : State) (b : Nat) (g : Group) : (s.stage b g).streams = s.streams := rfl
@[simp] theorem stage_medBusy (s : State) (b : Nat) (g : Group) : (s.stage b g).medBusy = s.medBusy := rfl
@[simp] theorem stage_mirror (s : State) (b : Nat) (g : Group) : (s.stage b g).mirror = s.mirror := rfl
@[simp] theorem stage_claims (s : State) (b : Nat) (g : Group) : (s.stage b g).claims = s.claims := rfl
@[simp] theorem stage_held (s : State) (b : Nat) (g : Group) : (s.stage b g).held = s.held := rfl
@[simp] theorem stage_fresh (s : State) (b : Nat) (g : Group) : (s.stage b g).fresh = s.fresh := rfl
@[simp] theorem stage_pending (s : State) (b : Nat) (g : Group) : (s.stage b g).pending = s.pending := rfl

/-! ## force -/

@[simp] theorem force_regs (s : State) (b : Nat) (g : Group) : (s.force b g).regs = s.regs := rfl
@[simp] theorem force_mem (s : State) (b : Nat) (g : Group) : (s.force b g).mem = s.mem := rfl
@[simp] theorem force_poison (s : State) (b : Nat) (g : Group) : (s.force b g).poison = s.poison := rfl
@[simp] theorem force_memTags (s : State) (b : Nat) (g : Group) : (s.force b g).memTags = s.memTags := rfl
@[simp] theorem force_indet (s : State) (b : Nat) (g : Group) : (s.force b g).indet = s.indet := rfl
@[simp] theorem force_zeroClear (s : State) (b : Nat) (g : Group) : (s.force b g).zeroClear = s.zeroClear := rfl
@[simp] theorem force_farGiB (s : State) (b : Nat) (g : Group) : (s.force b g).farGiB = s.farGiB := rfl
@[simp] theorem force_farChans (s : State) (b : Nat) (g : Group) : (s.force b g).farChans = s.farChans := rfl
@[simp] theorem force_cxlGiB (s : State) (b : Nat) (g : Group) : (s.force b g).cxlGiB = s.cxlGiB := rfl
@[simp] theorem force_scratch (s : State) (b : Nat) (g : Group) : (s.force b g).scratch = s.scratch := rfl
@[simp] theorem force_scratchG (s : State) (b : Nat) (g : Group) : (s.force b g).scratchG = s.scratchG := rfl
@[simp] theorem force_engines (s : State) (b : Nat) (g : Group) : (s.force b g).engines = s.engines := rfl
@[simp] theorem force_keystones (s : State) (b : Nat) (g : Group) : (s.force b g).keystones = s.keystones := rfl
@[simp] theorem force_runs (s : State) (b : Nat) (g : Group) : (s.force b g).runs = s.runs := rfl
@[simp] theorem force_ctxs (s : State) (b : Nat) (g : Group) : (s.force b g).ctxs = s.ctxs := rfl
@[simp] theorem force_programs (s : State) (b : Nat) (g : Group) : (s.force b g).programs = s.programs := rfl
@[simp] theorem force_nextUid (s : State) (b : Nat) (g : Group) : (s.force b g).nextUid = s.nextUid := rfl
@[simp] theorem force_plumb (s : State) (b : Nat) (g : Group) : (s.force b g).plumb = s.plumb := rfl
@[simp] theorem force_rings (s : State) (b : Nat) (g : Group) : (s.force b g).rings = s.rings := rfl
@[simp] theorem force_capture (s : State) (b : Nat) (g : Group) : (s.force b g).capture = s.capture := rfl
@[simp] theorem force_counters (s : State) (b : Nat) (g : Group) : (s.force b g).counters = s.counters := rfl
@[simp] theorem force_reds (s : State) (b : Nat) (g : Group) : (s.force b g).reds = s.reds := rfl
@[simp] theorem force_receipts (s : State) (b : Nat) (g : Group) : (s.force b g).receipts = s.receipts := rfl
@[simp] theorem force_rcptSel (s : State) (b : Nat) (g : Group) : (s.force b g).rcptSel = s.rcptSel := rfl
@[simp] theorem force_trailSeq (s : State) (b : Nat) (g : Group) : (s.force b g).trailSeq = s.trailSeq := rfl
@[simp] theorem force_sends (s : State) (b : Nat) (g : Group) : (s.force b g).sends = s.sends := rfl
@[simp] theorem force_shards (s : State) (b : Nat) (g : Group) : (s.force b g).shards = s.shards := rfl
@[simp] theorem force_readers (s : State) (b : Nat) (g : Group) : (s.force b g).readers = s.readers := rfl
@[simp] theorem force_waits (s : State) (b : Nat) (g : Group) : (s.force b g).waits = s.waits := rfl
@[simp] theorem force_leased (s : State) (b : Nat) (g : Group) : (s.force b g).leased = s.leased := rfl
@[simp] theorem force_llms (s : State) (b : Nat) (g : Group) : (s.force b g).llms = s.llms := rfl
@[simp] theorem force_tokens (s : State) (b : Nat) (g : Group) : (s.force b g).tokens = s.tokens := rfl
@[simp] theorem force_queueAcc (s : State) (b : Nat) (g : Group) : (s.force b g).queueAcc = s.queueAcc := rfl
@[simp] theorem force_rowHits (s : State) (b : Nat) (g : Group) : (s.force b g).rowHits = s.rowHits := rfl
@[simp] theorem force_corrAt (s : State) (b : Nat) (g : Group) : (s.force b g).corrAt = s.corrAt := rfl
@[simp] theorem force_ports (s : State) (b : Nat) (g : Group) : (s.force b g).ports = s.ports := rfl
@[simp] theorem force_flows (s : State) (b : Nat) (g : Group) : (s.force b g).flows = s.flows := rfl
@[simp] theorem force_d2dLost (s : State) (b : Nat) (g : Group) : (s.force b g).d2dLost = s.d2dLost := rfl
@[simp] theorem force_routeWait (s : State) (b : Nat) (g : Group) : (s.force b g).routeWait = s.routeWait := rfl
@[simp] theorem force_sentOut (s : State) (b : Nat) (g : Group) : (s.force b g).sentOut = s.sentOut := rfl
@[simp] theorem force_remotes (s : State) (b : Nat) (g : Group) : (s.force b g).remotes = s.remotes := rfl
@[simp] theorem force_nextTag (s : State) (b : Nat) (g : Group) : (s.force b g).nextTag = s.nextTag := rfl
@[simp] theorem force_vectors (s : State) (b : Nat) (g : Group) : (s.force b g).vectors = s.vectors := rfl
@[simp] theorem force_hostData (s : State) (b : Nat) (g : Group) : (s.force b g).hostData = s.hostData := rfl
@[simp] theorem force_readData (s : State) (b : Nat) (g : Group) : (s.force b g).readData = s.readData := rfl
@[simp] theorem force_doeReply (s : State) (b : Nat) (g : Group) : (s.force b g).doeReply = s.doeReply := rfl
@[simp] theorem force_mgmt (s : State) (b : Nat) (g : Group) : (s.force b g).mgmt = s.mgmt := rfl
@[simp] theorem force_ibi (s : State) (b : Nat) (g : Group) : (s.force b g).ibi = s.ibi := rfl
@[simp] theorem force_faults (s : State) (b : Nat) (g : Group) : (s.force b g).faults = s.faults := rfl
@[simp] theorem force_i3cAddr (s : State) (b : Nat) (g : Group) : (s.force b g).i3cAddr = s.i3cAddr := rfl
@[simp] theorem force_telem (s : State) (b : Nat) (g : Group) : (s.force b g).telem = s.telem := rfl
@[simp] theorem force_scan (s : State) (b : Nat) (g : Group) : (s.force b g).scan = s.scan := rfl
@[simp] theorem force_scanPart (s : State) (b : Nat) (g : Group) : (s.force b g).scanPart = s.scanPart := rfl
@[simp] theorem force_msix (s : State) (b : Nat) (g : Group) : (s.force b g).msix = s.msix := rfl
@[simp] theorem force_fuses (s : State) (b : Nat) (g : Group) : (s.force b g).fuses = s.fuses := rfl
@[simp] theorem force_sec (s : State) (b : Nat) (g : Group) : (s.force b g).sec = s.sec := rfl
@[simp] theorem force_power (s : State) (b : Nat) (g : Group) : (s.force b g).power = s.power := rfl
@[simp] theorem force_streams (s : State) (b : Nat) (g : Group) : (s.force b g).streams = s.streams := rfl
@[simp] theorem force_medBusy (s : State) (b : Nat) (g : Group) : (s.force b g).medBusy = s.medBusy := rfl
@[simp] theorem force_mirror (s : State) (b : Nat) (g : Group) : (s.force b g).mirror = s.mirror := rfl
@[simp] theorem force_claims (s : State) (b : Nat) (g : Group) : (s.force b g).claims = s.claims := rfl
@[simp] theorem force_held (s : State) (b : Nat) (g : Group) : (s.force b g).held = s.held := rfl
@[simp] theorem force_fresh (s : State) (b : Nat) (g : Group) : (s.force b g).fresh = s.fresh := rfl
@[simp] theorem force_pending (s : State) (b : Nat) (g : Group) : (s.force b g).pending = s.pending := rfl

/-! ## vector -/

@[simp] theorem vector_regs (s : State) (v : Nat) : (s.vector v).regs = s.regs := rfl
@[simp] theorem vector_pend (s : State) (v : Nat) : (s.vector v).pend = s.pend := rfl
@[simp] theorem vector_live (s : State) (v : Nat) : (s.vector v).live = s.live := rfl
@[simp] theorem vector_mem (s : State) (v : Nat) : (s.vector v).mem = s.mem := rfl
@[simp] theorem vector_poison (s : State) (v : Nat) : (s.vector v).poison = s.poison := rfl
@[simp] theorem vector_memTags (s : State) (v : Nat) : (s.vector v).memTags = s.memTags := rfl
@[simp] theorem vector_indet (s : State) (v : Nat) : (s.vector v).indet = s.indet := rfl
@[simp] theorem vector_zeroClear (s : State) (v : Nat) : (s.vector v).zeroClear = s.zeroClear := rfl
@[simp] theorem vector_farGiB (s : State) (v : Nat) : (s.vector v).farGiB = s.farGiB := rfl
@[simp] theorem vector_farChans (s : State) (v : Nat) : (s.vector v).farChans = s.farChans := rfl
@[simp] theorem vector_cxlGiB (s : State) (v : Nat) : (s.vector v).cxlGiB = s.cxlGiB := rfl
@[simp] theorem vector_scratch (s : State) (v : Nat) : (s.vector v).scratch = s.scratch := rfl
@[simp] theorem vector_scratchG (s : State) (v : Nat) : (s.vector v).scratchG = s.scratchG := rfl
@[simp] theorem vector_engines (s : State) (v : Nat) : (s.vector v).engines = s.engines := rfl
@[simp] theorem vector_keystones (s : State) (v : Nat) : (s.vector v).keystones = s.keystones := rfl
@[simp] theorem vector_runs (s : State) (v : Nat) : (s.vector v).runs = s.runs := rfl
@[simp] theorem vector_ctxs (s : State) (v : Nat) : (s.vector v).ctxs = s.ctxs := rfl
@[simp] theorem vector_programs (s : State) (v : Nat) : (s.vector v).programs = s.programs := rfl
@[simp] theorem vector_nextUid (s : State) (v : Nat) : (s.vector v).nextUid = s.nextUid := rfl
@[simp] theorem vector_plumb (s : State) (v : Nat) : (s.vector v).plumb = s.plumb := rfl
@[simp] theorem vector_rings (s : State) (v : Nat) : (s.vector v).rings = s.rings := rfl
@[simp] theorem vector_capture (s : State) (v : Nat) : (s.vector v).capture = s.capture := rfl
@[simp] theorem vector_counters (s : State) (v : Nat) : (s.vector v).counters = s.counters := rfl
@[simp] theorem vector_reds (s : State) (v : Nat) : (s.vector v).reds = s.reds := rfl
@[simp] theorem vector_receipts (s : State) (v : Nat) : (s.vector v).receipts = s.receipts := rfl
@[simp] theorem vector_rcptSel (s : State) (v : Nat) : (s.vector v).rcptSel = s.rcptSel := rfl
@[simp] theorem vector_trailSeq (s : State) (v : Nat) : (s.vector v).trailSeq = s.trailSeq := rfl
@[simp] theorem vector_sends (s : State) (v : Nat) : (s.vector v).sends = s.sends := rfl
@[simp] theorem vector_shards (s : State) (v : Nat) : (s.vector v).shards = s.shards := rfl
@[simp] theorem vector_readers (s : State) (v : Nat) : (s.vector v).readers = s.readers := rfl
@[simp] theorem vector_waits (s : State) (v : Nat) : (s.vector v).waits = s.waits := rfl
@[simp] theorem vector_leased (s : State) (v : Nat) : (s.vector v).leased = s.leased := rfl
@[simp] theorem vector_llms (s : State) (v : Nat) : (s.vector v).llms = s.llms := rfl
@[simp] theorem vector_tokens (s : State) (v : Nat) : (s.vector v).tokens = s.tokens := rfl
@[simp] theorem vector_queueAcc (s : State) (v : Nat) : (s.vector v).queueAcc = s.queueAcc := rfl
@[simp] theorem vector_rowHits (s : State) (v : Nat) : (s.vector v).rowHits = s.rowHits := rfl
@[simp] theorem vector_corrAt (s : State) (v : Nat) : (s.vector v).corrAt = s.corrAt := rfl
@[simp] theorem vector_ports (s : State) (v : Nat) : (s.vector v).ports = s.ports := rfl
@[simp] theorem vector_flows (s : State) (v : Nat) : (s.vector v).flows = s.flows := rfl
@[simp] theorem vector_d2dLost (s : State) (v : Nat) : (s.vector v).d2dLost = s.d2dLost := rfl
@[simp] theorem vector_routeWait (s : State) (v : Nat) : (s.vector v).routeWait = s.routeWait := rfl
@[simp] theorem vector_sentOut (s : State) (v : Nat) : (s.vector v).sentOut = s.sentOut := rfl
@[simp] theorem vector_remotes (s : State) (v : Nat) : (s.vector v).remotes = s.remotes := rfl
@[simp] theorem vector_nextTag (s : State) (v : Nat) : (s.vector v).nextTag = s.nextTag := rfl
@[simp] theorem vector_hostData (s : State) (v : Nat) : (s.vector v).hostData = s.hostData := rfl
@[simp] theorem vector_readData (s : State) (v : Nat) : (s.vector v).readData = s.readData := rfl
@[simp] theorem vector_doeReply (s : State) (v : Nat) : (s.vector v).doeReply = s.doeReply := rfl
@[simp] theorem vector_mgmt (s : State) (v : Nat) : (s.vector v).mgmt = s.mgmt := rfl
@[simp] theorem vector_ibi (s : State) (v : Nat) : (s.vector v).ibi = s.ibi := rfl
@[simp] theorem vector_faults (s : State) (v : Nat) : (s.vector v).faults = s.faults := rfl
@[simp] theorem vector_i3cAddr (s : State) (v : Nat) : (s.vector v).i3cAddr = s.i3cAddr := rfl
@[simp] theorem vector_telem (s : State) (v : Nat) : (s.vector v).telem = s.telem := rfl
@[simp] theorem vector_scan (s : State) (v : Nat) : (s.vector v).scan = s.scan := rfl
@[simp] theorem vector_scanPart (s : State) (v : Nat) : (s.vector v).scanPart = s.scanPart := rfl
@[simp] theorem vector_msix (s : State) (v : Nat) : (s.vector v).msix = s.msix := rfl
@[simp] theorem vector_fuses (s : State) (v : Nat) : (s.vector v).fuses = s.fuses := rfl
@[simp] theorem vector_sec (s : State) (v : Nat) : (s.vector v).sec = s.sec := rfl
@[simp] theorem vector_power (s : State) (v : Nat) : (s.vector v).power = s.power := rfl
@[simp] theorem vector_streams (s : State) (v : Nat) : (s.vector v).streams = s.streams := rfl
@[simp] theorem vector_medBusy (s : State) (v : Nat) : (s.vector v).medBusy = s.medBusy := rfl
@[simp] theorem vector_mirror (s : State) (v : Nat) : (s.vector v).mirror = s.mirror := rfl
@[simp] theorem vector_claims (s : State) (v : Nat) : (s.vector v).claims = s.claims := rfl
@[simp] theorem vector_held (s : State) (v : Nat) : (s.vector v).held = s.held := rfl
@[simp] theorem vector_fresh (s : State) (v : Nat) : (s.vector v).fresh = s.fresh := rfl
@[simp] theorem vector_pending (s : State) (v : Nat) : (s.vector v).pending = s.pending := rfl

/-! ## setPort -/

@[simp] theorem setPort_regs (s : State) (n : Nat) (f : Port → Port) : (s.setPort n f).regs = s.regs := rfl
@[simp] theorem setPort_pend (s : State) (n : Nat) (f : Port → Port) : (s.setPort n f).pend = s.pend := rfl
@[simp] theorem setPort_live (s : State) (n : Nat) (f : Port → Port) : (s.setPort n f).live = s.live := rfl
@[simp] theorem setPort_mem (s : State) (n : Nat) (f : Port → Port) : (s.setPort n f).mem = s.mem := rfl
@[simp] theorem setPort_poison (s : State) (n : Nat) (f : Port → Port) : (s.setPort n f).poison = s.poison := rfl
@[simp] theorem setPort_memTags (s : State) (n : Nat) (f : Port → Port) : (s.setPort n f).memTags = s.memTags := rfl
@[simp] theorem setPort_indet (s : State) (n : Nat) (f : Port → Port) : (s.setPort n f).indet = s.indet := rfl
@[simp] theorem setPort_zeroClear (s : State) (n : Nat) (f : Port → Port) : (s.setPort n f).zeroClear = s.zeroClear := rfl
@[simp] theorem setPort_farGiB (s : State) (n : Nat) (f : Port → Port) : (s.setPort n f).farGiB = s.farGiB := rfl
@[simp] theorem setPort_farChans (s : State) (n : Nat) (f : Port → Port) : (s.setPort n f).farChans = s.farChans := rfl
@[simp] theorem setPort_cxlGiB (s : State) (n : Nat) (f : Port → Port) : (s.setPort n f).cxlGiB = s.cxlGiB := rfl
@[simp] theorem setPort_scratch (s : State) (n : Nat) (f : Port → Port) : (s.setPort n f).scratch = s.scratch := rfl
@[simp] theorem setPort_scratchG (s : State) (n : Nat) (f : Port → Port) : (s.setPort n f).scratchG = s.scratchG := rfl
@[simp] theorem setPort_engines (s : State) (n : Nat) (f : Port → Port) : (s.setPort n f).engines = s.engines := rfl
@[simp] theorem setPort_keystones (s : State) (n : Nat) (f : Port → Port) : (s.setPort n f).keystones = s.keystones := rfl
@[simp] theorem setPort_runs (s : State) (n : Nat) (f : Port → Port) : (s.setPort n f).runs = s.runs := rfl
@[simp] theorem setPort_ctxs (s : State) (n : Nat) (f : Port → Port) : (s.setPort n f).ctxs = s.ctxs := rfl
@[simp] theorem setPort_programs (s : State) (n : Nat) (f : Port → Port) : (s.setPort n f).programs = s.programs := rfl
@[simp] theorem setPort_nextUid (s : State) (n : Nat) (f : Port → Port) : (s.setPort n f).nextUid = s.nextUid := rfl
@[simp] theorem setPort_plumb (s : State) (n : Nat) (f : Port → Port) : (s.setPort n f).plumb = s.plumb := rfl
@[simp] theorem setPort_rings (s : State) (n : Nat) (f : Port → Port) : (s.setPort n f).rings = s.rings := rfl
@[simp] theorem setPort_capture (s : State) (n : Nat) (f : Port → Port) : (s.setPort n f).capture = s.capture := rfl
@[simp] theorem setPort_counters (s : State) (n : Nat) (f : Port → Port) : (s.setPort n f).counters = s.counters := rfl
@[simp] theorem setPort_reds (s : State) (n : Nat) (f : Port → Port) : (s.setPort n f).reds = s.reds := rfl
@[simp] theorem setPort_receipts (s : State) (n : Nat) (f : Port → Port) : (s.setPort n f).receipts = s.receipts := rfl
@[simp] theorem setPort_rcptSel (s : State) (n : Nat) (f : Port → Port) : (s.setPort n f).rcptSel = s.rcptSel := rfl
@[simp] theorem setPort_trailSeq (s : State) (n : Nat) (f : Port → Port) : (s.setPort n f).trailSeq = s.trailSeq := rfl
@[simp] theorem setPort_sends (s : State) (n : Nat) (f : Port → Port) : (s.setPort n f).sends = s.sends := rfl
@[simp] theorem setPort_shards (s : State) (n : Nat) (f : Port → Port) : (s.setPort n f).shards = s.shards := rfl
@[simp] theorem setPort_readers (s : State) (n : Nat) (f : Port → Port) : (s.setPort n f).readers = s.readers := rfl
@[simp] theorem setPort_waits (s : State) (n : Nat) (f : Port → Port) : (s.setPort n f).waits = s.waits := rfl
@[simp] theorem setPort_leased (s : State) (n : Nat) (f : Port → Port) : (s.setPort n f).leased = s.leased := rfl
@[simp] theorem setPort_llms (s : State) (n : Nat) (f : Port → Port) : (s.setPort n f).llms = s.llms := rfl
@[simp] theorem setPort_tokens (s : State) (n : Nat) (f : Port → Port) : (s.setPort n f).tokens = s.tokens := rfl
@[simp] theorem setPort_queueAcc (s : State) (n : Nat) (f : Port → Port) : (s.setPort n f).queueAcc = s.queueAcc := rfl
@[simp] theorem setPort_rowHits (s : State) (n : Nat) (f : Port → Port) : (s.setPort n f).rowHits = s.rowHits := rfl
@[simp] theorem setPort_corrAt (s : State) (n : Nat) (f : Port → Port) : (s.setPort n f).corrAt = s.corrAt := rfl
@[simp] theorem setPort_flows (s : State) (n : Nat) (f : Port → Port) : (s.setPort n f).flows = s.flows := rfl
@[simp] theorem setPort_d2dLost (s : State) (n : Nat) (f : Port → Port) : (s.setPort n f).d2dLost = s.d2dLost := rfl
@[simp] theorem setPort_routeWait (s : State) (n : Nat) (f : Port → Port) : (s.setPort n f).routeWait = s.routeWait := rfl
@[simp] theorem setPort_sentOut (s : State) (n : Nat) (f : Port → Port) : (s.setPort n f).sentOut = s.sentOut := rfl
@[simp] theorem setPort_remotes (s : State) (n : Nat) (f : Port → Port) : (s.setPort n f).remotes = s.remotes := rfl
@[simp] theorem setPort_nextTag (s : State) (n : Nat) (f : Port → Port) : (s.setPort n f).nextTag = s.nextTag := rfl
@[simp] theorem setPort_vectors (s : State) (n : Nat) (f : Port → Port) : (s.setPort n f).vectors = s.vectors := rfl
@[simp] theorem setPort_hostData (s : State) (n : Nat) (f : Port → Port) : (s.setPort n f).hostData = s.hostData := rfl
@[simp] theorem setPort_readData (s : State) (n : Nat) (f : Port → Port) : (s.setPort n f).readData = s.readData := rfl
@[simp] theorem setPort_doeReply (s : State) (n : Nat) (f : Port → Port) : (s.setPort n f).doeReply = s.doeReply := rfl
@[simp] theorem setPort_mgmt (s : State) (n : Nat) (f : Port → Port) : (s.setPort n f).mgmt = s.mgmt := rfl
@[simp] theorem setPort_ibi (s : State) (n : Nat) (f : Port → Port) : (s.setPort n f).ibi = s.ibi := rfl
@[simp] theorem setPort_faults (s : State) (n : Nat) (f : Port → Port) : (s.setPort n f).faults = s.faults := rfl
@[simp] theorem setPort_i3cAddr (s : State) (n : Nat) (f : Port → Port) : (s.setPort n f).i3cAddr = s.i3cAddr := rfl
@[simp] theorem setPort_telem (s : State) (n : Nat) (f : Port → Port) : (s.setPort n f).telem = s.telem := rfl
@[simp] theorem setPort_scan (s : State) (n : Nat) (f : Port → Port) : (s.setPort n f).scan = s.scan := rfl
@[simp] theorem setPort_scanPart (s : State) (n : Nat) (f : Port → Port) : (s.setPort n f).scanPart = s.scanPart := rfl
@[simp] theorem setPort_msix (s : State) (n : Nat) (f : Port → Port) : (s.setPort n f).msix = s.msix := rfl
@[simp] theorem setPort_fuses (s : State) (n : Nat) (f : Port → Port) : (s.setPort n f).fuses = s.fuses := rfl
@[simp] theorem setPort_sec (s : State) (n : Nat) (f : Port → Port) : (s.setPort n f).sec = s.sec := rfl
@[simp] theorem setPort_power (s : State) (n : Nat) (f : Port → Port) : (s.setPort n f).power = s.power := rfl
@[simp] theorem setPort_streams (s : State) (n : Nat) (f : Port → Port) : (s.setPort n f).streams = s.streams := rfl
@[simp] theorem setPort_medBusy (s : State) (n : Nat) (f : Port → Port) : (s.setPort n f).medBusy = s.medBusy := rfl
@[simp] theorem setPort_mirror (s : State) (n : Nat) (f : Port → Port) : (s.setPort n f).mirror = s.mirror := rfl
@[simp] theorem setPort_claims (s : State) (n : Nat) (f : Port → Port) : (s.setPort n f).claims = s.claims := rfl
@[simp] theorem setPort_held (s : State) (n : Nat) (f : Port → Port) : (s.setPort n f).held = s.held := rfl
@[simp] theorem setPort_fresh (s : State) (n : Nat) (f : Port → Port) : (s.setPort n f).fresh = s.fresh := rfl
@[simp] theorem setPort_pending (s : State) (n : Nat) (f : Port → Port) : (s.setPort n f).pending = s.pending := rfl

/-! ## setLlm -/

@[simp] theorem setLlm_regs (s : State) (h : Nat) (f : Llm → Llm) : (s.setLlm h f).regs = s.regs := rfl
@[simp] theorem setLlm_pend (s : State) (h : Nat) (f : Llm → Llm) : (s.setLlm h f).pend = s.pend := rfl
@[simp] theorem setLlm_live (s : State) (h : Nat) (f : Llm → Llm) : (s.setLlm h f).live = s.live := rfl
@[simp] theorem setLlm_mem (s : State) (h : Nat) (f : Llm → Llm) : (s.setLlm h f).mem = s.mem := rfl
@[simp] theorem setLlm_poison (s : State) (h : Nat) (f : Llm → Llm) : (s.setLlm h f).poison = s.poison := rfl
@[simp] theorem setLlm_memTags (s : State) (h : Nat) (f : Llm → Llm) : (s.setLlm h f).memTags = s.memTags := rfl
@[simp] theorem setLlm_indet (s : State) (h : Nat) (f : Llm → Llm) : (s.setLlm h f).indet = s.indet := rfl
@[simp] theorem setLlm_zeroClear (s : State) (h : Nat) (f : Llm → Llm) : (s.setLlm h f).zeroClear = s.zeroClear := rfl
@[simp] theorem setLlm_farGiB (s : State) (h : Nat) (f : Llm → Llm) : (s.setLlm h f).farGiB = s.farGiB := rfl
@[simp] theorem setLlm_farChans (s : State) (h : Nat) (f : Llm → Llm) : (s.setLlm h f).farChans = s.farChans := rfl
@[simp] theorem setLlm_cxlGiB (s : State) (h : Nat) (f : Llm → Llm) : (s.setLlm h f).cxlGiB = s.cxlGiB := rfl
@[simp] theorem setLlm_scratch (s : State) (h : Nat) (f : Llm → Llm) : (s.setLlm h f).scratch = s.scratch := rfl
@[simp] theorem setLlm_scratchG (s : State) (h : Nat) (f : Llm → Llm) : (s.setLlm h f).scratchG = s.scratchG := rfl
@[simp] theorem setLlm_engines (s : State) (h : Nat) (f : Llm → Llm) : (s.setLlm h f).engines = s.engines := rfl
@[simp] theorem setLlm_keystones (s : State) (h : Nat) (f : Llm → Llm) : (s.setLlm h f).keystones = s.keystones := rfl
@[simp] theorem setLlm_runs (s : State) (h : Nat) (f : Llm → Llm) : (s.setLlm h f).runs = s.runs := rfl
@[simp] theorem setLlm_ctxs (s : State) (h : Nat) (f : Llm → Llm) : (s.setLlm h f).ctxs = s.ctxs := rfl
@[simp] theorem setLlm_programs (s : State) (h : Nat) (f : Llm → Llm) : (s.setLlm h f).programs = s.programs := rfl
@[simp] theorem setLlm_nextUid (s : State) (h : Nat) (f : Llm → Llm) : (s.setLlm h f).nextUid = s.nextUid := rfl
@[simp] theorem setLlm_plumb (s : State) (h : Nat) (f : Llm → Llm) : (s.setLlm h f).plumb = s.plumb := rfl
@[simp] theorem setLlm_rings (s : State) (h : Nat) (f : Llm → Llm) : (s.setLlm h f).rings = s.rings := rfl
@[simp] theorem setLlm_capture (s : State) (h : Nat) (f : Llm → Llm) : (s.setLlm h f).capture = s.capture := rfl
@[simp] theorem setLlm_counters (s : State) (h : Nat) (f : Llm → Llm) : (s.setLlm h f).counters = s.counters := rfl
@[simp] theorem setLlm_reds (s : State) (h : Nat) (f : Llm → Llm) : (s.setLlm h f).reds = s.reds := rfl
@[simp] theorem setLlm_receipts (s : State) (h : Nat) (f : Llm → Llm) : (s.setLlm h f).receipts = s.receipts := rfl
@[simp] theorem setLlm_rcptSel (s : State) (h : Nat) (f : Llm → Llm) : (s.setLlm h f).rcptSel = s.rcptSel := rfl
@[simp] theorem setLlm_trailSeq (s : State) (h : Nat) (f : Llm → Llm) : (s.setLlm h f).trailSeq = s.trailSeq := rfl
@[simp] theorem setLlm_sends (s : State) (h : Nat) (f : Llm → Llm) : (s.setLlm h f).sends = s.sends := rfl
@[simp] theorem setLlm_shards (s : State) (h : Nat) (f : Llm → Llm) : (s.setLlm h f).shards = s.shards := rfl
@[simp] theorem setLlm_readers (s : State) (h : Nat) (f : Llm → Llm) : (s.setLlm h f).readers = s.readers := rfl
@[simp] theorem setLlm_waits (s : State) (h : Nat) (f : Llm → Llm) : (s.setLlm h f).waits = s.waits := rfl
@[simp] theorem setLlm_leased (s : State) (h : Nat) (f : Llm → Llm) : (s.setLlm h f).leased = s.leased := rfl
@[simp] theorem setLlm_tokens (s : State) (h : Nat) (f : Llm → Llm) : (s.setLlm h f).tokens = s.tokens := rfl
@[simp] theorem setLlm_queueAcc (s : State) (h : Nat) (f : Llm → Llm) : (s.setLlm h f).queueAcc = s.queueAcc := rfl
@[simp] theorem setLlm_rowHits (s : State) (h : Nat) (f : Llm → Llm) : (s.setLlm h f).rowHits = s.rowHits := rfl
@[simp] theorem setLlm_corrAt (s : State) (h : Nat) (f : Llm → Llm) : (s.setLlm h f).corrAt = s.corrAt := rfl
@[simp] theorem setLlm_ports (s : State) (h : Nat) (f : Llm → Llm) : (s.setLlm h f).ports = s.ports := rfl
@[simp] theorem setLlm_flows (s : State) (h : Nat) (f : Llm → Llm) : (s.setLlm h f).flows = s.flows := rfl
@[simp] theorem setLlm_d2dLost (s : State) (h : Nat) (f : Llm → Llm) : (s.setLlm h f).d2dLost = s.d2dLost := rfl
@[simp] theorem setLlm_routeWait (s : State) (h : Nat) (f : Llm → Llm) : (s.setLlm h f).routeWait = s.routeWait := rfl
@[simp] theorem setLlm_sentOut (s : State) (h : Nat) (f : Llm → Llm) : (s.setLlm h f).sentOut = s.sentOut := rfl
@[simp] theorem setLlm_remotes (s : State) (h : Nat) (f : Llm → Llm) : (s.setLlm h f).remotes = s.remotes := rfl
@[simp] theorem setLlm_nextTag (s : State) (h : Nat) (f : Llm → Llm) : (s.setLlm h f).nextTag = s.nextTag := rfl
@[simp] theorem setLlm_vectors (s : State) (h : Nat) (f : Llm → Llm) : (s.setLlm h f).vectors = s.vectors := rfl
@[simp] theorem setLlm_hostData (s : State) (h : Nat) (f : Llm → Llm) : (s.setLlm h f).hostData = s.hostData := rfl
@[simp] theorem setLlm_readData (s : State) (h : Nat) (f : Llm → Llm) : (s.setLlm h f).readData = s.readData := rfl
@[simp] theorem setLlm_doeReply (s : State) (h : Nat) (f : Llm → Llm) : (s.setLlm h f).doeReply = s.doeReply := rfl
@[simp] theorem setLlm_mgmt (s : State) (h : Nat) (f : Llm → Llm) : (s.setLlm h f).mgmt = s.mgmt := rfl
@[simp] theorem setLlm_ibi (s : State) (h : Nat) (f : Llm → Llm) : (s.setLlm h f).ibi = s.ibi := rfl
@[simp] theorem setLlm_faults (s : State) (h : Nat) (f : Llm → Llm) : (s.setLlm h f).faults = s.faults := rfl
@[simp] theorem setLlm_i3cAddr (s : State) (h : Nat) (f : Llm → Llm) : (s.setLlm h f).i3cAddr = s.i3cAddr := rfl
@[simp] theorem setLlm_telem (s : State) (h : Nat) (f : Llm → Llm) : (s.setLlm h f).telem = s.telem := rfl
@[simp] theorem setLlm_scan (s : State) (h : Nat) (f : Llm → Llm) : (s.setLlm h f).scan = s.scan := rfl
@[simp] theorem setLlm_scanPart (s : State) (h : Nat) (f : Llm → Llm) : (s.setLlm h f).scanPart = s.scanPart := rfl
@[simp] theorem setLlm_msix (s : State) (h : Nat) (f : Llm → Llm) : (s.setLlm h f).msix = s.msix := rfl
@[simp] theorem setLlm_fuses (s : State) (h : Nat) (f : Llm → Llm) : (s.setLlm h f).fuses = s.fuses := rfl
@[simp] theorem setLlm_sec (s : State) (h : Nat) (f : Llm → Llm) : (s.setLlm h f).sec = s.sec := rfl
@[simp] theorem setLlm_power (s : State) (h : Nat) (f : Llm → Llm) : (s.setLlm h f).power = s.power := rfl
@[simp] theorem setLlm_streams (s : State) (h : Nat) (f : Llm → Llm) : (s.setLlm h f).streams = s.streams := rfl
@[simp] theorem setLlm_medBusy (s : State) (h : Nat) (f : Llm → Llm) : (s.setLlm h f).medBusy = s.medBusy := rfl
@[simp] theorem setLlm_mirror (s : State) (h : Nat) (f : Llm → Llm) : (s.setLlm h f).mirror = s.mirror := rfl
@[simp] theorem setLlm_claims (s : State) (h : Nat) (f : Llm → Llm) : (s.setLlm h f).claims = s.claims := rfl
@[simp] theorem setLlm_held (s : State) (h : Nat) (f : Llm → Llm) : (s.setLlm h f).held = s.held := rfl
@[simp] theorem setLlm_fresh (s : State) (h : Nat) (f : Llm → Llm) : (s.setLlm h f).fresh = s.fresh := rfl
@[simp] theorem setLlm_pending (s : State) (h : Nat) (f : Llm → Llm) : (s.setLlm h f).pending = s.pending := rfl

/-! ## setRing -/

@[simp] theorem setRing_regs (s : State) (d : Nat) (f : Ring → Ring) : (s.setRing d f).regs = s.regs := rfl
@[simp] theorem setRing_pend (s : State) (d : Nat) (f : Ring → Ring) : (s.setRing d f).pend = s.pend := rfl
@[simp] theorem setRing_live (s : State) (d : Nat) (f : Ring → Ring) : (s.setRing d f).live = s.live := rfl
@[simp] theorem setRing_mem (s : State) (d : Nat) (f : Ring → Ring) : (s.setRing d f).mem = s.mem := rfl
@[simp] theorem setRing_poison (s : State) (d : Nat) (f : Ring → Ring) : (s.setRing d f).poison = s.poison := rfl
@[simp] theorem setRing_memTags (s : State) (d : Nat) (f : Ring → Ring) : (s.setRing d f).memTags = s.memTags := rfl
@[simp] theorem setRing_indet (s : State) (d : Nat) (f : Ring → Ring) : (s.setRing d f).indet = s.indet := rfl
@[simp] theorem setRing_zeroClear (s : State) (d : Nat) (f : Ring → Ring) : (s.setRing d f).zeroClear = s.zeroClear := rfl
@[simp] theorem setRing_farGiB (s : State) (d : Nat) (f : Ring → Ring) : (s.setRing d f).farGiB = s.farGiB := rfl
@[simp] theorem setRing_farChans (s : State) (d : Nat) (f : Ring → Ring) : (s.setRing d f).farChans = s.farChans := rfl
@[simp] theorem setRing_cxlGiB (s : State) (d : Nat) (f : Ring → Ring) : (s.setRing d f).cxlGiB = s.cxlGiB := rfl
@[simp] theorem setRing_scratch (s : State) (d : Nat) (f : Ring → Ring) : (s.setRing d f).scratch = s.scratch := rfl
@[simp] theorem setRing_scratchG (s : State) (d : Nat) (f : Ring → Ring) : (s.setRing d f).scratchG = s.scratchG := rfl
@[simp] theorem setRing_engines (s : State) (d : Nat) (f : Ring → Ring) : (s.setRing d f).engines = s.engines := rfl
@[simp] theorem setRing_keystones (s : State) (d : Nat) (f : Ring → Ring) : (s.setRing d f).keystones = s.keystones := rfl
@[simp] theorem setRing_runs (s : State) (d : Nat) (f : Ring → Ring) : (s.setRing d f).runs = s.runs := rfl
@[simp] theorem setRing_ctxs (s : State) (d : Nat) (f : Ring → Ring) : (s.setRing d f).ctxs = s.ctxs := rfl
@[simp] theorem setRing_programs (s : State) (d : Nat) (f : Ring → Ring) : (s.setRing d f).programs = s.programs := rfl
@[simp] theorem setRing_nextUid (s : State) (d : Nat) (f : Ring → Ring) : (s.setRing d f).nextUid = s.nextUid := rfl
@[simp] theorem setRing_plumb (s : State) (d : Nat) (f : Ring → Ring) : (s.setRing d f).plumb = s.plumb := rfl
@[simp] theorem setRing_capture (s : State) (d : Nat) (f : Ring → Ring) : (s.setRing d f).capture = s.capture := rfl
@[simp] theorem setRing_counters (s : State) (d : Nat) (f : Ring → Ring) : (s.setRing d f).counters = s.counters := rfl
@[simp] theorem setRing_reds (s : State) (d : Nat) (f : Ring → Ring) : (s.setRing d f).reds = s.reds := rfl
@[simp] theorem setRing_receipts (s : State) (d : Nat) (f : Ring → Ring) : (s.setRing d f).receipts = s.receipts := rfl
@[simp] theorem setRing_rcptSel (s : State) (d : Nat) (f : Ring → Ring) : (s.setRing d f).rcptSel = s.rcptSel := rfl
@[simp] theorem setRing_trailSeq (s : State) (d : Nat) (f : Ring → Ring) : (s.setRing d f).trailSeq = s.trailSeq := rfl
@[simp] theorem setRing_sends (s : State) (d : Nat) (f : Ring → Ring) : (s.setRing d f).sends = s.sends := rfl
@[simp] theorem setRing_shards (s : State) (d : Nat) (f : Ring → Ring) : (s.setRing d f).shards = s.shards := rfl
@[simp] theorem setRing_readers (s : State) (d : Nat) (f : Ring → Ring) : (s.setRing d f).readers = s.readers := rfl
@[simp] theorem setRing_waits (s : State) (d : Nat) (f : Ring → Ring) : (s.setRing d f).waits = s.waits := rfl
@[simp] theorem setRing_leased (s : State) (d : Nat) (f : Ring → Ring) : (s.setRing d f).leased = s.leased := rfl
@[simp] theorem setRing_llms (s : State) (d : Nat) (f : Ring → Ring) : (s.setRing d f).llms = s.llms := rfl
@[simp] theorem setRing_tokens (s : State) (d : Nat) (f : Ring → Ring) : (s.setRing d f).tokens = s.tokens := rfl
@[simp] theorem setRing_queueAcc (s : State) (d : Nat) (f : Ring → Ring) : (s.setRing d f).queueAcc = s.queueAcc := rfl
@[simp] theorem setRing_rowHits (s : State) (d : Nat) (f : Ring → Ring) : (s.setRing d f).rowHits = s.rowHits := rfl
@[simp] theorem setRing_corrAt (s : State) (d : Nat) (f : Ring → Ring) : (s.setRing d f).corrAt = s.corrAt := rfl
@[simp] theorem setRing_ports (s : State) (d : Nat) (f : Ring → Ring) : (s.setRing d f).ports = s.ports := rfl
@[simp] theorem setRing_flows (s : State) (d : Nat) (f : Ring → Ring) : (s.setRing d f).flows = s.flows := rfl
@[simp] theorem setRing_d2dLost (s : State) (d : Nat) (f : Ring → Ring) : (s.setRing d f).d2dLost = s.d2dLost := rfl
@[simp] theorem setRing_routeWait (s : State) (d : Nat) (f : Ring → Ring) : (s.setRing d f).routeWait = s.routeWait := rfl
@[simp] theorem setRing_sentOut (s : State) (d : Nat) (f : Ring → Ring) : (s.setRing d f).sentOut = s.sentOut := rfl
@[simp] theorem setRing_remotes (s : State) (d : Nat) (f : Ring → Ring) : (s.setRing d f).remotes = s.remotes := rfl
@[simp] theorem setRing_nextTag (s : State) (d : Nat) (f : Ring → Ring) : (s.setRing d f).nextTag = s.nextTag := rfl
@[simp] theorem setRing_vectors (s : State) (d : Nat) (f : Ring → Ring) : (s.setRing d f).vectors = s.vectors := rfl
@[simp] theorem setRing_hostData (s : State) (d : Nat) (f : Ring → Ring) : (s.setRing d f).hostData = s.hostData := rfl
@[simp] theorem setRing_readData (s : State) (d : Nat) (f : Ring → Ring) : (s.setRing d f).readData = s.readData := rfl
@[simp] theorem setRing_doeReply (s : State) (d : Nat) (f : Ring → Ring) : (s.setRing d f).doeReply = s.doeReply := rfl
@[simp] theorem setRing_mgmt (s : State) (d : Nat) (f : Ring → Ring) : (s.setRing d f).mgmt = s.mgmt := rfl
@[simp] theorem setRing_ibi (s : State) (d : Nat) (f : Ring → Ring) : (s.setRing d f).ibi = s.ibi := rfl
@[simp] theorem setRing_faults (s : State) (d : Nat) (f : Ring → Ring) : (s.setRing d f).faults = s.faults := rfl
@[simp] theorem setRing_i3cAddr (s : State) (d : Nat) (f : Ring → Ring) : (s.setRing d f).i3cAddr = s.i3cAddr := rfl
@[simp] theorem setRing_telem (s : State) (d : Nat) (f : Ring → Ring) : (s.setRing d f).telem = s.telem := rfl
@[simp] theorem setRing_scan (s : State) (d : Nat) (f : Ring → Ring) : (s.setRing d f).scan = s.scan := rfl
@[simp] theorem setRing_scanPart (s : State) (d : Nat) (f : Ring → Ring) : (s.setRing d f).scanPart = s.scanPart := rfl
@[simp] theorem setRing_msix (s : State) (d : Nat) (f : Ring → Ring) : (s.setRing d f).msix = s.msix := rfl
@[simp] theorem setRing_fuses (s : State) (d : Nat) (f : Ring → Ring) : (s.setRing d f).fuses = s.fuses := rfl
@[simp] theorem setRing_sec (s : State) (d : Nat) (f : Ring → Ring) : (s.setRing d f).sec = s.sec := rfl
@[simp] theorem setRing_power (s : State) (d : Nat) (f : Ring → Ring) : (s.setRing d f).power = s.power := rfl
@[simp] theorem setRing_streams (s : State) (d : Nat) (f : Ring → Ring) : (s.setRing d f).streams = s.streams := rfl
@[simp] theorem setRing_medBusy (s : State) (d : Nat) (f : Ring → Ring) : (s.setRing d f).medBusy = s.medBusy := rfl
@[simp] theorem setRing_mirror (s : State) (d : Nat) (f : Ring → Ring) : (s.setRing d f).mirror = s.mirror := rfl
@[simp] theorem setRing_claims (s : State) (d : Nat) (f : Ring → Ring) : (s.setRing d f).claims = s.claims := rfl
@[simp] theorem setRing_held (s : State) (d : Nat) (f : Ring → Ring) : (s.setRing d f).held = s.held := rfl
@[simp] theorem setRing_fresh (s : State) (d : Nat) (f : Ring → Ring) : (s.setRing d f).fresh = s.fresh := rfl
@[simp] theorem setRing_pending (s : State) (d : Nat) (f : Ring → Ring) : (s.setRing d f).pending = s.pending := rfl

/-! ## setRun -/

@[simp] theorem setRun_regs (s : State) (l : Nat) (f : Run → Run) : (s.setRun l f).regs = s.regs := rfl
@[simp] theorem setRun_pend (s : State) (l : Nat) (f : Run → Run) : (s.setRun l f).pend = s.pend := rfl
@[simp] theorem setRun_live (s : State) (l : Nat) (f : Run → Run) : (s.setRun l f).live = s.live := rfl
@[simp] theorem setRun_mem (s : State) (l : Nat) (f : Run → Run) : (s.setRun l f).mem = s.mem := rfl
@[simp] theorem setRun_poison (s : State) (l : Nat) (f : Run → Run) : (s.setRun l f).poison = s.poison := rfl
@[simp] theorem setRun_memTags (s : State) (l : Nat) (f : Run → Run) : (s.setRun l f).memTags = s.memTags := rfl
@[simp] theorem setRun_indet (s : State) (l : Nat) (f : Run → Run) : (s.setRun l f).indet = s.indet := rfl
@[simp] theorem setRun_zeroClear (s : State) (l : Nat) (f : Run → Run) : (s.setRun l f).zeroClear = s.zeroClear := rfl
@[simp] theorem setRun_farGiB (s : State) (l : Nat) (f : Run → Run) : (s.setRun l f).farGiB = s.farGiB := rfl
@[simp] theorem setRun_farChans (s : State) (l : Nat) (f : Run → Run) : (s.setRun l f).farChans = s.farChans := rfl
@[simp] theorem setRun_cxlGiB (s : State) (l : Nat) (f : Run → Run) : (s.setRun l f).cxlGiB = s.cxlGiB := rfl
@[simp] theorem setRun_scratch (s : State) (l : Nat) (f : Run → Run) : (s.setRun l f).scratch = s.scratch := rfl
@[simp] theorem setRun_scratchG (s : State) (l : Nat) (f : Run → Run) : (s.setRun l f).scratchG = s.scratchG := rfl
@[simp] theorem setRun_engines (s : State) (l : Nat) (f : Run → Run) : (s.setRun l f).engines = s.engines := rfl
@[simp] theorem setRun_keystones (s : State) (l : Nat) (f : Run → Run) : (s.setRun l f).keystones = s.keystones := rfl
@[simp] theorem setRun_ctxs (s : State) (l : Nat) (f : Run → Run) : (s.setRun l f).ctxs = s.ctxs := rfl
@[simp] theorem setRun_programs (s : State) (l : Nat) (f : Run → Run) : (s.setRun l f).programs = s.programs := rfl
@[simp] theorem setRun_nextUid (s : State) (l : Nat) (f : Run → Run) : (s.setRun l f).nextUid = s.nextUid := rfl
@[simp] theorem setRun_plumb (s : State) (l : Nat) (f : Run → Run) : (s.setRun l f).plumb = s.plumb := rfl
@[simp] theorem setRun_rings (s : State) (l : Nat) (f : Run → Run) : (s.setRun l f).rings = s.rings := rfl
@[simp] theorem setRun_capture (s : State) (l : Nat) (f : Run → Run) : (s.setRun l f).capture = s.capture := rfl
@[simp] theorem setRun_counters (s : State) (l : Nat) (f : Run → Run) : (s.setRun l f).counters = s.counters := rfl
@[simp] theorem setRun_reds (s : State) (l : Nat) (f : Run → Run) : (s.setRun l f).reds = s.reds := rfl
@[simp] theorem setRun_receipts (s : State) (l : Nat) (f : Run → Run) : (s.setRun l f).receipts = s.receipts := rfl
@[simp] theorem setRun_rcptSel (s : State) (l : Nat) (f : Run → Run) : (s.setRun l f).rcptSel = s.rcptSel := rfl
@[simp] theorem setRun_trailSeq (s : State) (l : Nat) (f : Run → Run) : (s.setRun l f).trailSeq = s.trailSeq := rfl
@[simp] theorem setRun_sends (s : State) (l : Nat) (f : Run → Run) : (s.setRun l f).sends = s.sends := rfl
@[simp] theorem setRun_shards (s : State) (l : Nat) (f : Run → Run) : (s.setRun l f).shards = s.shards := rfl
@[simp] theorem setRun_readers (s : State) (l : Nat) (f : Run → Run) : (s.setRun l f).readers = s.readers := rfl
@[simp] theorem setRun_waits (s : State) (l : Nat) (f : Run → Run) : (s.setRun l f).waits = s.waits := rfl
@[simp] theorem setRun_leased (s : State) (l : Nat) (f : Run → Run) : (s.setRun l f).leased = s.leased := rfl
@[simp] theorem setRun_llms (s : State) (l : Nat) (f : Run → Run) : (s.setRun l f).llms = s.llms := rfl
@[simp] theorem setRun_tokens (s : State) (l : Nat) (f : Run → Run) : (s.setRun l f).tokens = s.tokens := rfl
@[simp] theorem setRun_queueAcc (s : State) (l : Nat) (f : Run → Run) : (s.setRun l f).queueAcc = s.queueAcc := rfl
@[simp] theorem setRun_rowHits (s : State) (l : Nat) (f : Run → Run) : (s.setRun l f).rowHits = s.rowHits := rfl
@[simp] theorem setRun_corrAt (s : State) (l : Nat) (f : Run → Run) : (s.setRun l f).corrAt = s.corrAt := rfl
@[simp] theorem setRun_ports (s : State) (l : Nat) (f : Run → Run) : (s.setRun l f).ports = s.ports := rfl
@[simp] theorem setRun_flows (s : State) (l : Nat) (f : Run → Run) : (s.setRun l f).flows = s.flows := rfl
@[simp] theorem setRun_d2dLost (s : State) (l : Nat) (f : Run → Run) : (s.setRun l f).d2dLost = s.d2dLost := rfl
@[simp] theorem setRun_routeWait (s : State) (l : Nat) (f : Run → Run) : (s.setRun l f).routeWait = s.routeWait := rfl
@[simp] theorem setRun_sentOut (s : State) (l : Nat) (f : Run → Run) : (s.setRun l f).sentOut = s.sentOut := rfl
@[simp] theorem setRun_remotes (s : State) (l : Nat) (f : Run → Run) : (s.setRun l f).remotes = s.remotes := rfl
@[simp] theorem setRun_nextTag (s : State) (l : Nat) (f : Run → Run) : (s.setRun l f).nextTag = s.nextTag := rfl
@[simp] theorem setRun_vectors (s : State) (l : Nat) (f : Run → Run) : (s.setRun l f).vectors = s.vectors := rfl
@[simp] theorem setRun_hostData (s : State) (l : Nat) (f : Run → Run) : (s.setRun l f).hostData = s.hostData := rfl
@[simp] theorem setRun_readData (s : State) (l : Nat) (f : Run → Run) : (s.setRun l f).readData = s.readData := rfl
@[simp] theorem setRun_doeReply (s : State) (l : Nat) (f : Run → Run) : (s.setRun l f).doeReply = s.doeReply := rfl
@[simp] theorem setRun_mgmt (s : State) (l : Nat) (f : Run → Run) : (s.setRun l f).mgmt = s.mgmt := rfl
@[simp] theorem setRun_ibi (s : State) (l : Nat) (f : Run → Run) : (s.setRun l f).ibi = s.ibi := rfl
@[simp] theorem setRun_faults (s : State) (l : Nat) (f : Run → Run) : (s.setRun l f).faults = s.faults := rfl
@[simp] theorem setRun_i3cAddr (s : State) (l : Nat) (f : Run → Run) : (s.setRun l f).i3cAddr = s.i3cAddr := rfl
@[simp] theorem setRun_telem (s : State) (l : Nat) (f : Run → Run) : (s.setRun l f).telem = s.telem := rfl
@[simp] theorem setRun_scan (s : State) (l : Nat) (f : Run → Run) : (s.setRun l f).scan = s.scan := rfl
@[simp] theorem setRun_scanPart (s : State) (l : Nat) (f : Run → Run) : (s.setRun l f).scanPart = s.scanPart := rfl
@[simp] theorem setRun_msix (s : State) (l : Nat) (f : Run → Run) : (s.setRun l f).msix = s.msix := rfl
@[simp] theorem setRun_fuses (s : State) (l : Nat) (f : Run → Run) : (s.setRun l f).fuses = s.fuses := rfl
@[simp] theorem setRun_sec (s : State) (l : Nat) (f : Run → Run) : (s.setRun l f).sec = s.sec := rfl
@[simp] theorem setRun_power (s : State) (l : Nat) (f : Run → Run) : (s.setRun l f).power = s.power := rfl
@[simp] theorem setRun_streams (s : State) (l : Nat) (f : Run → Run) : (s.setRun l f).streams = s.streams := rfl
@[simp] theorem setRun_medBusy (s : State) (l : Nat) (f : Run → Run) : (s.setRun l f).medBusy = s.medBusy := rfl
@[simp] theorem setRun_mirror (s : State) (l : Nat) (f : Run → Run) : (s.setRun l f).mirror = s.mirror := rfl
@[simp] theorem setRun_claims (s : State) (l : Nat) (f : Run → Run) : (s.setRun l f).claims = s.claims := rfl
@[simp] theorem setRun_held (s : State) (l : Nat) (f : Run → Run) : (s.setRun l f).held = s.held := rfl
@[simp] theorem setRun_fresh (s : State) (l : Nat) (f : Run → Run) : (s.setRun l f).fresh = s.fresh := rfl
@[simp] theorem setRun_pending (s : State) (l : Nat) (f : Run → Run) : (s.setRun l f).pending = s.pending := rfl

/-! ## setEngine -/

@[simp] theorem setEngine_regs (s : State) (x : Engine) : (s.setEngine x).regs = s.regs := rfl
@[simp] theorem setEngine_pend (s : State) (x : Engine) : (s.setEngine x).pend = s.pend := rfl
@[simp] theorem setEngine_live (s : State) (x : Engine) : (s.setEngine x).live = s.live := rfl
@[simp] theorem setEngine_mem (s : State) (x : Engine) : (s.setEngine x).mem = s.mem := rfl
@[simp] theorem setEngine_poison (s : State) (x : Engine) : (s.setEngine x).poison = s.poison := rfl
@[simp] theorem setEngine_memTags (s : State) (x : Engine) : (s.setEngine x).memTags = s.memTags := rfl
@[simp] theorem setEngine_indet (s : State) (x : Engine) : (s.setEngine x).indet = s.indet := rfl
@[simp] theorem setEngine_zeroClear (s : State) (x : Engine) : (s.setEngine x).zeroClear = s.zeroClear := rfl
@[simp] theorem setEngine_farGiB (s : State) (x : Engine) : (s.setEngine x).farGiB = s.farGiB := rfl
@[simp] theorem setEngine_farChans (s : State) (x : Engine) : (s.setEngine x).farChans = s.farChans := rfl
@[simp] theorem setEngine_cxlGiB (s : State) (x : Engine) : (s.setEngine x).cxlGiB = s.cxlGiB := rfl
@[simp] theorem setEngine_scratch (s : State) (x : Engine) : (s.setEngine x).scratch = s.scratch := rfl
@[simp] theorem setEngine_scratchG (s : State) (x : Engine) : (s.setEngine x).scratchG = s.scratchG := rfl
@[simp] theorem setEngine_keystones (s : State) (x : Engine) : (s.setEngine x).keystones = s.keystones := rfl
@[simp] theorem setEngine_runs (s : State) (x : Engine) : (s.setEngine x).runs = s.runs := rfl
@[simp] theorem setEngine_ctxs (s : State) (x : Engine) : (s.setEngine x).ctxs = s.ctxs := rfl
@[simp] theorem setEngine_programs (s : State) (x : Engine) : (s.setEngine x).programs = s.programs := rfl
@[simp] theorem setEngine_nextUid (s : State) (x : Engine) : (s.setEngine x).nextUid = s.nextUid := rfl
@[simp] theorem setEngine_plumb (s : State) (x : Engine) : (s.setEngine x).plumb = s.plumb := rfl
@[simp] theorem setEngine_rings (s : State) (x : Engine) : (s.setEngine x).rings = s.rings := rfl
@[simp] theorem setEngine_capture (s : State) (x : Engine) : (s.setEngine x).capture = s.capture := rfl
@[simp] theorem setEngine_counters (s : State) (x : Engine) : (s.setEngine x).counters = s.counters := rfl
@[simp] theorem setEngine_reds (s : State) (x : Engine) : (s.setEngine x).reds = s.reds := rfl
@[simp] theorem setEngine_receipts (s : State) (x : Engine) : (s.setEngine x).receipts = s.receipts := rfl
@[simp] theorem setEngine_rcptSel (s : State) (x : Engine) : (s.setEngine x).rcptSel = s.rcptSel := rfl
@[simp] theorem setEngine_trailSeq (s : State) (x : Engine) : (s.setEngine x).trailSeq = s.trailSeq := rfl
@[simp] theorem setEngine_sends (s : State) (x : Engine) : (s.setEngine x).sends = s.sends := rfl
@[simp] theorem setEngine_shards (s : State) (x : Engine) : (s.setEngine x).shards = s.shards := rfl
@[simp] theorem setEngine_readers (s : State) (x : Engine) : (s.setEngine x).readers = s.readers := rfl
@[simp] theorem setEngine_waits (s : State) (x : Engine) : (s.setEngine x).waits = s.waits := rfl
@[simp] theorem setEngine_leased (s : State) (x : Engine) : (s.setEngine x).leased = s.leased := rfl
@[simp] theorem setEngine_llms (s : State) (x : Engine) : (s.setEngine x).llms = s.llms := rfl
@[simp] theorem setEngine_tokens (s : State) (x : Engine) : (s.setEngine x).tokens = s.tokens := rfl
@[simp] theorem setEngine_queueAcc (s : State) (x : Engine) : (s.setEngine x).queueAcc = s.queueAcc := rfl
@[simp] theorem setEngine_rowHits (s : State) (x : Engine) : (s.setEngine x).rowHits = s.rowHits := rfl
@[simp] theorem setEngine_corrAt (s : State) (x : Engine) : (s.setEngine x).corrAt = s.corrAt := rfl
@[simp] theorem setEngine_ports (s : State) (x : Engine) : (s.setEngine x).ports = s.ports := rfl
@[simp] theorem setEngine_flows (s : State) (x : Engine) : (s.setEngine x).flows = s.flows := rfl
@[simp] theorem setEngine_d2dLost (s : State) (x : Engine) : (s.setEngine x).d2dLost = s.d2dLost := rfl
@[simp] theorem setEngine_routeWait (s : State) (x : Engine) : (s.setEngine x).routeWait = s.routeWait := rfl
@[simp] theorem setEngine_sentOut (s : State) (x : Engine) : (s.setEngine x).sentOut = s.sentOut := rfl
@[simp] theorem setEngine_remotes (s : State) (x : Engine) : (s.setEngine x).remotes = s.remotes := rfl
@[simp] theorem setEngine_nextTag (s : State) (x : Engine) : (s.setEngine x).nextTag = s.nextTag := rfl
@[simp] theorem setEngine_vectors (s : State) (x : Engine) : (s.setEngine x).vectors = s.vectors := rfl
@[simp] theorem setEngine_hostData (s : State) (x : Engine) : (s.setEngine x).hostData = s.hostData := rfl
@[simp] theorem setEngine_readData (s : State) (x : Engine) : (s.setEngine x).readData = s.readData := rfl
@[simp] theorem setEngine_doeReply (s : State) (x : Engine) : (s.setEngine x).doeReply = s.doeReply := rfl
@[simp] theorem setEngine_mgmt (s : State) (x : Engine) : (s.setEngine x).mgmt = s.mgmt := rfl
@[simp] theorem setEngine_ibi (s : State) (x : Engine) : (s.setEngine x).ibi = s.ibi := rfl
@[simp] theorem setEngine_faults (s : State) (x : Engine) : (s.setEngine x).faults = s.faults := rfl
@[simp] theorem setEngine_i3cAddr (s : State) (x : Engine) : (s.setEngine x).i3cAddr = s.i3cAddr := rfl
@[simp] theorem setEngine_telem (s : State) (x : Engine) : (s.setEngine x).telem = s.telem := rfl
@[simp] theorem setEngine_scan (s : State) (x : Engine) : (s.setEngine x).scan = s.scan := rfl
@[simp] theorem setEngine_scanPart (s : State) (x : Engine) : (s.setEngine x).scanPart = s.scanPart := rfl
@[simp] theorem setEngine_msix (s : State) (x : Engine) : (s.setEngine x).msix = s.msix := rfl
@[simp] theorem setEngine_fuses (s : State) (x : Engine) : (s.setEngine x).fuses = s.fuses := rfl
@[simp] theorem setEngine_sec (s : State) (x : Engine) : (s.setEngine x).sec = s.sec := rfl
@[simp] theorem setEngine_power (s : State) (x : Engine) : (s.setEngine x).power = s.power := rfl
@[simp] theorem setEngine_streams (s : State) (x : Engine) : (s.setEngine x).streams = s.streams := rfl
@[simp] theorem setEngine_medBusy (s : State) (x : Engine) : (s.setEngine x).medBusy = s.medBusy := rfl
@[simp] theorem setEngine_mirror (s : State) (x : Engine) : (s.setEngine x).mirror = s.mirror := rfl
@[simp] theorem setEngine_claims (s : State) (x : Engine) : (s.setEngine x).claims = s.claims := rfl
@[simp] theorem setEngine_held (s : State) (x : Engine) : (s.setEngine x).held = s.held := rfl
@[simp] theorem setEngine_fresh (s : State) (x : Engine) : (s.setEngine x).fresh = s.fresh := rfl
@[simp] theorem setEngine_pending (s : State) (x : Engine) : (s.setEngine x).pending = s.pending := rfl

/-! ## setKeystone -/

@[simp] theorem setKeystone_regs (s : State) (k : Nat) (f : Keystone → Keystone) : (s.setKeystone k f).regs = s.regs := rfl
@[simp] theorem setKeystone_pend (s : State) (k : Nat) (f : Keystone → Keystone) : (s.setKeystone k f).pend = s.pend := rfl
@[simp] theorem setKeystone_live (s : State) (k : Nat) (f : Keystone → Keystone) : (s.setKeystone k f).live = s.live := rfl
@[simp] theorem setKeystone_mem (s : State) (k : Nat) (f : Keystone → Keystone) : (s.setKeystone k f).mem = s.mem := rfl
@[simp] theorem setKeystone_poison (s : State) (k : Nat) (f : Keystone → Keystone) : (s.setKeystone k f).poison = s.poison := rfl
@[simp] theorem setKeystone_memTags (s : State) (k : Nat) (f : Keystone → Keystone) : (s.setKeystone k f).memTags = s.memTags := rfl
@[simp] theorem setKeystone_indet (s : State) (k : Nat) (f : Keystone → Keystone) : (s.setKeystone k f).indet = s.indet := rfl
@[simp] theorem setKeystone_zeroClear (s : State) (k : Nat) (f : Keystone → Keystone) : (s.setKeystone k f).zeroClear = s.zeroClear := rfl
@[simp] theorem setKeystone_farGiB (s : State) (k : Nat) (f : Keystone → Keystone) : (s.setKeystone k f).farGiB = s.farGiB := rfl
@[simp] theorem setKeystone_farChans (s : State) (k : Nat) (f : Keystone → Keystone) : (s.setKeystone k f).farChans = s.farChans := rfl
@[simp] theorem setKeystone_cxlGiB (s : State) (k : Nat) (f : Keystone → Keystone) : (s.setKeystone k f).cxlGiB = s.cxlGiB := rfl
@[simp] theorem setKeystone_scratch (s : State) (k : Nat) (f : Keystone → Keystone) : (s.setKeystone k f).scratch = s.scratch := rfl
@[simp] theorem setKeystone_scratchG (s : State) (k : Nat) (f : Keystone → Keystone) : (s.setKeystone k f).scratchG = s.scratchG := rfl
@[simp] theorem setKeystone_engines (s : State) (k : Nat) (f : Keystone → Keystone) : (s.setKeystone k f).engines = s.engines := rfl
@[simp] theorem setKeystone_runs (s : State) (k : Nat) (f : Keystone → Keystone) : (s.setKeystone k f).runs = s.runs := rfl
@[simp] theorem setKeystone_ctxs (s : State) (k : Nat) (f : Keystone → Keystone) : (s.setKeystone k f).ctxs = s.ctxs := rfl
@[simp] theorem setKeystone_programs (s : State) (k : Nat) (f : Keystone → Keystone) : (s.setKeystone k f).programs = s.programs := rfl
@[simp] theorem setKeystone_nextUid (s : State) (k : Nat) (f : Keystone → Keystone) : (s.setKeystone k f).nextUid = s.nextUid := rfl
@[simp] theorem setKeystone_plumb (s : State) (k : Nat) (f : Keystone → Keystone) : (s.setKeystone k f).plumb = s.plumb := rfl
@[simp] theorem setKeystone_rings (s : State) (k : Nat) (f : Keystone → Keystone) : (s.setKeystone k f).rings = s.rings := rfl
@[simp] theorem setKeystone_capture (s : State) (k : Nat) (f : Keystone → Keystone) : (s.setKeystone k f).capture = s.capture := rfl
@[simp] theorem setKeystone_counters (s : State) (k : Nat) (f : Keystone → Keystone) : (s.setKeystone k f).counters = s.counters := rfl
@[simp] theorem setKeystone_reds (s : State) (k : Nat) (f : Keystone → Keystone) : (s.setKeystone k f).reds = s.reds := rfl
@[simp] theorem setKeystone_receipts (s : State) (k : Nat) (f : Keystone → Keystone) : (s.setKeystone k f).receipts = s.receipts := rfl
@[simp] theorem setKeystone_rcptSel (s : State) (k : Nat) (f : Keystone → Keystone) : (s.setKeystone k f).rcptSel = s.rcptSel := rfl
@[simp] theorem setKeystone_trailSeq (s : State) (k : Nat) (f : Keystone → Keystone) : (s.setKeystone k f).trailSeq = s.trailSeq := rfl
@[simp] theorem setKeystone_sends (s : State) (k : Nat) (f : Keystone → Keystone) : (s.setKeystone k f).sends = s.sends := rfl
@[simp] theorem setKeystone_shards (s : State) (k : Nat) (f : Keystone → Keystone) : (s.setKeystone k f).shards = s.shards := rfl
@[simp] theorem setKeystone_readers (s : State) (k : Nat) (f : Keystone → Keystone) : (s.setKeystone k f).readers = s.readers := rfl
@[simp] theorem setKeystone_waits (s : State) (k : Nat) (f : Keystone → Keystone) : (s.setKeystone k f).waits = s.waits := rfl
@[simp] theorem setKeystone_leased (s : State) (k : Nat) (f : Keystone → Keystone) : (s.setKeystone k f).leased = s.leased := rfl
@[simp] theorem setKeystone_llms (s : State) (k : Nat) (f : Keystone → Keystone) : (s.setKeystone k f).llms = s.llms := rfl
@[simp] theorem setKeystone_tokens (s : State) (k : Nat) (f : Keystone → Keystone) : (s.setKeystone k f).tokens = s.tokens := rfl
@[simp] theorem setKeystone_queueAcc (s : State) (k : Nat) (f : Keystone → Keystone) : (s.setKeystone k f).queueAcc = s.queueAcc := rfl
@[simp] theorem setKeystone_rowHits (s : State) (k : Nat) (f : Keystone → Keystone) : (s.setKeystone k f).rowHits = s.rowHits := rfl
@[simp] theorem setKeystone_corrAt (s : State) (k : Nat) (f : Keystone → Keystone) : (s.setKeystone k f).corrAt = s.corrAt := rfl
@[simp] theorem setKeystone_ports (s : State) (k : Nat) (f : Keystone → Keystone) : (s.setKeystone k f).ports = s.ports := rfl
@[simp] theorem setKeystone_flows (s : State) (k : Nat) (f : Keystone → Keystone) : (s.setKeystone k f).flows = s.flows := rfl
@[simp] theorem setKeystone_d2dLost (s : State) (k : Nat) (f : Keystone → Keystone) : (s.setKeystone k f).d2dLost = s.d2dLost := rfl
@[simp] theorem setKeystone_routeWait (s : State) (k : Nat) (f : Keystone → Keystone) : (s.setKeystone k f).routeWait = s.routeWait := rfl
@[simp] theorem setKeystone_sentOut (s : State) (k : Nat) (f : Keystone → Keystone) : (s.setKeystone k f).sentOut = s.sentOut := rfl
@[simp] theorem setKeystone_remotes (s : State) (k : Nat) (f : Keystone → Keystone) : (s.setKeystone k f).remotes = s.remotes := rfl
@[simp] theorem setKeystone_nextTag (s : State) (k : Nat) (f : Keystone → Keystone) : (s.setKeystone k f).nextTag = s.nextTag := rfl
@[simp] theorem setKeystone_vectors (s : State) (k : Nat) (f : Keystone → Keystone) : (s.setKeystone k f).vectors = s.vectors := rfl
@[simp] theorem setKeystone_hostData (s : State) (k : Nat) (f : Keystone → Keystone) : (s.setKeystone k f).hostData = s.hostData := rfl
@[simp] theorem setKeystone_readData (s : State) (k : Nat) (f : Keystone → Keystone) : (s.setKeystone k f).readData = s.readData := rfl
@[simp] theorem setKeystone_doeReply (s : State) (k : Nat) (f : Keystone → Keystone) : (s.setKeystone k f).doeReply = s.doeReply := rfl
@[simp] theorem setKeystone_mgmt (s : State) (k : Nat) (f : Keystone → Keystone) : (s.setKeystone k f).mgmt = s.mgmt := rfl
@[simp] theorem setKeystone_ibi (s : State) (k : Nat) (f : Keystone → Keystone) : (s.setKeystone k f).ibi = s.ibi := rfl
@[simp] theorem setKeystone_faults (s : State) (k : Nat) (f : Keystone → Keystone) : (s.setKeystone k f).faults = s.faults := rfl
@[simp] theorem setKeystone_i3cAddr (s : State) (k : Nat) (f : Keystone → Keystone) : (s.setKeystone k f).i3cAddr = s.i3cAddr := rfl
@[simp] theorem setKeystone_telem (s : State) (k : Nat) (f : Keystone → Keystone) : (s.setKeystone k f).telem = s.telem := rfl
@[simp] theorem setKeystone_scan (s : State) (k : Nat) (f : Keystone → Keystone) : (s.setKeystone k f).scan = s.scan := rfl
@[simp] theorem setKeystone_scanPart (s : State) (k : Nat) (f : Keystone → Keystone) : (s.setKeystone k f).scanPart = s.scanPart := rfl
@[simp] theorem setKeystone_msix (s : State) (k : Nat) (f : Keystone → Keystone) : (s.setKeystone k f).msix = s.msix := rfl
@[simp] theorem setKeystone_fuses (s : State) (k : Nat) (f : Keystone → Keystone) : (s.setKeystone k f).fuses = s.fuses := rfl
@[simp] theorem setKeystone_sec (s : State) (k : Nat) (f : Keystone → Keystone) : (s.setKeystone k f).sec = s.sec := rfl
@[simp] theorem setKeystone_power (s : State) (k : Nat) (f : Keystone → Keystone) : (s.setKeystone k f).power = s.power := rfl
@[simp] theorem setKeystone_streams (s : State) (k : Nat) (f : Keystone → Keystone) : (s.setKeystone k f).streams = s.streams := rfl
@[simp] theorem setKeystone_medBusy (s : State) (k : Nat) (f : Keystone → Keystone) : (s.setKeystone k f).medBusy = s.medBusy := rfl
@[simp] theorem setKeystone_mirror (s : State) (k : Nat) (f : Keystone → Keystone) : (s.setKeystone k f).mirror = s.mirror := rfl
@[simp] theorem setKeystone_claims (s : State) (k : Nat) (f : Keystone → Keystone) : (s.setKeystone k f).claims = s.claims := rfl
@[simp] theorem setKeystone_held (s : State) (k : Nat) (f : Keystone → Keystone) : (s.setKeystone k f).held = s.held := rfl
@[simp] theorem setKeystone_fresh (s : State) (k : Nat) (f : Keystone → Keystone) : (s.setKeystone k f).fresh = s.fresh := rfl
@[simp] theorem setKeystone_pending (s : State) (k : Nat) (f : Keystone → Keystone) : (s.setKeystone k f).pending = s.pending := rfl

/-! ## setCtx -/

@[simp] theorem setCtx_regs (s : State) (c : Nat) (f : Ctx → Ctx) : (s.setCtx c f).regs = s.regs := rfl
@[simp] theorem setCtx_pend (s : State) (c : Nat) (f : Ctx → Ctx) : (s.setCtx c f).pend = s.pend := rfl
@[simp] theorem setCtx_live (s : State) (c : Nat) (f : Ctx → Ctx) : (s.setCtx c f).live = s.live := rfl
@[simp] theorem setCtx_mem (s : State) (c : Nat) (f : Ctx → Ctx) : (s.setCtx c f).mem = s.mem := rfl
@[simp] theorem setCtx_poison (s : State) (c : Nat) (f : Ctx → Ctx) : (s.setCtx c f).poison = s.poison := rfl
@[simp] theorem setCtx_memTags (s : State) (c : Nat) (f : Ctx → Ctx) : (s.setCtx c f).memTags = s.memTags := rfl
@[simp] theorem setCtx_indet (s : State) (c : Nat) (f : Ctx → Ctx) : (s.setCtx c f).indet = s.indet := rfl
@[simp] theorem setCtx_zeroClear (s : State) (c : Nat) (f : Ctx → Ctx) : (s.setCtx c f).zeroClear = s.zeroClear := rfl
@[simp] theorem setCtx_farGiB (s : State) (c : Nat) (f : Ctx → Ctx) : (s.setCtx c f).farGiB = s.farGiB := rfl
@[simp] theorem setCtx_farChans (s : State) (c : Nat) (f : Ctx → Ctx) : (s.setCtx c f).farChans = s.farChans := rfl
@[simp] theorem setCtx_cxlGiB (s : State) (c : Nat) (f : Ctx → Ctx) : (s.setCtx c f).cxlGiB = s.cxlGiB := rfl
@[simp] theorem setCtx_scratch (s : State) (c : Nat) (f : Ctx → Ctx) : (s.setCtx c f).scratch = s.scratch := rfl
@[simp] theorem setCtx_scratchG (s : State) (c : Nat) (f : Ctx → Ctx) : (s.setCtx c f).scratchG = s.scratchG := rfl
@[simp] theorem setCtx_engines (s : State) (c : Nat) (f : Ctx → Ctx) : (s.setCtx c f).engines = s.engines := rfl
@[simp] theorem setCtx_keystones (s : State) (c : Nat) (f : Ctx → Ctx) : (s.setCtx c f).keystones = s.keystones := rfl
@[simp] theorem setCtx_runs (s : State) (c : Nat) (f : Ctx → Ctx) : (s.setCtx c f).runs = s.runs := rfl
@[simp] theorem setCtx_programs (s : State) (c : Nat) (f : Ctx → Ctx) : (s.setCtx c f).programs = s.programs := rfl
@[simp] theorem setCtx_nextUid (s : State) (c : Nat) (f : Ctx → Ctx) : (s.setCtx c f).nextUid = s.nextUid := rfl
@[simp] theorem setCtx_plumb (s : State) (c : Nat) (f : Ctx → Ctx) : (s.setCtx c f).plumb = s.plumb := rfl
@[simp] theorem setCtx_rings (s : State) (c : Nat) (f : Ctx → Ctx) : (s.setCtx c f).rings = s.rings := rfl
@[simp] theorem setCtx_capture (s : State) (c : Nat) (f : Ctx → Ctx) : (s.setCtx c f).capture = s.capture := rfl
@[simp] theorem setCtx_counters (s : State) (c : Nat) (f : Ctx → Ctx) : (s.setCtx c f).counters = s.counters := rfl
@[simp] theorem setCtx_reds (s : State) (c : Nat) (f : Ctx → Ctx) : (s.setCtx c f).reds = s.reds := rfl
@[simp] theorem setCtx_receipts (s : State) (c : Nat) (f : Ctx → Ctx) : (s.setCtx c f).receipts = s.receipts := rfl
@[simp] theorem setCtx_rcptSel (s : State) (c : Nat) (f : Ctx → Ctx) : (s.setCtx c f).rcptSel = s.rcptSel := rfl
@[simp] theorem setCtx_trailSeq (s : State) (c : Nat) (f : Ctx → Ctx) : (s.setCtx c f).trailSeq = s.trailSeq := rfl
@[simp] theorem setCtx_sends (s : State) (c : Nat) (f : Ctx → Ctx) : (s.setCtx c f).sends = s.sends := rfl
@[simp] theorem setCtx_shards (s : State) (c : Nat) (f : Ctx → Ctx) : (s.setCtx c f).shards = s.shards := rfl
@[simp] theorem setCtx_readers (s : State) (c : Nat) (f : Ctx → Ctx) : (s.setCtx c f).readers = s.readers := rfl
@[simp] theorem setCtx_waits (s : State) (c : Nat) (f : Ctx → Ctx) : (s.setCtx c f).waits = s.waits := rfl
@[simp] theorem setCtx_leased (s : State) (c : Nat) (f : Ctx → Ctx) : (s.setCtx c f).leased = s.leased := rfl
@[simp] theorem setCtx_llms (s : State) (c : Nat) (f : Ctx → Ctx) : (s.setCtx c f).llms = s.llms := rfl
@[simp] theorem setCtx_tokens (s : State) (c : Nat) (f : Ctx → Ctx) : (s.setCtx c f).tokens = s.tokens := rfl
@[simp] theorem setCtx_queueAcc (s : State) (c : Nat) (f : Ctx → Ctx) : (s.setCtx c f).queueAcc = s.queueAcc := rfl
@[simp] theorem setCtx_rowHits (s : State) (c : Nat) (f : Ctx → Ctx) : (s.setCtx c f).rowHits = s.rowHits := rfl
@[simp] theorem setCtx_corrAt (s : State) (c : Nat) (f : Ctx → Ctx) : (s.setCtx c f).corrAt = s.corrAt := rfl
@[simp] theorem setCtx_ports (s : State) (c : Nat) (f : Ctx → Ctx) : (s.setCtx c f).ports = s.ports := rfl
@[simp] theorem setCtx_flows (s : State) (c : Nat) (f : Ctx → Ctx) : (s.setCtx c f).flows = s.flows := rfl
@[simp] theorem setCtx_d2dLost (s : State) (c : Nat) (f : Ctx → Ctx) : (s.setCtx c f).d2dLost = s.d2dLost := rfl
@[simp] theorem setCtx_routeWait (s : State) (c : Nat) (f : Ctx → Ctx) : (s.setCtx c f).routeWait = s.routeWait := rfl
@[simp] theorem setCtx_sentOut (s : State) (c : Nat) (f : Ctx → Ctx) : (s.setCtx c f).sentOut = s.sentOut := rfl
@[simp] theorem setCtx_remotes (s : State) (c : Nat) (f : Ctx → Ctx) : (s.setCtx c f).remotes = s.remotes := rfl
@[simp] theorem setCtx_nextTag (s : State) (c : Nat) (f : Ctx → Ctx) : (s.setCtx c f).nextTag = s.nextTag := rfl
@[simp] theorem setCtx_vectors (s : State) (c : Nat) (f : Ctx → Ctx) : (s.setCtx c f).vectors = s.vectors := rfl
@[simp] theorem setCtx_hostData (s : State) (c : Nat) (f : Ctx → Ctx) : (s.setCtx c f).hostData = s.hostData := rfl
@[simp] theorem setCtx_readData (s : State) (c : Nat) (f : Ctx → Ctx) : (s.setCtx c f).readData = s.readData := rfl
@[simp] theorem setCtx_doeReply (s : State) (c : Nat) (f : Ctx → Ctx) : (s.setCtx c f).doeReply = s.doeReply := rfl
@[simp] theorem setCtx_mgmt (s : State) (c : Nat) (f : Ctx → Ctx) : (s.setCtx c f).mgmt = s.mgmt := rfl
@[simp] theorem setCtx_ibi (s : State) (c : Nat) (f : Ctx → Ctx) : (s.setCtx c f).ibi = s.ibi := rfl
@[simp] theorem setCtx_faults (s : State) (c : Nat) (f : Ctx → Ctx) : (s.setCtx c f).faults = s.faults := rfl
@[simp] theorem setCtx_i3cAddr (s : State) (c : Nat) (f : Ctx → Ctx) : (s.setCtx c f).i3cAddr = s.i3cAddr := rfl
@[simp] theorem setCtx_telem (s : State) (c : Nat) (f : Ctx → Ctx) : (s.setCtx c f).telem = s.telem := rfl
@[simp] theorem setCtx_scan (s : State) (c : Nat) (f : Ctx → Ctx) : (s.setCtx c f).scan = s.scan := rfl
@[simp] theorem setCtx_scanPart (s : State) (c : Nat) (f : Ctx → Ctx) : (s.setCtx c f).scanPart = s.scanPart := rfl
@[simp] theorem setCtx_msix (s : State) (c : Nat) (f : Ctx → Ctx) : (s.setCtx c f).msix = s.msix := rfl
@[simp] theorem setCtx_fuses (s : State) (c : Nat) (f : Ctx → Ctx) : (s.setCtx c f).fuses = s.fuses := rfl
@[simp] theorem setCtx_sec (s : State) (c : Nat) (f : Ctx → Ctx) : (s.setCtx c f).sec = s.sec := rfl
@[simp] theorem setCtx_power (s : State) (c : Nat) (f : Ctx → Ctx) : (s.setCtx c f).power = s.power := rfl
@[simp] theorem setCtx_streams (s : State) (c : Nat) (f : Ctx → Ctx) : (s.setCtx c f).streams = s.streams := rfl
@[simp] theorem setCtx_medBusy (s : State) (c : Nat) (f : Ctx → Ctx) : (s.setCtx c f).medBusy = s.medBusy := rfl
@[simp] theorem setCtx_mirror (s : State) (c : Nat) (f : Ctx → Ctx) : (s.setCtx c f).mirror = s.mirror := rfl
@[simp] theorem setCtx_claims (s : State) (c : Nat) (f : Ctx → Ctx) : (s.setCtx c f).claims = s.claims := rfl
@[simp] theorem setCtx_held (s : State) (c : Nat) (f : Ctx → Ctx) : (s.setCtx c f).held = s.held := rfl
@[simp] theorem setCtx_fresh (s : State) (c : Nat) (f : Ctx → Ctx) : (s.setCtx c f).fresh = s.fresh := rfl
@[simp] theorem setCtx_pending (s : State) (c : Nat) (f : Ctx → Ctx) : (s.setCtx c f).pending = s.pending := rfl

/-! ## setRed -/

@[simp] theorem setRed_regs (s : State) (h r : Nat) (f : Red → Red) : (s.setRed h r f).regs = s.regs := rfl
@[simp] theorem setRed_pend (s : State) (h r : Nat) (f : Red → Red) : (s.setRed h r f).pend = s.pend := rfl
@[simp] theorem setRed_live (s : State) (h r : Nat) (f : Red → Red) : (s.setRed h r f).live = s.live := rfl
@[simp] theorem setRed_mem (s : State) (h r : Nat) (f : Red → Red) : (s.setRed h r f).mem = s.mem := rfl
@[simp] theorem setRed_poison (s : State) (h r : Nat) (f : Red → Red) : (s.setRed h r f).poison = s.poison := rfl
@[simp] theorem setRed_memTags (s : State) (h r : Nat) (f : Red → Red) : (s.setRed h r f).memTags = s.memTags := rfl
@[simp] theorem setRed_indet (s : State) (h r : Nat) (f : Red → Red) : (s.setRed h r f).indet = s.indet := rfl
@[simp] theorem setRed_zeroClear (s : State) (h r : Nat) (f : Red → Red) : (s.setRed h r f).zeroClear = s.zeroClear := rfl
@[simp] theorem setRed_farGiB (s : State) (h r : Nat) (f : Red → Red) : (s.setRed h r f).farGiB = s.farGiB := rfl
@[simp] theorem setRed_farChans (s : State) (h r : Nat) (f : Red → Red) : (s.setRed h r f).farChans = s.farChans := rfl
@[simp] theorem setRed_cxlGiB (s : State) (h r : Nat) (f : Red → Red) : (s.setRed h r f).cxlGiB = s.cxlGiB := rfl
@[simp] theorem setRed_scratch (s : State) (h r : Nat) (f : Red → Red) : (s.setRed h r f).scratch = s.scratch := rfl
@[simp] theorem setRed_scratchG (s : State) (h r : Nat) (f : Red → Red) : (s.setRed h r f).scratchG = s.scratchG := rfl
@[simp] theorem setRed_engines (s : State) (h r : Nat) (f : Red → Red) : (s.setRed h r f).engines = s.engines := rfl
@[simp] theorem setRed_keystones (s : State) (h r : Nat) (f : Red → Red) : (s.setRed h r f).keystones = s.keystones := rfl
@[simp] theorem setRed_runs (s : State) (h r : Nat) (f : Red → Red) : (s.setRed h r f).runs = s.runs := rfl
@[simp] theorem setRed_ctxs (s : State) (h r : Nat) (f : Red → Red) : (s.setRed h r f).ctxs = s.ctxs := rfl
@[simp] theorem setRed_programs (s : State) (h r : Nat) (f : Red → Red) : (s.setRed h r f).programs = s.programs := rfl
@[simp] theorem setRed_nextUid (s : State) (h r : Nat) (f : Red → Red) : (s.setRed h r f).nextUid = s.nextUid := rfl
@[simp] theorem setRed_plumb (s : State) (h r : Nat) (f : Red → Red) : (s.setRed h r f).plumb = s.plumb := rfl
@[simp] theorem setRed_rings (s : State) (h r : Nat) (f : Red → Red) : (s.setRed h r f).rings = s.rings := rfl
@[simp] theorem setRed_capture (s : State) (h r : Nat) (f : Red → Red) : (s.setRed h r f).capture = s.capture := rfl
@[simp] theorem setRed_counters (s : State) (h r : Nat) (f : Red → Red) : (s.setRed h r f).counters = s.counters := rfl
@[simp] theorem setRed_receipts (s : State) (h r : Nat) (f : Red → Red) : (s.setRed h r f).receipts = s.receipts := rfl
@[simp] theorem setRed_rcptSel (s : State) (h r : Nat) (f : Red → Red) : (s.setRed h r f).rcptSel = s.rcptSel := rfl
@[simp] theorem setRed_trailSeq (s : State) (h r : Nat) (f : Red → Red) : (s.setRed h r f).trailSeq = s.trailSeq := rfl
@[simp] theorem setRed_sends (s : State) (h r : Nat) (f : Red → Red) : (s.setRed h r f).sends = s.sends := rfl
@[simp] theorem setRed_shards (s : State) (h r : Nat) (f : Red → Red) : (s.setRed h r f).shards = s.shards := rfl
@[simp] theorem setRed_readers (s : State) (h r : Nat) (f : Red → Red) : (s.setRed h r f).readers = s.readers := rfl
@[simp] theorem setRed_waits (s : State) (h r : Nat) (f : Red → Red) : (s.setRed h r f).waits = s.waits := rfl
@[simp] theorem setRed_leased (s : State) (h r : Nat) (f : Red → Red) : (s.setRed h r f).leased = s.leased := rfl
@[simp] theorem setRed_llms (s : State) (h r : Nat) (f : Red → Red) : (s.setRed h r f).llms = s.llms := rfl
@[simp] theorem setRed_tokens (s : State) (h r : Nat) (f : Red → Red) : (s.setRed h r f).tokens = s.tokens := rfl
@[simp] theorem setRed_queueAcc (s : State) (h r : Nat) (f : Red → Red) : (s.setRed h r f).queueAcc = s.queueAcc := rfl
@[simp] theorem setRed_rowHits (s : State) (h r : Nat) (f : Red → Red) : (s.setRed h r f).rowHits = s.rowHits := rfl
@[simp] theorem setRed_corrAt (s : State) (h r : Nat) (f : Red → Red) : (s.setRed h r f).corrAt = s.corrAt := rfl
@[simp] theorem setRed_ports (s : State) (h r : Nat) (f : Red → Red) : (s.setRed h r f).ports = s.ports := rfl
@[simp] theorem setRed_flows (s : State) (h r : Nat) (f : Red → Red) : (s.setRed h r f).flows = s.flows := rfl
@[simp] theorem setRed_d2dLost (s : State) (h r : Nat) (f : Red → Red) : (s.setRed h r f).d2dLost = s.d2dLost := rfl
@[simp] theorem setRed_routeWait (s : State) (h r : Nat) (f : Red → Red) : (s.setRed h r f).routeWait = s.routeWait := rfl
@[simp] theorem setRed_sentOut (s : State) (h r : Nat) (f : Red → Red) : (s.setRed h r f).sentOut = s.sentOut := rfl
@[simp] theorem setRed_remotes (s : State) (h r : Nat) (f : Red → Red) : (s.setRed h r f).remotes = s.remotes := rfl
@[simp] theorem setRed_nextTag (s : State) (h r : Nat) (f : Red → Red) : (s.setRed h r f).nextTag = s.nextTag := rfl
@[simp] theorem setRed_vectors (s : State) (h r : Nat) (f : Red → Red) : (s.setRed h r f).vectors = s.vectors := rfl
@[simp] theorem setRed_hostData (s : State) (h r : Nat) (f : Red → Red) : (s.setRed h r f).hostData = s.hostData := rfl
@[simp] theorem setRed_readData (s : State) (h r : Nat) (f : Red → Red) : (s.setRed h r f).readData = s.readData := rfl
@[simp] theorem setRed_doeReply (s : State) (h r : Nat) (f : Red → Red) : (s.setRed h r f).doeReply = s.doeReply := rfl
@[simp] theorem setRed_mgmt (s : State) (h r : Nat) (f : Red → Red) : (s.setRed h r f).mgmt = s.mgmt := rfl
@[simp] theorem setRed_ibi (s : State) (h r : Nat) (f : Red → Red) : (s.setRed h r f).ibi = s.ibi := rfl
@[simp] theorem setRed_faults (s : State) (h r : Nat) (f : Red → Red) : (s.setRed h r f).faults = s.faults := rfl
@[simp] theorem setRed_i3cAddr (s : State) (h r : Nat) (f : Red → Red) : (s.setRed h r f).i3cAddr = s.i3cAddr := rfl
@[simp] theorem setRed_telem (s : State) (h r : Nat) (f : Red → Red) : (s.setRed h r f).telem = s.telem := rfl
@[simp] theorem setRed_scan (s : State) (h r : Nat) (f : Red → Red) : (s.setRed h r f).scan = s.scan := rfl
@[simp] theorem setRed_scanPart (s : State) (h r : Nat) (f : Red → Red) : (s.setRed h r f).scanPart = s.scanPart := rfl
@[simp] theorem setRed_msix (s : State) (h r : Nat) (f : Red → Red) : (s.setRed h r f).msix = s.msix := rfl
@[simp] theorem setRed_fuses (s : State) (h r : Nat) (f : Red → Red) : (s.setRed h r f).fuses = s.fuses := rfl
@[simp] theorem setRed_sec (s : State) (h r : Nat) (f : Red → Red) : (s.setRed h r f).sec = s.sec := rfl
@[simp] theorem setRed_power (s : State) (h r : Nat) (f : Red → Red) : (s.setRed h r f).power = s.power := rfl
@[simp] theorem setRed_streams (s : State) (h r : Nat) (f : Red → Red) : (s.setRed h r f).streams = s.streams := rfl
@[simp] theorem setRed_medBusy (s : State) (h r : Nat) (f : Red → Red) : (s.setRed h r f).medBusy = s.medBusy := rfl
@[simp] theorem setRed_mirror (s : State) (h r : Nat) (f : Red → Red) : (s.setRed h r f).mirror = s.mirror := rfl
@[simp] theorem setRed_claims (s : State) (h r : Nat) (f : Red → Red) : (s.setRed h r f).claims = s.claims := rfl
@[simp] theorem setRed_held (s : State) (h r : Nat) (f : Red → Red) : (s.setRed h r f).held = s.held := rfl
@[simp] theorem setRed_fresh (s : State) (h r : Nat) (f : Red → Red) : (s.setRed h r f).fresh = s.fresh := rfl
@[simp] theorem setRed_pending (s : State) (h r : Nat) (f : Red → Red) : (s.setRed h r f).pending = s.pending := rfl

/-! ## What an update does change -/

@[simp] theorem settle_pending (s t : State) : (settle s t).pending = s.pending := rfl
@[simp] theorem settle_mem (s t : State) : (settle s t).mem = memCanon t.mem := rfl
@[simp] theorem settle_scratch (s t : State) : (settle s t).scratch = memCanon t.scratch := rfl
@[simp] theorem vector_vectors (s : State) (v : Nat) : (s.vector v).vectors = s.vectors ++ [v] := rfl
theorem setBits_eq (s : State) (b : Nat) (r : Reg) (m : Nat) : s.setBits b r m = s.setReg b r (s.reg b r ||| BitVec.ofNat 64 m) := rfl
theorem setField_eq (s : State) (b : Nat) (r : Reg) (lo w x : Nat) : s.setField b r lo w x = s.setReg b r (setFld (s.reg b r) lo w x) := rfl
theorem applyNow_eq (s : State) (b : Nat) (g : Group) : s.applyNow b g = (s.stage b g).force b g := rfl

end Sys2Proof.Machine
end

