-- ==== Sys2Proof/Laws/Commands.lean ====
section
/-! SUPPORT. What a command can answer: the three ways in which a meaning ends, and that every command ends in one of them. -/

namespace Sys2Proof.Machine

/-- A meaning ends in a settled state or at a unit that does not exist. -/
def Ends (s : State) (o : Host.Outcome State Fault Refusal) : Prop :=
  (∃ t, o = .next (settle s t)) ∨ ∃ what, o = .fault (.noSuchUnit what)

theorem done_next (s t : State) (h : s.power.rails = true) : done s t = .next (settle s t) := by
  simp [done, h]

theorem done_dark (s t : State) (h : s.power.rails = false) : done s t = .next (settle s s) := by
  simp [done, h]

theorem onUnit_next (what : String) (s t : State) (h : s.power.rails = true) : onUnit true what s t = .next (settle s t) :=
  done_next s t h

theorem onUnit_dark {ok : Bool} {what : String} {s t u : State} (h : s.power.rails = false) (hu : onUnit ok what s t = .next u) :
    u = settle s s := by
  unfold onUnit at hu
  split at hu
  · rw [done_dark s t h] at hu
    injection hu with hu
    exact hu.symm
  · cases hu

theorem done_ends (s t : State) : Ends s (done s t) := .inl ⟨_, rfl⟩

theorem always_ends (s t : State) : Ends s (always s t) := .inl ⟨_, rfl⟩

theorem onUnit_ends (ok : Bool) (what : String) (s t : State) : Ends s (onUnit ok what s t) := by
  unfold onUnit
  split
  · exact done_ends s t
  · exact .inr ⟨what, rfl⟩

/-- Every command but a private scan instruction ends in a settled state or at a unit that does not exist. -/
theorem exec_ends (c : Instr) (s : State) (h : ∀ n, c ≠ .privateScanInstruction n) : Ends s (exec c s) := by
  cases c
  case privateScanInstruction n => exact absurd rfl (h n)
  case wholeDieFault f =>
    cases f
    · exact onUnit_ends _ _ _ _
    · exact onUnit_ends _ _ _ _
    · exact done_ends _ _
  all_goals first
    | exact onUnit_ends _ _ _ _
    | exact done_ends _ _
    | exact always_ends _ _

/-- A private scan instruction ends in a settled state or is refused. -/
theorem privateScan_ends (n : Nat) (s : State) :
    (∃ t, exec (.privateScanInstruction n) s = .next (settle s t)) ∨ exec (.privateScanInstruction n) s = .refused (.privateScan n) := by
  show (∃ t, execPrivateScanInstruction n s = _) ∨ execPrivateScanInstruction n s = _
  unfold execPrivateScanInstruction
  split
  · exact .inr rfl
  · exact .inl ⟨_, rfl⟩

/-- A next state is a settled one. -/
theorem exec_settles {c : Instr} {s u : State} (h : exec c s = .next u) : ∃ t, u = settle s t := by
  by_cases hc : ∃ n, c = .privateScanInstruction n
  · obtain ⟨n, rfl⟩ := hc
    rcases privateScan_ends n s with ⟨t, ht⟩ | ht
    · exact ⟨t, by rw [ht] at h; injection h with h; exact h.symm⟩
    · rw [ht] at h; cases h
  · rcases exec_ends c s (fun n e => hc ⟨n, e⟩) with ⟨t, ht⟩ | ⟨w, ht⟩
    · exact ⟨t, by rw [ht] at h; injection h with h; exact h.symm⟩
    · rw [ht] at h; cases h

end Sys2Proof.Machine
end

