-- ==== Sys2Proof/Laws/Words.lean ====
section
/-! SUPPORT. How a Quento word whose effect goes through on every target runs (R110, R142): the lemmas through which the statements about
words are reached. -/

namespace Sys2Proof.Machine

/-- Targets whose effects all go through run without a skip. -/
theorem runEach_of_effectAll {body fill : Here → Act Unit} {hs : List Here} {s t : State} (h : effectAll body hs s = some t) :
    runEach body fill hs s = .ok t := by
  induction hs generalizing s with
  | nil =>
    simp only [effectAll, Option.some.injEq] at h
    simp [runEach, h]
  | cons x xs ih =>
    simp only [effectAll] at h
    split at h
    · rename_i u v hb
      simp only [runEach, runOne, hb]
      exact ih h
    · cases h

/-- An effect in place of another that agrees with it on every target. -/
theorem runEach_congr {body body' fill : Here → Act Unit} {hs : List Here} (h : ∀ x ∈ hs, body x = body' x) (s : State) :
    runEach body fill hs s = runEach body' fill hs s := by
  induction hs generalizing s with
  | nil => rfl
  | cons x xs ih =>
    have hx : runOne body fill x s = runOne body' fill x s := by simp only [runOne, h x (by simp)]
    simp only [runEach, hx, fun u => ih (fun y hy => h y (by simp [hy])) u]

/-- A word whose placing its class has, and whose native instruction names a present core of each target, runs on its targets. -/
theorem runTargets_of_placed {pl : Placing} {body fill : Here → Act Unit} {h : Here} {s t : State} (hp : placed pl h = true)
    (hu : (aims pl h).all (fun x => !s.fusedOut x) = true) (he : effectAll body (aims pl h) s = some t) :
    runTargets pl body fill h s = .ok t := by
  have hb : ∀ x ∈ aims pl h, (if s.fusedOut x = true then skip cFused 0 else body x) = body x := by
    intro x hx
    have := List.all_eq_true.mp hu x hx
    simp_all
  have hr := (runEach_congr (fill := fill) hb s).trans (runEach_of_effectAll he)
  simp only [placed, Bool.and_eq_true, beq_iff_eq] at hp
  obtain ⟨h0, hpl⟩ := hp
  cases pl <;> simp_all [runTargets, aims]

/-- A word that is ready has its effect and leaves the scoreboard. -/
theorem runWord_of_ready {is : Word128 → Bool} {pl : Placing} {body fill : Here → Act Unit} {c i : Nat} {s t : State}
    (h : Ready is pl body c i s t) : runWord is pl body fill c i s = t.finish c i := by
  obtain ⟨_, _, hf, r, hr, hp, hu, he⟩ := h
  simp [runWord, hr, hf, runTargets_of_placed hp hu he]

/-- The meaning of a ready word on an existing cluster. -/
theorem word_answers {is : Word128 → Bool} {pl : Placing} {body fill : Here → Act Unit} {c i : Nat} {s t : State}
    (h : Ready is pl body c i s t) :
    onUnit (clusterOk c) "cluster" s (runWord is pl body fill c i s) = .next (settle s (t.finish c i)) := by
  have hc : clusterOk c = true := by simpa [clusterOk] using h.2.1
  rw [runWord_of_ready h, hc]
  exact onUnit_next _ _ _ h.1

/-- The meaning of a ready media word on an existing cluster. -/
theorem media_answers {is : Word128 → Bool} {body fill : Here → Act Unit} {c i : Nat} {s t : State} (h : Ready is .once body c i s t) :
    onUnit (clusterOk c) "cluster" s (runMedia is body fill c i s) = .next (settle s (t.finish c i)) := by
  have hc : clusterOk c = true := by simpa [clusterOk] using h.2.1
  obtain ⟨hrails, _, hf, r, hr, hp, hu, he⟩ := h
  rw [hc, onUnit_next _ _ _ hrails]
  simp [runMedia, hr, hf, runTargets_of_placed hp hu he]

end Sys2Proof.Machine
end

