-- ==== Sys2Proof/Tests/Slice0.lean ====
section
/-! SUPPORT. The model's own tests: what WellFormed refuses, the quill answers of the spec, and for each statement with hypotheses states and
operands that meet them. -/

open Sys2Proof Sys2Proof.Machine

namespace Sys2Proof.Tests

set_option Elab.async false

/-! ## Small programs and states -/

/-- Fields, each given as width and value, packed from bit 0. -/
def pack (l : List (Nat × Nat)) : Nat := (l.foldl (fun (x : Nat × Nat) e => (x.1 + e.2 % 2 ^ e.1 * 2 ^ x.2, x.2 + e.1)) (0, 0)).1

/-- An instruction word (R141). -/
def word (op form a b c mod lc imm : Nat) : Bytes :=
  leBytes 16 (pack [(10, op), (4, form), (16, a), (16, b), (16, c), (16, mod), (16, lc), (34, imm)])

/-- A dense TENSOR of a format and access at an address, its identifier 1 (R134). -/
def ten (fmt acc base : Nat) (dims : List Nat) : Bytes :=
  let steps := (List.range dims.length).map (fun k => volume ((dims.take k).map (max 1)))
  sub (leBytes 1 1 ++ leBytes 1 fmt ++ leBytes 1 dims.length ++ leBytes 1 acc ++ leBytes 4 1 ++ leBytes 8 base
    ++ sub (dims.flatMap (leBytes 4)) 0 24 ++ sub (steps.flatMap (leBytes 4)) 0 24 ++ leBytes 8 0 ++ leBytes 4 0 ++ leBytes 1 0 ++ leBytes 1 0xFF) 0 128

/-- A REGION of `rows` rows of `cols` elements at a scratchpad offset (R136). -/
def area (acc fmt base rows cols pitch : Nat) : Bytes :=
  sub (leBytes 1 2 ++ leBytes 1 acc ++ leBytes 1 fmt ++ leBytes 1 0 ++ leBytes 4 base ++ leBytes 4 (rows * pitch) ++ leBytes 4 rows ++ leBytes 4 cols
    ++ leBytes 4 pitch ++ leBytes 4 1) 0 128

/-- A program of one command over one logical cluster of 16 cores (R132, R139). -/
def prog (descs words : List Bytes) (consts : Bytes) (outs : List Nat) : Bytes :=
  let oc := 64 + 128 * descs.length
  let oi := oc + 64
  let ok := oi + 16 * words.length
  let list := outs.flatMap (leBytes 2)
  let pool := consts ++ list
  sub (leBytes 4 0 ++ leBytes 2 1 ++ leBytes 2 1 ++ leBytes 4 (ok + pool.length) ++ leBytes 4 64 ++ leBytes 4 descs.length ++ leBytes 4 oc
      ++ leBytes 4 1 ++ leBytes 4 oi ++ leBytes 4 words.length ++ leBytes 4 ok ++ leBytes 4 pool.length ++ leBytes 2 1 ++ leBytes 1 16) 0 64
    ++ descs.flatten
    ++ sub (leBytes 4 0 ++ leBytes 4 words.length ++ leBytes 2 0 ++ leBytes 1 1 ++ leBytes 1 0 ++ leBytes 2 0xFFFF ++ leBytes 2 0xFFFF
      ++ leBytes 4 consts.length ++ leBytes 1 outs.length) 0 64
    ++ words.flatten ++ pool

/-- Page 8 of space 0 is partition 0's, and a program that runs on cluster 0 with every word in flight. -/
def state (p : Bytes) (n : Nat) (mem : List (Nat × Bytes)) : State :=
  { State.reset with
    mem := mem.foldl (fun m x => memWrite m x.1 x.2) (memWrite [] 16 [0x30#8, 0x80#8])
    programs := [{ uid := 1, ctx := 0, handle := 0#32, image := p, mapBase := 0#64, mapBytes := 0, mapVer := 0, replaced := false,
                   place := [[0]], pages := [] }]
    runs := [{ Run.blank with prog := 1, clusters := [0], issued := (List.range n).map (fun i => { index := i, regions := [] }) }] }

/-- A free address: page 8. -/
def base : Nat := 0x1000000

/-- Whether `Ready` holds of a word for some next state. -/
def ready (is : Word128 → Bool) (pl : Placing) (body : Here → Act Unit) (i : Nat) (s : State) : Bool :=
  s.power.rails && s.inFlight is 0 i &&
    match s.runOf 0 with
    | some r => placed pl (s.hereAt r i) && (effectAll body (aims pl (s.hereAt r i)) s).isSome
    | none => false

/-! ## Words -/

/-- No operand. -/
def no : Nat := 0xFFFF

/-- A word over FP16 or other tensors of 4 elements: two inputs and an output. -/
def three (op form fa fb fo mod imm : Nat) : State :=
  state (prog [ten fa 1 base [4], ten fb 1 (base + 64) [4], ten fo 6 (base + 128) [4]] [word op form 0 1 2 mod 0 imm] [] [2]) 1
    [(base, [1#8, 0x3C#8])]

/-- One input and an output in slot C. -/
def two (op form fa fo mod imm : Nat) : State :=
  state (prog [ten fa 1 base [4], ten fo 6 (base + 128) [4]] [word op form 0 no 1 mod 0 imm] [] [1]) 1 [(base, [1#8, 0x3C#8])]

theorem witness_move : ready (fun w => w.op == 0x000 && (w.form == 0 || decide (3 ≤ w.form)) && decide (w.mod % 4 < 2)) .either moveCopy 0
    (state (prog [ten 0 1 base [4], ten 0 6 (base + 64) [4]] [word 0 0 0 1 no 1 0 0] [] [1]) 1 [(base, [1#8, 2#8])]) = true := by
  decide +kernel

theorem witness_move_multicast : ready (fun w => w.op == 0x000 && w.form == 1 && decide (w.mod % 4 < 2)) .either moveCast 0
    (state (prog [ten 0 1 base [4], area 2 0 0 1 4 32] [word 0 1 0 1 no 0 0 0] [] []) 1 []) = true := by decide +kernel

theorem witness_move_fill : ready (fun w => w.op == 0x000 && w.form == 2) .either moveFill 0
    (state (prog [ten 0 6 base [4]] [word 0 2 no 0 no 0 0 0xFFFFFFFF] [] [0]) 1 []) = true := by decide +kernel

theorem witness_rand : ready (fun w => w.op == 0x280) .either doRand 0
    (state (prog [ten 5 6 base [2], sub (leBytes 1 4) 0 128] [word 0x280 0 0 1 no 0 0 0] [] [0]) 1 []) = true := by decide +kernel

theorem witness_matmul : ready (fun w => w.op == 0x040) .either doMatmul 0
    (state (prog [ten 0 1 base [2, 2], ten 0 1 (base + 64) [2, 2]] [word 0x040 0 0 1 no 0 0 0] [] []) 1 [(base, [1#8, 0x3C#8])]) = true := by
  decide +kernel

theorem witness_vec_binary : ready (fun w => w.op == 0x180) .either doVecBinary 0 (three 0x180 5 0 0 0 0 0) = true := by decide +kernel
theorem witness_vec_fma : ready (fun w => w.op == 0x181) .either doVecFma 0 (three 0x181 0 1 1 1 0 0) = true := by decide +kernel
theorem witness_vec_unary : ready (fun w => w.op == 0x182) .either doVecUnary 0 (two 0x182 14 0 0 0 0) = true := by decide +kernel
theorem witness_vec_reduce : ready (fun w => w.op == 0x183) .either doVecReduce 0
    (state (prog [ten 0 1 base [4], ten 0 6 (base + 128) []] [word 0x183 0 0 no 1 0 0 0] [] [1]) 1 [(base, [1#8, 0x3C#8])]) = true := by
  decide +kernel
theorem witness_vec_convert : ready (fun w => w.op == 0x184) .either doVecConvert 0 (two 0x184 0 0 1 0 0) = true := by decide +kernel
theorem witness_vec_imac : ready (fun w => w.op == 0x185) .either doVecImac 0
    (state (prog [ten 4 1 base [4, 2], ten 4 1 (base + 64) [4], ten 5 6 (base + 128) [2]] [word 0x185 0 0 1 2 0 0 0] [] [2]) 1
      [(base, [1#8])]) = true := by decide +kernel
theorem witness_vec_narrow : ready (fun w => w.op == 0x186) .either doVecNarrow 0 (two 0x186 1 5 4 31 0) = true := by decide +kernel
theorem witness_vec_compare : ready (fun w => w.op == 0x187) .either doVecCompare 0 (three 0x187 3 0 0 6 0 0) = true := by decide +kernel

/-- A geometry record with stride 1 and no padding (R195); KH and KW 2 where a window is given. -/
def geo (win factor : Nat) : Bytes :=
  sub (leBytes 1 1 ++ leBytes 1 1 ++ leBytes 1 factor ++ leBytes 9 0 ++ leBytes 1 win ++ leBytes 1 win) 0 32

/-- A convolution in NCHW of a 4 × 4 map of 4 channels by 4 filters of `k` × `k`. -/
def conv (op k factor : Nat) : State :=
  state (prog [ten 0 1 base [4, 4, 4, 1], ten 0 1 (base + 256) [4, k, k, 4]] [word op 0 0 1 no 0 0 0] (geo 0 factor) []) 1 []

theorem witness_conv_direct : ready (fun w => w.op == 0x080) .either (convDone (doConv false false)) 0 (conv 0x080 1 0) = true := by decide +kernel
theorem witness_conv_min2 : ready (fun w => w.op == 0x081) .either (convDone (doMin false)) 0 (conv 0x081 3 0) = true := by decide +kernel
theorem witness_conv_min4 : ready (fun w => w.op == 0x082) .either (convDone (doMin true)) 0 (conv 0x082 3 0) = true := by decide +kernel
theorem witness_conv_s2c : ready (fun w => w.op == 0x083) .either (convDone (doConv true false)) 0
    (state (prog [ten 0 1 base [4, 4, 1, 1]] [word 0x083 0 0 no no 0 0 0] (geo 0 2) []) 1 []) = true := by decide +kernel
theorem witness_conv_c2s : ready (fun w => w.op == 0x084) .either (convDone (doConv false true)) 0 (conv 0x084 1 2) = true := by decide +kernel

/-- A pooling word over 2 × 2 windows. -/
def pool (op : Nat) (descs : List Bytes) (b c : Nat) : State :=
  state (prog descs [word op 0 0 b c 0 0 0] (geo 2 0) [2]) 1 []

theorem witness_pool_max : ready (fun w => w.op == 0x0C0) .either doPoolMax 0
    (pool 0x0C0 [ten 0 1 base [2, 2, 1, 1], ten 0 1 base [], ten 0 6 (base + 64) [1, 1, 1, 1]] no 2) = true := by decide +kernel
theorem witness_pool_avg : ready (fun w => w.op == 0x0C1) .either doPoolAvg 0
    (pool 0x0C1 [ten 0 1 base [2, 2, 1, 1], ten 0 1 base [], ten 0 6 (base + 64) [1, 1, 1, 1]] no 2) = true := by decide +kernel
theorem witness_pool_max_bwd : ready (fun w => w.op == 0x0C2) .either doPoolMaxBwd 0
    (state (prog [ten 0 1 base [1, 1, 1, 1], ten 6 1 (base + 32) [1, 1, 1, 1], ten 0 6 (base + 64) [2, 2, 1, 1]]
      [word 0x0C2 0 0 1 2 0 0 0] (patch (geo 2 0) 16 (leBytes 4 2 ++ leBytes 4 2)) [2]) 1 []) = true := by decide +kernel
theorem witness_pool_avg_bwd : ready (fun w => w.op == 0x0C3) .either doPoolAvgBwd 0
    (state (prog [ten 0 1 base [1, 1, 1, 1], ten 6 1 (base + 32) [1, 1, 1, 1], ten 0 6 (base + 64) [2, 2, 1, 1]]
      [word 0x0C3 0 0 no 2 0 0 0] (patch (geo 2 0) 16 (leBytes 4 2 ++ leBytes 4 2)) [2]) 1 []) = true := by decide +kernel

/-- The state with its running command changed. -/
def running (s : State) (f : Run → Run) : State := s.setRun 0 f

theorem witness_drain : ready (fun w => w.op == 0x1C0) .either doDrain 0
    (running (state (prog [ten 0 6 base [1]] [word 0x1C0 0 0 no no 0 0 0] [] [0]) 1 [])
      (fun r => { r with products := [{ Product.blank with shape := [1], words := [Exa.cleared 0], sc := [0], tags := [0] }] })) = true := by
  decide +kernel

/-- What the first word of a state with faults leads to on its only target. -/
def met (f : Struck) (body : Here → Act Unit) (s : State) (p : State → Run → Bool) : Bool :=
  let s := running s (fun r => { r with struck := f })
  match s.runOf 0 with
  | none => false
  | some r => match body (s.hereAt r 0) s with
    | .ok (_, t) => (t.runOf 0).any (p t)
    | .error _ => false

/-- An accumulator word that fails its parity tags its granule and names its core (R398). -/
theorem test_accumulator_parity : met { Struck.none with acc := [(0, 0, 3)] } doDrain
    (running (state (prog [ten 0 6 base [1]] [word 0x1C0 0 0 no no 0 0 0] [] [0]) 1 [])
      (fun r => { r with products := [{ Product.blank with shape := [1], words := [Exa.cleared 0], sc := [0], tags := [0] }] }))
    (fun _ r => r.blotCores == [3] && kvGet r.outTags (base / 32) == some 1#2) = true := by decide +kernel

/-- A line that last-level memory cannot correct is poisoned and its reader's output tagged (R318). -/
theorem test_last_level_line : met { Struck.none with llm := [base / 64] } moveCopy
    { state (prog [ten 0 1 base [4], ten 0 6 (base + 64) [4]] [word 0 0 0 1 no 0 0 0] [] [1]) 1 [(base, [1#8, 2#8])] with
      llms := List.replicate 2 { cache := true, switching := none, off := false, lines := [] } }
    (fun t r => t.poison == [base / 64] && kvGet r.outTags (base / 32 + 2) == some 1#2 && (t.reg (dieAt 8) .llmStatus).getLsbD 3) = true := by
  decide +kernel

/-- A PAGE_TABLE of D = 64 and one head, its root at `base`, and a root word without an entry array in use. -/
def table (batch : Nat) : Bytes :=
  sub (leBytes 1 3 ++ leBytes 1 6 ++ leBytes 1 1 ++ leBytes 1 1 ++ leBytes 1 0 ++ leBytes 1 0 ++ leBytes 2 1 ++ leBytes 2 0 ++ leBytes 2 no
    ++ leBytes 2 no ++ leBytes 2 batch ++ leBytes 8 base ++ leBytes 4 0 ++ leBytes 4 0 ++ leBytes 4 0 ++ leBytes 4 0x3F800000
    ++ leBytes 4 0x3F800000 ++ leBytes 1 255 ++ leBytes 1 255 ++ leBytes 1 255) 0 128
def rootWord : Nat × Bytes := (base, leBytes 8 (2 ^ 63 + 0x1001 * 2 ^ 16))

theorem witness_attend_fwd : ready (fun w => w.op == 0x100) .either doAttendFwd 0
    (state (prog [ten 0 1 (base + 64) [64, 1, 1], table no, ten 0 6 (base + 256) [64, 1, 1]] [word 0x100 0 0 1 2 no 0 0] [] [2]) 1 [rootWord])
      = true := by decide +kernel
theorem witness_attend_bwd : ready (fun w => w.op == 0x101) .either doAttendBwd 0
    (state (prog [ten 0 1 (base + 64) [64, 1, 1], table no, ten 0 6 (base + 256) [64, 1, 1], ten 1 1 (base + 512) [2, 1, 1],
      ten 0 6 (base + 768) [64, 1, 0, 2]] [word 0x101 0 0 1 2 0 0 (3 + 4 * 2 ^ 16)] [] [2, 4]) 1 [rootWord]) = true := by decide +kernel
theorem witness_attend_mixed : ready (fun w => w.op == 0x102) .either doAttendMixed 0
    (state (prog [ten 0 1 (base + 64) [64, 1, 1], table 3, ten 0 6 (base + 256) [64, 1, 1], ten 6 1 (base + 512) [32]]
      [word 0x102 0 0 1 2 no 0 0] [] [2]) 1
      [rootWord, (base + 512, leBytes 8 base ++ leBytes 4 0 ++ leBytes 4 0 ++ leBytes 4 0 ++ leBytes 4 1)]) = true := by decide +kernel
theorem witness_scatter_kv : ready (fun w => w.op == 0x140) .either doScatter 0
    (state (prog [ten 0 1 (base + 64) [64, 1, 1], sub (leBytes 1 9 ++ leBytes 1 0 ++ leBytes 2 0xFFFF ++ leBytes 4 1) 0 128, table no]
      [word 0x140 0 0 1 2 0 0 0] [] [2]) 1 [rootWord, (base + 0x1000, leBytes 8 (1 + 0x801 * 2 ^ 24))]) = true := by decide +kernel

theorem witness_sync : ready (fun w => w.op == 0x2C0) .once doSync 0
    { state (prog [] [word 0x2C0 0 no no no 0 0 0] [] []) 1 [] with ctxs := [{ Ctx.reset with queues := [parseQueue [1#8]] }] }
      = true := by decide +kernel

/-- A chain of two stages with a hand-over region of one slot. -/
def chain : State :=
  state (prog [patch (area 3 0 0 1 4 32) 3 [1#8]] [word 0x300 0 no no no 0 0 2, word 0x301 0 no 0 no 0 0 0, word 0x301 0 0 no no 0 0 1,
    word 0x302 0 no no no 0 0 0] [] []) 4 []
def chained (i : Nat) : State :=
  running chain (fun r => { r with next := i + 1, issued := [⟨i, []⟩], lastStage := i - 2, chain := some ⟨0, 2, 0, [{ desc := 0, full := [i == 3], prod := 0, cons := 0 }]⟩ })

theorem witness_chain_begin : ready (fun w => w.op == 0x300) .once doChainBegin 0 chain = true := by decide +kernel
theorem witness_chain_stage : ready (fun w => w.op == 0x301) .once doChainStage 2 (chained 2) = true := by decide +kernel
theorem witness_chain_end : ready (fun w => w.op == 0x302) .once doChainEnd 3 (chained 3) = true := by decide +kernel

def stat (op : Nat) : State := state (prog [area 2 0 0 1 4 32] [word op 0 0 no no 0 1 0] [] []) 1 []
theorem witness_stat_time : ready (fun w => w.op == 0x380) .either doStatTime 0 (stat 0x380) = true := by decide +kernel
theorem witness_stat_step : ready (fun w => w.op == 0x381) .either doStatStep 0 (stat 0x381) = true := by decide +kernel
theorem witness_stat_cores : ready (fun w => w.op == 0x382) .either doStatCores 0 (stat 0x382) = true := by decide +kernel

/-- A REDUCTION of hub die 8 in this package, window 0 by argument 0, with a send buffer of 2 KiB. -/
def reduction : Bytes :=
  sub (leBytes 1 7 ++ leBytes 1 0 ++ leBytes 1 0 ++ leBytes 1 1 ++ leBytes 2 0 ++ leBytes 2 0 ++ leBytes 2 0 ++ leBytes 1 0 ++ leBytes 1 255
    ++ leBytes 1 255 ++ leBytes 1 255 ++ leBytes 1 0 ++ leBytes 1 0 ++ leBytes 8 0 ++ leBytes 4 1 ++ leBytes 4 0 ++ leBytes 8 (base + 4096)
    ++ leBytes 4 2048) 0 128
/-- Reduction 0 of hub 8 with a closed window 0 and its statistics. -/
def closed : Red := { (State.reset.redAt 8 0) with st := .closed, size := 8#64, record := some (0#32, List.replicate 64 0#8) }

theorem witness_reduce_send : ready (fun w => w.op == 0x200) .either doReduceSend 0
    (state (prog [ten 0 1 base [4], reduction] [word 0x200 0 0 1 no 0 0 0] [] [1]) 1 []) = true := by decide +kernel
theorem witness_reduce_read : ready (fun w => w.op == 0x201) .either doReduceRead 0
    { state (prog [ten 0 6 base [4], reduction] [word 0x201 0 0 1 no 0 0 0] [] [0]) 1 [] with reds := [closed] } = true := by decide +kernel
theorem witness_reduce_stats : ready (fun w => w.op == 0x202) .either doReduceStats 0
    { state (prog [ten 6 6 base [64], reduction] [word 0x202 0 0 1 no 0 0 0] [] [0]) 1 [] with reds := [closed] } = true := by decide +kernel

/-- A STREAM that names nothing yet, with bytes put in. -/
def stream (kind : Nat) (l : List (Nat × Bytes)) : Bytes := l.foldl (fun b x => patch b x.1 x.2) (sub (leBytes 1 5 ++ leBytes 1 kind) 0 128)

theorem witness_media_encode : ready (fun w => w.op == 0x241) .once doEncode 0
    (state (prog [stream 1 [(2, [1#8, 8#8, 16#8, 0#8, 16#8]), (16, leBytes 8 base), (24, leBytes 8 (base + 0x1000)), (32, leBytes 8 64),
        (40, leBytes 8 (base + 0x2000)), (48, leBytes 4 4), (52, leBytes 8 0x1000000), (60, leBytes 4 10240), (64, leBytes 2 4)],
        ten 6 1 (base + 0x3000) [64, 0], ten 6 6 base [64], ten 6 6 (base + 0x1000) [64], ten 6 6 (base + 0x2000) [64]]
      [word 0x241 0 0 1 no 0 0 0] [] [0, 2, 3, 4]) 1 []) = true := by decide +kernel
theorem witness_media_pyramid : ready (fun w => w.op == 0x242) .once doPyramid 0
    (state (prog [ten 6 1 base [64, 1], ten 6 6 (base + 0x1000) [64, 1]] [word 0x242 0 0 1 no 0 0 1] [] [1]) 1 []) = true := by decide +kernel
/-- A crop of a slot without a picture by a record. -/
def crop (op imm : Nat) (r : Bytes) : State :=
  state (prog [ten 6 1 base [64, 1], ten 6 6 (base + 0x1000) [1, 1, 1, 1]] [word op 0 0 1 no 0 0 imm] r [1]) 1 []
def legacy (op imm : Nat) : State := crop op imm (leBytes 4 0 ++ leBytes 2 1 ++ leBytes 2 1 ++ leBytes 2 1 ++ leBytes 2 1 ++ leBytes 4 0)

theorem witness_media_crop : ready (fun w => w.op == 0x243) .once doCrop 0
    (crop 0x243 0 (sub (leBytes 2 0 ++ leBytes 4 255 ++ leBytes 2 1 ++ leBytes 2 1) 0 32)) = true := by decide +kernel
theorem witness_media_pack : ready (fun w => w.op == 0x244) .once doPack 0
    (state (prog [stream 2 [(3, leBytes 1 255), (4, leBytes 4 1), (12, leBytes 2 1), (16, leBytes 8 base), (28, leBytes 2 2 ++ leBytes 2 3
        ++ leBytes 2 4 ++ leBytes 2 5)], ten 0 6 (base + 0x1000) [1, 1, 0], ten 7 6 (base + 0x2000) [1, 0], ten 5 6 (base + 0x3000) [1, 0],
        ten 6 6 (base + 0x4000) [0], ten 6 6 (base + 0x5000) [16]] [word 0x244 0 0 1 no 0 0 0] [] [1, 2, 3, 4, 5]) 1 []) = true := by
  decide +kernel
theorem witness_legacy_crop : ready (fun w => w.op == 0x250) .once doLegacyCrop 0 (legacy 0x250 0) = true := by decide +kernel
theorem witness_legacy_resize : ready (fun w => w.op == 0x251) .once doLegacyResize 0 (legacy 0x251 0) = true := by decide +kernel
theorem witness_legacy_flip : ready (fun w => w.op == 0x252) .once doLegacyFlip 0 (legacy 0x252 0) = true := by decide +kernel
theorem witness_legacy_rotate : ready (fun w => w.op == 0x253) .once doLegacyRotate 0 (legacy 0x253 3) = true := by decide +kernel


/-! ## Hypotheses of the statements, clause by clause -/

/-- Whether every check of a list holds. -/
def every (l : List Bool) : Bool := l.all id

/-- Whether an effect goes through. -/
def goes {α : Type} (m : Act α) (s : State) : Bool := match m s with | .ok _ => true | .error _ => false

/-- A check of the running command of cluster 0 and of the place of its word `i`. -/
def atWord (s : State) (i : Nat) (f : Run → Here → Bool) : Bool := match s.runOf 0 with | some r => f r (s.hereAt r i) | none => false

/-- A check of what an option holds. -/
def given {α : Type} (o : Option α) (f : α → Bool) : Bool := match o with | some x => f x | none => false

/-- A MEDIA.DECODE of one sample of a codec with its use, its streams and engines. -/
def decode (codec : Nat) (use : List MedUse) (streams : List Stream) (busy : List MedBusy) : State :=
  let s := state (prog [stream 0 [(2, [255#8, 1#8, 1#8]), (8, leBytes 8 (base + 0x1000)), (16, leBytes 8 base), (38, leBytes 2 no ++ leBytes 2 1
      ++ leBytes 2 1 ++ leBytes 4 64 ++ leBytes 8 base), (60, leBytes 2 2)], ten 6 6 (base + 0x2000) [64, 1], ten 6 6 (base + 0x3000) [64]]
    [word 0x240 0 0 1 no 0 0 0] [] [1, 2]) 1 [(base + 0x1026, [1#8, 0#8, BitVec.ofNat 8 codec])]
  { running s (fun r => { r with media := use }) with streams := streams, medBusy := busy }
def use (reports : List (Nat × Bytes)) : MedUse := { index := 0, next := 0, reports := reports }
def opened (codec : Nat) : Stream := ⟨8, 0, 0, 0, 0, 0, 0, 0, 1, sub [] 0 38 ++ [1#8, 0#8, BitVec.ofNat 8 codec] ++ sub [] 0 23, 0, 0, 0, 0, 0, []⟩
def busy : MedBusy := ⟨8, 6, 0, some 0, 0⟩

/-- A LEASE word on a shard of another package, its ticket at `base`. -/
def lease (op form : Nat) (use : List LeaseUse) : State :=
  running (state (prog [sub (leBytes 1 8 ++ leBytes 1 255 ++ leBytes 2 0 ++ leBytes 4 64 ++ leBytes 8 (2 ^ 51) ++ leBytes 8 base) 0 128]
    [word op form 0 no no 0 0 0] [] [0]) 1 []) (fun r => { r with leases := use })
def held (op : LeaseOp) : LeaseUse := ⟨0, 0, op, 0, BitVec.ofNat 64 (2 ^ 51), 64, 0, BitVec.ofNat 64 base, .held, 0#64, 0, 0#64, 0#64⟩
def begins (s : State) (f : LeaseUse → Bool) : Bool :=
  atWord s 0 (fun r h => (r.leases.find? (fun u => u.index == 0)).isNone &&
    match leaseBegin h s with | .ok (some (u, _), _) => f u | _ => false)
def ends (s : State) : Bool :=
  atWord s 0 (fun r h => given (r.leases.find? (fun u => u.index == 0)) (fun u => u.phase != .asked &&
    goes (writeKeys h (((range' (memKey (gSpace u.ticket) (gOff u.ticket)) 32).zip (ticketBytes u)).map (fun x => (x.1, x.2.toNat, 0)))) s))

/-- A pinned convolution or pooling over two cores with one halo row. -/
def halo (op : Nat) : State :=
  state (prog [area 3 0 0 3 4 32, ten 0 1 base [1, 1, 1, 1]] [word op 0 0 (if op / 64 = 2 then 1 else no) no 0 3 0]
    (patch (geo (if op / 64 = 2 then 0 else 3) 0) 14 [1#8]) []) 1 []
def halved (op : Nat) : Bool :=
  (halo op).inFlight (fun w => (w.op / 64 == 2 || w.op / 64 == 3) && w.lc != 0) 0 0
    && atWord (halo op) 0 (fun r h => !haloBusy r h.prog h.cmd 0 && !r.halos.any (fun f => f.core == 1 && f.full)
      && goes (haloInto h 1) (halo op) && goes (haloInto h 0) (halo op))
/-- A program of one word of an opcode, of which `n` words have issued and completed. -/
def issuing (op n : Nat) : State :=
  running (state (prog [ten 0 6 base [4]] [word op 2 no 0 no 0 0 0] [] [0]) 0 []) (fun r => { r with next := n })
/-- The same where the code of the word cannot be corrected. -/
def unsound (op : Nat) : State := running (issuing op 0) (fun r => { r with struck := { Struck.none with code := [0] } })
def frees (s : State) (o : Option Nat) : Bool :=
  atWord s 0 (fun r h => r.failed.isNone && !r.sending && r.firstFree h.prog h.cmd 0 (r.unissued h.cmd) == o)

def beat (v : Option (List (BitVec 32))) : Beat := ⟨.fp16, v, v, List.replicate 32 0, List.replicate 32 0, none, false, none⟩
def ones : Option (List (BitVec 32)) := some (List.replicate 32 1#32)
/-- A quad's beat. -/
def square : Beat := { beat ones with quad := some ⟨ones, ones, List.replicate 32 0, List.replicate 32 0⟩ }
def engine (last freeA freeB : Bool) : State :=
  { State.reset with engines := [⟨0, [], [], false, freeA, freeB, 0, last, [], false⟩] }

/-- Time: 2^40 ticks, and the junction and supply. -/
def hot (t mv : Nat) : State :=
  { State.reset with plumb := { State.reset.plumb with now := 0x10000000000#64 }, power := { Power.reset with junction := [t], supply := mv } }

/-- A register in force. -/
def inForce (s : State) (b : Nat) (r : Reg) (v : Nat) : State := { s with live := kvSet s.live (regKey b r) (BitVec.ofNat 64 v) }

/-- Context 0 running with one entry in queue 0, its program on cluster 0, under a schedule. -/
def entered (sched : Nat) (e : Bytes) : State :=
  inForce { state (prog [ten 0 6 base [4]] [word 0 2 no 0 no 0 0 0] [] [0]) 0 [(base, e)] with
    runs := [], ctxs := [{ Ctx.reset with st := .running, queues := [{ parseQueue ([1#8] ++ sub [] 0 7 ++ leBytes 8 base) with tailSeen := 1#32 }] }] }
    (cluAt 0) .keySched sched
def runsNext (o : Option (Nat × Nat × Queue × QEntry × Begin)) : Bool := given o (fun y => match y.2.2.2.2 with | .run _ => true | _ => false)

/-- A command with its run changed; its program names a staging area at page 8. -/
def command (f : Run → Run) : State :=
  running (state (patch (prog [ten 0 6 base [4], sub (leBytes 1 10 ++ leBytes 7 0 ++ leBytes 8 base ++ leBytes 8 1024) 0 128] [word 0 2 no 0 no 0 0 0] [] [0])
    48 [1#8]) 0 []) f
def ended (f : Run → Run) : State := command (fun r => f { r with next := 1 })
def theRun (s : State) (f : Run → Bool) : Bool := match s.runOf 0 with | some r => f r | none => false

/-- The context table at page 8 with a request for context 0, which stands in a state. -/
def asks (req : Nat) (st : CtxSt) : State :=
  inForce { State.reset with mem := memWrite (memWrite [] 16 [0x30#8, 0x80#8]) base [BitVec.ofNat 8 req], ctxs := [{ Ctx.reset with st := st, loadTail := BitVec.ofNat 64 base }],
                             sec := { Sec.reset with watching := true } } (cluAt 0) .keyCtxTable (8 * 2 ^ 21)
def keyed (f : Keystone → Keystone) : State := State.reset.setKeystone 63 f
def debugging : State := { State.reset with sec := { Sec.reset with debug := true, scope := 7#3 } }

/-- A port of a package under way: authenticated with package 9, with all lanes. -/
def up (n : Nat) (s : State) : State :=
  { s.setPort n (fun p => { p with st := .up, active := 255#8, peer := some 9 }) with sec := { s.sec with watching := true } }

/-- A follower of port 3 at 2^40 ticks. -/
def follower (st : PlumbSt) (sent : Option (BitVec 64)) (port : Nat) : State :=
  inForce (up 3 { State.reset with plumb := { State.reset.plumb with now := 0x10000000000#64, st := st, sent := sent } }) (dieAt 8) .plbCfg (2 * port)

/-- A capture under way at time 2, the package at time `t`. -/
def capturing (st : CapSt) (t : Nat) (ls : List Latch) : State :=
  { State.reset with plumb := { State.reset.plumb with now := BitVec.ofNat 64 t }, capture := { State.reset.capture with st := st, t := 2#64, latches := ls } }
def unit : UnitId := ⟨3, 8, 0⟩

/-- Memory, regulator, mortar permits: job 5 of package 9 may send and be received. -/
def permitted : State := inForce (up 3 State.reset) (dieAt 8) (.morPermit 0) (7 + 5 * 2 ^ 16 + 9 * 2 ^ 32 + 9 * 2 ^ 48)
def chunk (origin : Nat) : AccPacket := ⟨5#16, 2#16, 0#32, 7#16, 0#8, 2#8, 0#32, 1#32, 4#16, BitVec.ofNat 16 origin, 0#40, []⟩
def red (st : RedSt) (cfg : Nat) : Red := ⟨8, 2, st, 0#32, 0#64, 0#64, BitVec.ofNat 64 cfg, 0#64, [7#16], Exa.cleared 0, 0, 0, none⟩
def reducing (st : RedSt) (cfg : Nat) : State := { permitted with reds := [red st cfg] }
def rcpt : Receipt := ⟨8, 5#16, 2, 0#32, 7#16, 9#16, 0, 1#64, 0#64, 1#32⟩
def onLocal (p : AccPacket) : State :=
  { inForce (reducing .opened (5 * 2 ^ 16)) (dieAt 8) (.morPermit 1) (7 + 5 * 2 ^ 16) with
    sentOut := [(localPort, ⟨0, 2, 0, 15, 32, 5#16, 0#40, .accumulate p⟩)] }

/-- A command that sends, with a packet sent at time 0. -/
def sender (retry : Option (BitVec 64)) : State :=
  { command (fun r => { r with sending := true }) with
    plumb := { State.reset.plumb with now := 0x10000000000#64 }, sends := [⟨1, 0, 9, 8, chunk 0, 0#64, 0#64, retry, true, none⟩] }

/-- A shard of hub die 8 for context 0 with WRITTEN_STEP 2, and a request of another package at step `n`. -/
def shard : Shard := ⟨8, 0, 0#64, 0x1000#64, 1#64 + 5#64 * 0x10000#64, 0#64, 4#64, 2, none⟩
def request (op : LeaseOp) (n : Nat) : LeaseReq := ⟨op, 9, 0, 5#16, 0#64, 64, n, 4#64, 2, 1⟩
def homed (op : LeaseOp) : State := { permitted with shards := [shard], waits := [⟨8, request op 3, 0#64⟩], plumb := { State.reset.plumb with now := 0x10000000000#64 } }

/-- The same entry for the fill slot, its program's command marked as one that may fill. -/
def filling : State :=
  { entered 0x4000 [] with programs := (entered 0x4000 []).programs.map (fun x => { x with image := patch x.image (64 + 128 + 11) [1#8] }) }

def frame (number : Nat) (intact tag : Bool) (flits : Nat) : Frame :=
  { number := BitVec.ofNat 64 number, tagOk := tag, ack := 0#64, again := none,
    flits := (List.range (flits + 1)).map (fun i =>
      { head := { lane := i % 8, fseq := BitVec.ofNat 16 (0xFFF8 + i), kind := if i = flits then 1#4 else if !intact && i == 3 then 7#4 else 0#4,
                  start := 0xFFF#12 }, ok := true, packets := [] }) }
/-- A port in a state with its session changed. -/
def port (st : PortSt) (f : Port → Port) : State :=
  { State.reset.setPort 29 (fun p => f { p with st := st, active := 15#8 }) with plumb := { State.reset.plumb with now := 0x10000000000#64 } }
def session (st : PortSt) (f : Session → Session) : State := port st (fun p => { p with session := f p.session })
def packet (b : Body) (dest length : Nat) : Packet := ⟨dest, 6, 9, 15, length, 0#16, 0#40, b⟩
def from9 : State := up 29 State.reset
def takes (b : Body) : Bool := (from9.port 29).carries && from9.carriesClass 29 (packet b 0 64).cls && (packet b 0 64).dest == from9.sec.pkg && headerOk (packet b 0 64)

/-- At 2^40 ticks, a command with a remote access of time 0. -/
def remote (u : RemoteUse) : State := { command id with plumb := { State.reset.plumb with now := 0x10000000000#64 }, remotes := [⟨1, u, 0#64, 8, 0#64⟩] }
def waiting : State := { remote (.command 0) with routeWait := [⟨9, packet .wake 9 16, 0#64⟩] }

/-- The host windows open, page 8 with a permission entry. -/
def hosted (e : Nat) : State := { State.reset with mem := memWrite [] 16 (leBytes 2 e), sec := { Sec.reset with watching := true } }
def asleep (m : Option PwrSt) : State := { hosted 0 with power := { Power.reset with st := .s2, moving := m } }
def mode (m : SecMode) (role : Nat) : State := { State.reset with sec := { Sec.reset with mode := m, role := role } }
def nonce : Bytes := List.replicate 32 7#8
def llm (f : Llm → Llm) : State := { State.reset with llms := modNth State.reset.llms 1 f }
def granting (v : Nat) : State := (State.reset.setReg (dieAt 8) .prtGrantPage (BitVec.ofNat 64 v)).setReg (dieAt 9) .prtGrantPage (BitVec.ofNat 64 v)
/-- A take of the command that waits for a port, old enough to be dropped. -/
def stranded : State :=
  { lease 0x200 0 [{ held .takeRead with phase := .asked }] with
    plumb := { State.reset.plumb with now := 0x10000000000#64 }
    routeWait := [⟨9, { packet (.leaseRequest { request .takeRead 3 with tag := 0 }) 9 48 with src := 0 }, 0#64⟩] }

/-- A key record at offset 0 (R426): its operation, for partition 1. -/
def keying (op : Nat) (debug : Bool) : State :=
  { State.reset with mem := memWrite [] 0 [0x48#8, 0x4B#8, 0x4B#8, 0x4C#8, BitVec.ofNat 8 op, 1#8], sec := { Sec.reset with debug := debug } }
def started (m : SecMode) : State := { State.reset with sec := { Sec.reset with booted := true, mode := m } }
def passed : DieTests := ⟨[17], [], true⟩
def powered (f : Power → Power) : State := { State.reset with power := f Power.reset, plumb := { State.reset.plumb with now := 0x10000000000#64 } }
def atS2 (m : Option PwrSt) : State :=
  (inForce (powered (fun p => { p with st := .s2, moving := m })) (dieAt 8) .pwrWakeEn 0x18).setReg (dieAt 8) .pwrWakeAt 1#64
def twin : State := { State.reset with fuses := { Fuses.reset with carrier := 1#2 }, plumb := { State.reset.plumb with now := 0x10000000000#64 } }
def resync : State :=
  { State.reset.setReg (dieAt 9) (.mirOutState 7) 3#64 with mirror := [⟨9, 7, 1, 0, none, some 1#64, true⟩] }
/-- Source 1023 of hub die 9: pending, enabled, of priority 2 for control core 3. -/
def source : State :=
  ((State.reset.setReg (dieAt 9) (.evtPriority 1023) 0x32#64).setReg (dieAt 9) (.evtPending 15) 0x8000000000000000#64).setReg (dieAt 9)
    (.evtEnable 15) 0x8000000000000000#64

/-! One theorem for each statement, named after it: a check for each clause. -/

theorem witness_decode_commands_run : every [
    (decode 3 [] [] []).inFlight (fun w => w.op == 0x240) 0 0,
    atWord (decode 3 [] [] []) 0 (fun r h => (r.decoding 0).isNone && placed .once h && goes (startDecode h) (decode 3 [] [] [])),
    atWord (decode 3 [use [(0, [])]] [] []) 0 (fun r h => given (r.decoding 0) (fun u => given (decOf h) (fun d => decide (d.samples ≤ u.reports.length)
      && goes (endDecode h u) (decode 3 [use [(0, [])]] [] [])))),
    atWord (decode 3 [use []] [] []) 0 (fun _ h => goes (openSample 0 h) (decode 3 [use []] [] [])),
    atWord (decode 3 [use []] [opened 3] [busy]) 0 (fun _ h => (decOf h).isSome) && (parseSample (opened 3).entry).isSome
      && ((decode 3 [use []] [opened 3] [busy]).medPick 8 6).map (·.number) == some 0,
    given (parseSample (opened 5).entry) (fun e => decide (5 ≤ e.codec)),
    ((decode 3 [use []] [] []).medPick 8 6).isNone] = true := by decide +kernel

theorem witness_lease_words_run : every [
    begins (lease 0x340 0 []) (fun u => u.op == .takeRead),
    begins (lease 0x340 1 []) (fun u => u.op == .takeCompare),
    begins (lease 0x340 2 []) (fun u => u.op == .takeWrite),
    begins (lease 0x341 0 []) (fun u => u.op == .release),
    begins (lease 0x342 0 []) (fun u => u.op == .check),
    ends (lease 0x340 0 [held .takeRead]),
    ends (lease 0x340 1 [held .takeCompare]) && ends (lease 0x340 2 [held .takeWrite]) && ends (lease 0x342 0 [held .check])] = true := by decide +kernel

theorem witness_issue_and_halo_run : every [
    frees (issuing 0 1) none,
    frees (issuing 0 0) (some 0) && knownOp 0,
    frees (issuing 0x3FF 0) (some 0) && !knownOp 0x3FF,
    frees (unsound 0) (some 0) && atWord (unsound 0) 0 (fun r _ => r.struck.code.contains 0),
    atWord (issuing 0 0) 0 (fun r h => r.issued == [] && r.chain == none && r.ahead == [] && decide (r.next < h.cmd.first + h.cmd.count)
      && regionsFit [] (regionsOf h.prog h.cmd h.w)),
    halved 0x080, halved 0x0C0] = true := by decide +kernel

theorem witness_engines_run : every [
    { engine false false true with power := { Power.reset with granted := [0] } }.engineUp 0 && beatReady (beat ones)
      && !((engine false false true).engine 0).lastIssued,
    !beatReady (beat none) && !(engine false false true).engineUp 4095 && ((engine true false true).engine 0).lastIssued,
    beatReady square && (List.range 4).all (fun i => { State.reset with power := { Power.reset with granted := [0, 1] } }.canBeat (4 * (3 / 4) + i)),
    beatReady square && !State.reset.canBeat (4 * (4095 / 4) + 3),
    ((engine true false true).engine 0).lastIssued && ((engine true false true).engine 0).shadowFree,
    [SetFill.cleared, .reloaded (List.replicate 1024 0#128)].all (fun f => (((engine true false false).engine 0).refill f).shadowFree)
      && (List.replicate 1024 0#128).length == 1024,
    !((engine true false false).engine 0).shadowFree && !(((engine true false false).engine 0).refill .drained).shadowFree] = true := by decide +kernel

theorem witness_beat_adds_the_outer_product : every [
    ({ Engine.cleared 0 with setA := List.replicate 1024 (Acc.start 0) }).active.length == 1024 && (beat ones).rowVec == ones
      && ((beat ones).rowVec.getD []).length == 32 && (beat ones).rowExp.length == 32] = true := by decide +kernel

theorem witness_governor_runs : every [
    ({ State.reset with power := { Power.reset with waiting := [0] } }).power.waiting.find? (fun u => u / 256 == 0) == some 0,
    ({ State.reset with engines := [{ Engine.cleared 4095 with nullBeat := true }] }.engine 4095).nullBeat,
    (hot 0 700).power.st == .s1 && (hot 0 700).power.moving.isNone && (hot 0 700).present 63 && (hot 0 700).runsOn 63 == []
      && !(hot 0 700).engines.any (fun e => e.nullBeat && e.no / 64 == 63)
      && decide (max 1 ((hot 0 700).cfg (dieAt 8) .pwrCfg 16 16) * 4000 ≤ ((hot 0 700).plumb.now - ((hot 0 700).keystone 63).lastCmd).toNat),
    decide (4000000 ≤ ((hot 96 560).plumb.now - (hot 96 560).power.lastStep).toNat) && decide (95 < (hot 96 560).hottest)
      && decide (560 ≤ (hot 96 560).power.supply),
    decide (95 < (hot 96 550).hottest) && decide ((hot 96 550).power.supply < 560),
    decide ((hot 95 690).hottest ≤ 95) && decide ((hot 95 690).power.supply + 10 ≤ pointSupply (hot 95 690).sec.point)] = true := by decide +kernel

theorem witness_commands_start : every [
    !(entered 0x40 []).primaryBusy 0
      && given ((entered 0x40 []).primaryNext 0) (fun y => (match y.2.2.2.2 with | .run _ => true | _ => false)
      && leastOf ((entered 0x40 []).startOn y.1 y.2.2.2.1 y.2.2.2.2) == 0
      && ((entered 0x40 []).startOn y.1 y.2.2.2.1 y.2.2.2.2).all (fun l => (entered 0x40 []).runsOn l == []
      && (entered 0x40 []).freeFor l y.1 y.2.1)
      && decide ((entered 0x40 []).killFills ((entered 0x40 []).startOn y.1 y.2.2.2.1 y.2.2.2.2) = entered 0x40 [])),
    given ((entered 0x40 (leBytes 4 0 ++ leBytes 4 1)).primaryNext 0) (fun y => match y.2.2.2.2 with | .run _ => false | _ => true),
    (State.reset.primaryNext 63).isNone,
    filling.fillCtx 0 == some 0 && filling.runsOn 0 == []
      && given (filling.pickEntry 0 0 true (filling.fillPass 0)) (fun y => (match y.2.2.2 with | .run _ => true | _ => false)
      && leastOf (filling.startOn 0 y.2.2.1 y.2.2.2) == 0),
    given ((entered 0x40 (leBytes 14 0 ++ [1#8])).ready 0 0) (fun y => y.2.1.kind == 1 && (match y.2.2 with | .mark => true | _ => false))] = true := by decide +kernel

theorem witness_commands_end : every [
    theRun (command (fun r => { r with failed := some 9#8 })) (fun r => r.failed == some 9#8),
    theRun (command id) (fun r => r.failed.isNone && !(command id).atEnd r),
    theRun (ended (fun r => { r with reads := [(8, 2, 5#32)] })) (fun r => r.failed.isNone && (ended id).atEnd r && !r.wrote
      && (ended id).readStale r),
    theRun (ended (fun r => { r with wrote := true })) (fun r => r.failed.isNone && (ended id).atEnd r && r.wrote)
      && theRun (ended (fun r => { r with sending := true })) (fun r => r.sending && !(ended id).readStale r),
    theRun (ended (fun r => { r with overlay := [(base, 1#8)], outTags := [(base / 32, 1#2)] })) (fun r => r.failed.isNone
      && (ended id).atEnd r && !(r.wrote || r.sending) && !(ended id).readStale r && r.published.any (fun t => t.2.getLsbD 0)),
    theRun (ended id) (fun r => r.failed.isNone && (ended id).atEnd r && !(r.wrote || r.sending) && !(ended id).readStale r && !r.published.any (fun t => t.2.getLsbD 0)
      && (countBlocks ((ended id).hereAt r r.next) r).all (fun b => (ended id).blockOk r.ctx b.1)
      && given ((leaseChecks (ended id) 0).runOf 0) (fun r => r.failed.isNone && r.leasesChecked)),
    [[], [(base / 32, 1#2)]].all (fun tags => theRun (command (fun r => { r with pieces := 2, sendBufs := [(base, 64)], outTags := tags }))
      (fun r => r.failed.isNone && r.issued.isEmpty && decide (r.piece + 1 < r.pieces) && !r.sending && r.leases.isEmpty
        && r.bufferBlotted == !tags.isEmpty)),
    theRun (command (fun r => { r with pieces := 2, sending := true })) (fun r => (command id).sendsDone 0
      && given (stagingRegion ((command id).image r) r.queue) (fun x => gPkg (BitVec.ofNat 64 x.1) == (command id).sec.pkg
      && (command id).allowed false ((command id).ctxPart r.ctx) true (gSpace (BitVec.ofNat 64 x.1)) (gOff (BitVec.ofNat 64 x.1)) x.2)),
    theRun (command id) (fun r => (command id).killable r && ((command id).ctx r.ctx).st != .running)] = true := by decide +kernel

theorem witness_contexts_move : every [
    (asks 1 .absent).actsOnRequests && !(asks 1 .absent).power.halted && !(asks 1 .absent).sec.debug && (asks 1 .absent).tableOk
      && (asks 1 .absent).request 0 == 1 && ((asks 1 .absent).ctx 0).st == .absent,
    (asks 1 .suspended).request 0 == 1 && ((asks 1 .suspended).ctx 0).st == .suspended,
    (asks 2 .running).tableOk && (asks 2 .running).request 0 == 2 && ((asks 2 .running).ctx 0).st == .running,
    ((asks 2 .suspending).ctx 0).st == .suspending && !(asks 2 .suspending).runs.any (fun r => r.ctx == 0),
    (asks 3 .running).tableOk && (asks 3 .running).request 0 == 3,
    ((asks 0 .tearing).ctx 0).st == .tearing && (asks 0 .tearing).request 0 != 3,
    (asks 0 .tornDown).tableOk && (asks 0 .tornDown).request 0 == 0 && ((asks 0 .tornDown).ctx 0).st == .tornDown] = true := by decide +kernel

theorem witness_loads_run : every [
    ((asks 1 .running).ctx 0).st == .running
      && (asks 1 .running).tailWord ((asks 1 .running).ctx 0).loadTail != ((asks 1 .running).ctx 0).loadHead,
    ((keyed (fun k => { k with hold := true })).keystone 63).hold,
    ((keyed (fun k => { k with load := .waiting })).keystone 63).load == .waiting
      && (keyed id).pageRefs 63 ((keyed id).keystone 63).loadPage == 0,
    ((keyed (fun k => { k with load := .loading })).keystone 63).load == .loading,
    (List.range 64).all (fun c => (State.reset.ctx c).st == .absent)] = true := by decide +kernel

theorem witness_keystone_settings : every [
    ((keyed (fun k => { k with load := .loading })).keystone 63).load == .loading,
    (State.reset.keystone 63).load != .waiting && (State.reset.keystone 63).load != .loading,
    debugging.sec.debug && debugging.sec.scope.getLsbD 1 && fld 0x100#64 8 1 == 1,
    !State.reset.sec.debug] = true := by decide +kernel

theorem witness_plumb_runs : every [
    isHub 8 && isHub 9,
    (follower .acquire none 3).follows && (follower .acquire none 3).usable (follower .acquire none 3).upstream 6
      && (follower .acquire none 3).plumb.sent.isNone
      && decide (400000 ≤ ((follower .acquire none 3).plumb.now - (follower .acquire none 3).plumb.lastX).toNat),
    ((follower .free none 3).port 3).peer.isSome && (follower .free none 3).carriesClass 3 6,
    (follower .acquire (some 1#64) 3).carriesClass 3 6 && (follower .acquire (some 1#64) 3).follows
      && (3 == (follower .acquire (some 1#64) 3).upstream) && (follower .acquire (some 1#64) 3).plumb.sent == some 1#64,
    (follower .locked none 29).follows && !(follower .locked none 29).carriesClass (follower .locked none 29).upstream 6,
    (follower .locked (some 1#64) 3).follows && (follower .locked (some 1#64) 3).carriesClass (follower .locked (some 1#64) 3).upstream 6
      && (follower .locked (some 1#64) 3).plumb.sent.isSome
      && decide (400000 ≤ ((follower .locked (some 1#64) 3).plumb.now - (follower .locked (some 1#64) 3).plumb.lastX).toNat),
    (follower .holdover none 3).plumb.st == .holdover
      && decide (400000000 ≤ ((follower .holdover none 3).plumb.now - (follower .holdover none 3).plumb.entered).toNat),
    [25, 95].all (fun t => (({ State.reset with power := { Power.reset with junction := List.replicate 10 t } }).power.junction[7]? == some t)
      && rateAt Power.reset.supply == some 1536000)] = true := by decide +kernel

theorem witness_captures_run : every [
    State.reset.capture.st == .idle,
    (capturing .dumping 3 []).capture.st == .dumping,
    unitOk unit && (capturing .armed 3 []).capture.st == .armed && ((capturing .armed 3 []).latchOf unit).isNone
      && decide ((capturing .armed 3 []).capture.t.toNat < ((capturing .armed 3 []).dieNow unit.die).toNat),
    unitOk unit && ((capturing .armed 2 []).latchOf unit).isNone
      && decide (((capturing .armed 2 []).dieNow unit.die).toNat ≤ (capturing .armed 2 []).capture.t.toNat),
    given ((capturing .armed 2 [⟨unit, true, none, false, []⟩]).latchOf unit) (fun l => l.stamp.isNone
      && decide ((capturing .armed 2 []).capture.t.toNat ≤ ((capturing .armed 2 []).dieNow unit.die).toNat)),
    (capturing .latched 3 []).capture.st == .latched && !(capturing .latched 3 []).capture.dumped.contains 9
      && (capturing .latched 3 []).power.st != .s2 && ([8].length == 1),
    fld 1#64 0 1 == 1 && (capturing .armed 3 []).capture.st == .armed,
    fld 2#64 0 1 == 0] = true := by decide +kernel

theorem witness_rings_run : every [
    (List.range 10).all (fun d => servingHub d != 8 || fld 0x200#64 d 1 == 0),
    isHub 9,
    decide (9 < 10)] = true := by decide +kernel

theorem witness_register_writes_run : every [
    masterOk (.core 9 3) && ({ State.reset with power := { Power.reset with st := .s2 } }).ownRegister (gAddr 0 4 (dieAt 7 + 0x100000))
      && needsPower (gAddr 0 4 (dieAt 7 + 0x100000)),
    !State.reset.msixAccess .host (gAddr 0 4 3) 8 && (State.reset.regBar .host (gAddr 0 4 3) true 8).isSome,
    !State.reset.msixAccess .mgmt (gAddr 0 4 (dieAt 8 + 0x100000)) 8
      && (State.reset.regBar .mgmt (gAddr 0 4 (dieAt 8 + 0x100000)) true 8).isNone
      && (List.range 64).any (fun k => (State.reset.locate 8 1 (8 * k)).isSome),
    (List.range 4096).any (fun k => (State.reset.locate 8 1 (8 * k)).isNone)] = true := by decide +kernel

theorem witness_applies_take_effect_whole : every [
    (Reg.plbCfg).group == some .plb && State.reset.regOf (regKey (dieAt 8) .plbCfg) == some .plbCfg,
    !State.reset.inGroup (dieAt 8) .plb (regKey (dieAt 9) .plbCfg)] = true := by decide +kernel

theorem witness_mortar_home_runs : every [
    hubOk 8 && 8 == 8 + (chunk 9).red.toNat / 512 % 2 && 9 != 8 + (chunk 9).red.toNat / 512 % 2
      && 9 == 8 + { chunk 9 with red := 0x202#16 }.red.toNat / 512 % 2 && ((reducing .opened 0).port 3).peer == some 9 && (reducing .opened 0).carriesClass 3 ((chunk 9).cls.toNat % 8),
    ingressOk (reducing .opened (5 * 2 ^ 16)) 8 9 (chunk 9) && !ingressOk (reducing .opened 0) 8 9 (chunk 9),
    given ((onLocal (chunk 0)).takeLocal (.accumulate (chunk 0))) (fun t => ingressOk t 8 (onLocal (chunk 0)).sec.pkg (chunk 0)),
    ((reducing .opened (2 ^ 32)).redAt 8 2).st == .opened
      && decide (((reducing .opened (2 ^ 32)).redAt 8 2).sources ≤ ((reducing .opened (2 ^ 32)).redAt 8 2).complete.length),
    (State.reset.redAt 9 511).st != .opened,
    ((reducing .clearing 0).redAt 8 2).st == .clearing] = true := by decide +kernel

theorem witness_duplicate_chunks_add_nothing : every [
    ((reducing .opened (5 * 2 ^ 16)).redAt 8 ((chunk 9).red.toNat % 512)).hub == 8
      && given (({ reducing .opened (5 * 2 ^ 16) with receipts := [rcpt] }).rcptOf 8 (chunk 9)) (fun e => e.origin == (chunk 9).origin
      && e.bitmap.getLsbD ((chunk 9).seq.toNat % 64))] = true := by decide +kernel

theorem witness_senders_run : every [
    given ((sender none).openSend 1) (fun x => x.2.target != (sender none).sec.pkg && x.2.retryAt.isNone
      && decide (80000 ≤ ((sender none).plumb.now - x.2.sentAt).toNat)),
    given ((sender (some 1#64)).openSend 1) (fun x => x.2.retryAt == some 1#64
      && decide (((sender (some 1#64)).plumb.now - 1#64).toNat < 2 ^ 63)),
    given ((command (fun r => { r with mortarSince := some (8, 0x8000000000000000#64) })).runOf 0) (fun r => r.failed.isNone
      && r.mortarSince == some (8, 0x8000000000000000#64)
      && (command (fun r => { r with mortarSince := some (8, 0x8000000000000000#64) })).mortarLate 8 0x8000000000000000#64),
    given ((command id).runOf 0) (fun r => !r.sending && r.mortarSince.isNone)] = true := by decide +kernel

theorem witness_mortar_settings : every [
    hubOk 8 && hubOk 9,
    fld 0x80000#64 19 1 == 1 && fld 0x7FFFF#64 19 1 == 0,
    State.reset.rcptSel.length == 8] = true := by decide +kernel

theorem witness_lease_home_runs : every [
    (9 != permitted.sec.pkg) && (request .takeRead 3).pkg == 9 && permitted.mayRecv 8 (request .takeRead 3).job 9,
    (8 != permitted.sec.pkg) && (request .takeRead 3).pkg != 8,
    given ((homed .takeRead).waits.find? (fun w => w.hub == 8 && w.req.tag == 1
      && (leaseExamine (homed .takeRead) 8 w.req).2.isSome)) (fun w => (leaseExamine { homed .takeRead with waits := (homed .takeRead).waits.filter (· != w) } 8 w.req).2.isSome),
    given ((lease 0x200 0 [{ held .takeRead with phase := .asked }]).leaseByTag 0) (fun x => gPkg x.2.home != (lease 0x200 0 []).sec.pkg),
    given ((inForce (homed .takeWrite) (dieAt 8) .morLeaseCfg 1).waits.find? (fun w => w.hub == 8 && w.req.tag == 1
      && (inForce (homed .takeWrite) (dieAt 8) .morLeaseCfg 1).elapsed w.since ((inForce (homed .takeWrite) (dieAt 8) .morLeaseCfg 1).cfg (dieAt 8) .morLeaseCfg 0 32))) (fun w => w.req.op == .takeWrite)] = true := by decide +kernel

theorem witness_takes_are_granted : every [
    (request .takeRead 3).op == .takeRead && shard.written + 1 == (request .takeRead 3).step && shard.intent.isNone
      && !permitted.readers.any (holdsEntry (request .takeRead 3) shard)
      && decide ((permitted.readers.filter (fun x => x.hub == shard.hub)).length < 16384),
    (request .takeWrite 3).op == .takeWrite && shard.written + 1 == (request .takeWrite 3).step
      && !permitted.readers.any (fun x => x.hub == shard.hub && x.s == shard.s),
    (request .takeWrite 2).op == .takeWrite && decide ((request .takeWrite 2).step ≤ shard.written)] = true := by decide +kernel

theorem witness_frames_are_accepted_whole : every [
    !(State.reset.port 29).carries,
    (from9.port 29).carries && (frame 0 true true 31).number == (from9.port 29).rxFrame,
    ((from9.setPort 29 (fun p => { p with rxFrame := 1#64 })).port 29).carries
      && decide ((frame 0 true true 31).number.toNat < ((from9.setPort 29 (fun p => { p with rxFrame := 1#64 })).port 29).rxFrame.toNat),
    !frameIntact (frame 0 false true 31) && !frameIntact (frame 0 true true 30) && frameIntact (frame 0 true true 31),
    decide ((from9.port 29).rxFrame.toNat < (frame 1 true true 31).number.toNat),
    !(frame 0 true false 31).tagOk
      && [0, 1].all (fun n => decide (((from9.setPort 29 (fun p => { p with sealBad := n })).port 29).sealBad + 1 < 3)),
    decide (3 ≤ ((from9.setPort 29 (fun p => { p with sealBad := 2 })).port 29).sealBad + 1)] = true := by decide +kernel

theorem witness_ports_train : every [
    ((port .training id).port 29).st == .training && decide ((port .training id).minLanes 29 ≤ laneCount 15#8)
      && decide (29 < (port .training id).ports.length) && (port .training id).routeWait.isEmpty,
    [.up, .degraded, .hairline].all (fun st => ((port st id).port 29).active.getLsbD 3 && (port st id).laneBad 29 .signal
      && (port st id).laneBad 29 (.corrected 0x10000)),
    ((port .retraining id).port 29).st == .retraining && 7#8 &&& ~~~((port .retraining id).port 29).active == 0#8
      && decide (laneCount 7#8 < (port .retraining id).minLanes 29),
    15#8 &&& ~~~((port .retraining id).port 29).active == 0#8 && decide ((port .retraining id).minLanes 29 ≤ laneCount 15#8),
    ((inForce (port .failed id) (dieAt 9) (.lnkCtl 29) 1).port 29).st == .failed
      && (inForce (port .failed id) (dieAt 9) (.lnkCtl 29) 1).portMode 29 != 0
      && decide (4000000000 ≤ ((port .failed id).plumb.now - ((port .failed id).port 29).since).toNat),
    ((port .up (fun p => { p with closing := true })).port 29).closing
      && ((port .up (fun p => { p with closing := true })).port 29).held.isEmpty,
    ((port .hairline (fun p => { p with rising := true })).port 29).rising
      && 255#8 &&& ((port .hairline (fun p => { p with rising := true })).port 29).dropped == 0#8
      && decide ((port .hairline id).minLanes 29 ≤ laneCount 255#8)] = true := by decide +kernel

theorem witness_sessions_run : every [
    ((port .session id).port 29).st == .session && ((port .session id).port 29).session.phase == 0 && 1 != (port .session id).peerPkg 29,
    ((session .session (fun x => { x with phase := 1 })).port 29).session.phase == 1
      && decide (((session .session id).port 29).session.peerPkg < ({ session .session id with sec := { Sec.reset with pkg := 1 } }).sec.pkg),
    decide ((session .session id).sec.pkg < ((session .session (fun x => { x with phase := 1, peerPkg := 9 })).port 29).session.peerPkg),
    ((session .session (fun x => { x with phase := 2 })).port 29).st == .session
      && ((session .session (fun x => { x with phase := 2 })).port 29).session.phase == 2,
    ((port .up (fun p => { p with session := { p.session with phase := 3 }, txFrame := 0x80000000#64 })).port 29).session.phase == 3
      && decide (2 ^ 31 * (((port .up (fun p => { p with session := { p.session with phase := 3 }, txFrame := 0x80000000#64 })).port 29).session.renewals + 1) ≤ ((port .up (fun p => { p with session := { p.session with phase := 3 }, txFrame := 0x80000000#64 })).port 29).txFrame.toNat)] = true := by decide +kernel

theorem witness_heartbeats_and_lintel_settings : every [
    (({ from9 with plumb := { State.reset.plumb with now := 4194304#64 } }).port 29).carries
      && decide (4194304 ≤ (4194304#64 - (from9.port 29).lastTx).toNat),
    (from9.port 29).carries && (from9.port 29).peer == some 9,
    (from9.port 29).peer != some 8,
    decide (4194304 * ((from9.port 29).missed + 1) ≤ (4194304#64 - (from9.port 29).lastRx).toNat),
    isHub 8 && isHub 9,
    d2dPairs.contains (min 9 7, max 9 7)] = true := by decide +kernel

theorem witness_packets_arrive : every [
    takes (.readRequest 0#64 1 4096),
    takes (.readCompletion 1 0 [] []),
    takes (.write 0#64 1 [1#8]),
    takes (.writeReply 1 0),
    (packet .wake 8 16).dest != from9.sec.pkg && headerOk (packet .wake 8 16),
    !headerOk (packet .wake 8 0) && !headerOk (packet .wake 8 4113),
    ((0x8000000000#64).truncate 40 == 0x8000000000#40) && [0x20000000000#64, 0x1FFFFFFFFFF#64].all (fun V =>
      decide (-(2 ^ 39) < (V - 0x20000000000#64).toInt) && decide ((V - 0x20000000000#64).toInt < 2 ^ 39)) && decide (29 < from9.ports.length)] = true := by decide +kernel

theorem witness_time_limits_act : every [
    isHub 9 && ((takeNth (fun w => w.hub == 9 && !(w.packet.src == waiting.sec.pkg
      && isMirror w.packet.body)) 0 waiting.routeWait).1 == some ⟨9, packet .wake 9 16, 0#64⟩) && waiting.elapsed 0#64 (waiting.linkTimeout 9),
    given (takeNth (fun w => w.hub == 9 && !(w.packet.src == stranded.sec.pkg
      && isMirror w.packet.body)) 0 stranded.routeWait).1 (fun w => stranded.elapsed w.since (stranded.linkTimeout 9)
      && w.packet.src == stranded.sec.pkg && given (stranded.leaseByTag 0) (fun x => x.2.phase == .asked)),
    given ((remote (.command 0)).remotes.find? (fun x => x.tag == 1)) (fun x => x.use == .command 0
      && ((remote (.command 0)).runOf 0).isSome
      && (remote (.command 0)).elapsed x.since ((remote (.command 0)).linkTimeout (servingHub (0 / 8)))),
    given ((remote (.notice 9 0 0)).remotes.find? (fun x => x.tag == 1)) (fun x => x.use == .notice 9 0 0
      && (remote (.notice 9 0 0)).elapsed x.since ((remote (.notice 9 0 0)).linkTimeout 9))] = true := by decide +kernel

theorem witness_host_accesses_run : every [
    decide (base + 64 ≤ windowBytes 0) && (hosted 0x80C0).power.st != .s2 && (hosted 0x80C0).hostAllowed false (windowSpace 0) base 64
      && !(hosted 0x80C0).poisoned (windowSpace 0) base 64,
    !(hosted 0x8080).hostAllowed false (windowSpace 0) base 64,
    (asleep none).power.st == .s2,
    ({ hosted 0x80C0 with poison := [base / 64] }).hostAllowed false (windowSpace 0) base 64
      && ({ hosted 0x80C0 with poison := [base / 64] }).poisoned (windowSpace 0) base 64,
    decide (windowBytes 0 < windowBytes 0 - 8 + 9),
    decide (8 + 8 ≤ 2 ^ 32),
    (hosted 0x80C0).hostAllowed true (windowSpace 0) base 3,
    !(hosted 0x8040).hostAllowed true (windowSpace 0) base 3] = true := by decide +kernel

theorem witness_boundary_scan_runs : every [
    !State.reset.sec.watching,
    (hosted 0).sec.watching && (hosted 0).sec.mode != .recovery,
    !State.reset.sec.debug || !State.reset.sec.scope.getLsbD 0] = true := by decide +kernel

theorem witness_management_answers : every [
    !(mode .running 2).asked.recovering && decide (2 ≤ (mode .running 2).asked.sec.role) && (mode .running 2).asked.power.st != .s2,
    decide ((mode .running 1).asked.sec.role < 2) && decide (1 ≤ (mode .running 1).asked.sec.role),
    given ({ State.reset with faults := [[1#8]] }).asked.faults.head? (fun f => f == [1#8]) && State.reset.asked.faults.isEmpty,
    (match (({ State.reset with sec := { Sec.reset with colophon := some (nonce, [1#8]) } }).asked.colophonAt nonce 8).1 with | some (some _) => true | _ => false),
    (State.reset.asked.colophonAt [] 0).1 == none,
    (mode .recovery 0).asked.recovering,
    State.reset.power.st != .s2] = true := by decide +kernel

theorem witness_memory_controls_run : every [
    fld 0xFFFF#64 16 1 == 0,
    fld 0x10000#64 16 1 == 1
      && given ((granting 0x600008000000).grantReject 9 (fld ((granting 0x600008000000).reg (dieAt 9) .prtGrantPage) 43 2) (fld ((granting 0x600008000000).reg (dieAt 9) .prtGrantPage) 0 27) (fld ((granting 0x600008000000).reg (dieAt 9) .prtGrantPage) 27 16) 0) (fun r => 0 < r),
    fld ((granting 0x8000008).reg (dieAt 8) .prtGrantPage) 27 16 == 1
      && ((granting 0x8000008).grantReject 8 (fld ((granting 0x8000008).reg (dieAt 8) .prtGrantPage) 43 2) (fld ((granting 0x8000008).reg (dieAt 8) .prtGrantPage) 0 27) 1 0).isNone,
    !(State.reset.setReg (dieAt 8) (.rgl 0 1) 1#64).ratesFit 8,
    ({ State.reset with farChans := List.range 16 }).ratesFit 8 && State.reset.regOf (regKey (dieAt 8) (.rgl 15 4)) == some (.rgl 15 4),
    decide (16 ≤ State.reset.tokensOf 9 0 4),
    decide (State.reset.tokensOf 9 15 4 < 16) && !(State.reset.admits 9 15 4).1 && !State.reset.queueAcc.any (fun w => w.hub == 9
      && w.part == 15 && w.res == 4),
    given (State.reset.controllerOf 8 0 base) (fun c => decide (c < 14) && State.reset.scrubHours 8 c != 0)] = true := by decide +kernel

theorem witness_last_level_memory_runs : every [
    (State.reset.llm 9).switching.isNone && !(State.reset.llm 9).cache,
    ((llm (fun m => { m with cache := true })).llm 9).switching.isNone && ((llm (fun m => { m with cache := true })).llm 9).cache,
    ((llm (fun m => { m with switching := some true })).llm 9).switching == some true,
    decide (9 - 8 < State.reset.llms.length)] = true := by decide +kernel

theorem witness_security_runs : every [
    [0, 1, 2].all (fun n => num (leBytes 4 0 ++ leBytes 1 n) 4 1 == n),
    num (keying 0 false).keyRecord 4 1 == 0 && (keying 0 false).ownerPage 0 (keying 0 false).keyOff && !(keying 0 false).sec.debug
      && keyFormed (keying 0 false).keyRecord,
    num (State.reset.setReg (dieAt 8) .secKeyBase 0x7000000000#64).keyRecord 4 1 == 0
      && !(State.reset.setReg (dieAt 8) .secKeyBase 0x7000000000#64).ownerPage 0 (State.reset.setReg (dieAt 8) .secKeyBase 0x7000000000#64).keyOff,
    num (keying 1 false).keyRecord 4 1 == 1 && (keying 1 false).ownerPage 0 (keying 1 false).keyOff && !(keying 1 false).sec.debug
      && keyFormed (keying 1 false).keyRecord,
    fld 0xFFFF#64 16 1 == 0,
    fld 0x10002#64 16 1 == 1 && (0x10002#64).getLsbD 1] = true := by decide +kernel

theorem witness_start_up_runs : every [
    !State.reset.sec.booted,
    (started .running).sec.booted,
    (started .starting).sec.mode == .starting
      && (!(⟨[], [0, 1, 2, 3, 4], true⟩ : DieTests).portsOk || (List.range 8).any ((retiredBy ⟨[], [0, 1, 2, 3, 4], true⟩).foldl State.retireAtStart (started .starting)).dieFails),
    !(!passed.portsOk || (List.range 8).any ((retiredBy passed).foldl State.retireAtStart (started .starting)).dieFails)
      && (((retiredBy passed).foldl State.retireAtStart (started .starting)).cfgApplyAll [7]).2,
    ({ State.reset with sec := { Sec.reset with writing := some (0, [1#8]) } }).sec.writing == some (0, [1#8]),
    State.reset.sec.writing.isNone] = true := by decide +kernel

theorem witness_supply_runs : every [
    (powered (fun p => { p with rails := false, inputMv := 46999 })).power.enable
      && !(powered (fun p => { p with rails := false, inputMv := 46999 })).power.latched
      && decide ((powered (fun p => { p with rails := false, inputMv := 46999 })).power.inputMv < 47000) && decide (54500 ≤ 54500),
    (powered (fun p => { p with overV := true })).power.overV,
    (powered (fun p => { p with inputMv := 47000 })).power.switchOn && !(powered (fun p => { p with inputMv := 47000 })).power.latched
      && decide (47000 ≤ (powered (fun p => { p with inputMv := 47000 })).power.inputMv),
    (powered (fun p => { p with tripped := some 1#64 })).power.tripped == some 1#64
      && decide (4000000 ≤ ((powered id).plumb.now - 1#64).toNat),
    State.reset.power.tripped.isNone] = true := by decide +kernel

theorem witness_power_states_run : every [
    State.reset.power.rails && State.reset.power.st != .s2 && State.reset.power.moving.isNone,
    (asks 0 .tearing).ctxs.any (fun x => x.st == .running || x.st == .suspending || x.st == .tearing),
    !State.reset.ctxs.any (fun x => x.st == .running || x.st == .suspending || x.st == .tearing),
    (powered (fun p => { p with moving := some .s2 })).power.moving == some .s2
      && (powered (fun p => { p with moving := some .s2 })).routeWait.isEmpty,
    (atS2 (some .s1)).power.st == .s2 && (atS2 (some .s1)).power.moving == some .s1,
    (atS2 none).power.moving.isNone && ((atS2 none).live' (dieAt 8) .pwrWakeEn).getLsbD 3,
    ((atS2 none).live' (dieAt 8) .pwrWakeEn).getLsbD 4 && (atS2 none).reg (dieAt 8) .pwrWakeAt != 0#64
      && decide (((atS2 none).reg (dieAt 8) .pwrWakeAt).toNat ≤ (atS2 none).plumb.now.toNat)] = true := by decide +kernel

theorem witness_thermal_and_faults_run : every [
    decide (0 < (State.reset.sensed 9 0).warnC),
    decide ((State.reset.sensed 9 (State.reset.sensed 9 0).warnC).warnC ≤ (State.reset.sensed 9 0).warnC),
    State.reset.power.tripped.isNone,
    isHub 8 && isHub 9] = true := by decide +kernel

theorem witness_mirrors_run : every [
    isHub 9 && resync.mirSt 9 7 == 3 && resync.mirror.any (fun e => e.hub == 9 && e.m == 7 && e.mark.isSome && e.acked),
    State.reset.mirSt 9 7 != 3 && !State.reset.twin,
    twin.twin && (partnerPorts 9).all twin.portIdle] = true := by decide +kernel

theorem witness_events_run : every [
    (List.range 1024).all (fun n => !State.reset.claimable 9 3 n),
    source.claimable 9 3 1023 && !source.claimable 9 3 0 && (List.range 1023).all (fun j => !source.claimable 9 3 j)] = true := by decide +kernel

theorem witness_nothing_happens_with_the_rails_off : every [
    !(powered (fun p => { p with rails := false })).power.rails] = true := by decide +kernel

theorem witness_idle_step_is_one_tick : every [
    State.reset.pending.isEmpty && State.reset.power.rails && State.reset.plumb.ahead == 0,
    !(powered (fun p => { p with rails := false })).power.rails && (powered id).pending.isEmpty] = true := by decide +kernel

theorem witness_every_step_keeps_the_canonical_form : every [
    State.reset.wf && (match step { State.reset with pending := [.wakePin] } with | .next _ => true | _ => false)] = true := by decide +kernel

theorem witness_commands_leave_the_queue : every [
    (match exec .wakePin { State.reset with pending := [Instr.identify 1#8] } with | .next t => t.pending == [Instr.identify 1#8] | _ => false)] = true := by decide +kernel

theorem witness_commands_stop_only_at_missing_units : every [
    (Instr.selfTestDone ⟨[1023], [63], true⟩).wf && !(Instr.selfTestDone ⟨[1024], [], true⟩).wf || (Instr.evtClaim 9 3).wf,
    debugging.power.rails && debugging.sec.debug && debugging.sec.scope.getLsbD 0] = true := by decide +kernel

theorem witness_commands_read_what_they_wrote : every [
    atWord (command id) 0 (fun _ h => goes (writeKeys h [(base, 7, 1), (base + 1, 300, 0)]) (command id)
      && (command id).keystones.all (fun k => k.inject.isEmpty) && (command id).wf
      && (kvGet (command id).scratchG (slotOf h.lead 0 0 * 2 ^ 17 + 5 / 32)).isNone)] = true := by decide +kernel

theorem witness_numbers_round_trip : every [
    [0, 0x7E01, 0xFC00, 0xFFFF].all (fun n => decide (n < 2 ^ 16)) && decide (-(2 ^ 111 : Int) ≤ -(2 ^ 111))
      && decide ((2 ^ 111 - 1 : Int) < 2 ^ 111)] = true := by decide +kernel

theorem witness_extremes_and_comparisons : every [
    (isNan false 0x7C01 || isNan false 0x8000) && !(isNan false 0xFC00 || isNan false 0x8000)] = true := by decide +kernel

theorem witness_narrowing_saturates : every [
    [0, 31].all (fun s => decide (s ≤ 31)) && decide (-(2 ^ 31 : Int) ≤ -(2 ^ 31)) && decide ((2 ^ 31 - 1 : Int) < 2 ^ 31)] = true := by decide +kernel

theorem witness_half_sums_are_exact : every [
    decide ([(0x3C00, 0x3C00), (0x7BFF, 0xFBFF), (1, 1)].length ≤ 2 ^ 31)] = true := by decide +kernel

theorem witness_counts_set_the_status : every [
    atWord (command (fun r => { r with overlay := [(base, 1#8)] })) 0 (fun r h => r.status h == stOk)] = true := by decide +kernel

/-- Port 29 in SESSION, configured for package 0 with the key of an identity of zeros; this is package 1. -/
def expecting : State :=
  (List.range 4).foldl (fun s k => inForce s (dieAt 9) (.lnkPeerKey 29 k) (num (shake256 32 (sub [] 0 64)) (8 * k) 8))
    { session .session id with sec := { Sec.reset with pkg := 1 } }

theorem witness_session_hello : every [
    (expecting.port 29).st == .session && (expecting.port 29).session.phase == 0 && 0 == expecting.peerPkg 29 && 0 != expecting.sec.pkg,
    shake256 32 (sub [] 0 64) == expecting.peerKey 29] = true := by decide +kernel

/-! ## What WellFormed refuses -/

/-- One ill-formed command for each check. -/
theorem test_wellformed_refuses :
    [Instr.move 64 0, .engineBeat 4096 (beat none), .shadowSwitch ⟨4096, .drained⟩, .plbApply 7, .ductusHeldFlush 10, .beatRateWindow 8, .plumbSync 30 (.request 0#64),
     .mark 64 0, .captureLatch ⟨8, 8, 0⟩, .captureLatch ⟨1, 0, 128⟩, .captureLatch ⟨4, 8, 3⟩, .registerWrite (.core 8 4) 0#64 8 0#64,
     .registerWrite (.core 7 0) 0#64 8 0#64, .windowClose 8 512, .laneDrop 0 8 .signal, .accumulate 8 (some 30) 0 (chunk 0), .d2dLaneRepair 0 3 true,
     .llmFlush 8 16, .patrolScrub 8 14 0 0 .clean, .accessAdmit 8 0 5, .accessAdmit 8 16 0, .resyncDone 9 8, .streamSwitch 9 10, .evtClaim 8 4,
     .wholeDieFault (.computeDie 8), .wholeDieFault (.hubDie 7)].all (fun c => !c.wf) = true := by decide +kernel

/-! ## Small tests -/

/-- Test 2 of R82. -/
theorem test_quill_answer : quill (0#32, 0#32, 0#32, 0#32) 0#32 1 0 = (0x74C8EAC1#32, 0xEC5C959A#32, 0x096CAC96#32, 0xAAFABDC8#32) := by decide +kernel

/-- The state of R82 after round 0. -/
theorem test_quill_round : quillRound (0x5A3C1E97#32, 16, 12) (0#32, 0#32, 0#32, 0#32) = (0x5A3C1E97#32, 0x75A3C1E9#32, 0x1E975A3C#32, 0x1E975A3C#32) := by
  decide +kernel

/-- The estimate of R34: upstream 8 ticks ahead, and 3 less with an asymmetry of 3. -/
theorem test_offset : offsetEstimate 0#64 10#64 10#64 4#64 0 = 8 ∧ offsetEstimate 0#64 10#64 10#64 4#64 3 = 5 := by decide +kernel

/-- A claim takes the pending source (R403). -/
theorem test_claim : (match exec (.evtClaim 9 3) source with
    | .next t => t.readData == 1023#64 && t.evtIsActive 9 1023 && !t.evtIsPending 9 1023
    | _ => false) = true := by decide +kernel

/-- No word spells a command (log entry 1). -/
theorem test_no_word : decodeTableWord 16 0 = none := by decide +kernel

/-- A signature over another message is met by the last case of SessionsRun. -/
theorem witness_bad_signature :
    (Config.slhVerify [] [] [] && (session .session (fun x => { x with phase := 2 })).goodMsg 29 []) = false := by
  rw [show (session .session (fun x => { x with phase := 2 })).goodMsg 29 [] = false by decide +kernel, Bool.and_false]

end Sys2Proof.Tests
end

section
/-! SUPPORT. Proofs of the statements about the machine and its registers as a whole: where a command stops, what reset leaves, how a
register write stores and how a group takes effect. -/

namespace Sys2Proof.Machine

/-! ## Reset -/

/-- In a list of equal entries every index reads as that entry, beyond the end by default. -/
theorem replicate_getD {α : Type} (n i : Nat) (a : α) : ((List.replicate n a)[i]?).getD a = a := by
  rw [List.getElem?_replicate]
  split
  · rfl
  · rfl

@[simp] theorem reset_reg (b : Nat) (r : Reg) : State.reset.reg b r = BitVec.ofNat 64 r.resetVal := rfl

@[simp] theorem reset_live' (b : Nat) (r : Reg) : State.reset.live' b r = BitVec.ofNat 64 r.resetVal := by
  unfold State.live'
  cases r.group with
  | none => exact reset_reg b r
  | some g => rfl

@[simp] theorem reset_ctx (c : Nat) : State.reset.ctx c = Ctx.reset := replicate_getD 64 c Ctx.reset

@[simp] theorem reset_port (n : Nat) : State.reset.port n = Port.reset := replicate_getD 30 n Port.reset

/-- Settles O3: no register is listed at reset, so each reads its reset value, and every context and port is the one that reset gives. -/
theorem resetLeavesTheResetValues : Obligations.ResetLeavesTheResetValues := by
  refine ⟨rfl, rfl, rfl, rfl, fun b r => ⟨reset_reg b r, reset_live' b r⟩, fun c => ?_, fun n _ => ?_,
    rfl, rfl, rfl, rfl, rfl, rfl, rfl⟩
  · rw [reset_ctx]; rfl
  · rw [reset_port]; rfl

/-! ## Register lists -/

section Stored
variable {l : List (Nat × BitVec 64)} {k x : Nat} {v d : BitVec 64}

/-- A list of registers that differ from their reset value `d`, with the value of one replaced, reads that value there. -/
theorem kvGet_store_same : (kvGet (if v = d then kvDel l k else kvSet l k v) k).getD d = v := by
  split
  · next h => rw [kvGet_kvDel, if_pos rfl, h]; rfl
  · rw [kvGet_kvSet_same]; rfl

/-- Every other register reads as before. -/
theorem kvGet_store_other (h : x ≠ k) : kvGet (if v = d then kvDel l k else kvSet l k v) x = kvGet l x := by
  split
  · rw [kvGet_kvDel, if_neg h]
  · exact kvGet_kvSet_other l v h

theorem kvGet_eq_none (h : x ∉ l.map Prod.fst) : kvGet l x = none := by
  induction l with
  | nil => rfl
  | cons e t ih =>
    simp only [List.map_cons, List.mem_cons, not_or] at h
    obtain ⟨hx, ht⟩ := h
    simp only [kvGet, if_neg (Ne.symm hx), ih ht]

end Stored

/-! ## Plain writes (R11) -/

@[simp] theorem setReg_reg_same (s : State) (base : Nat) (r : Reg) (v : BitVec 64) : (s.setReg base r v).reg base r = v := kvGet_store_same

theorem setReg_reg_other (s : State) {base base' : Nat} {r r' : Reg} (v : BitVec 64) (h : regKey base' r' ≠ regKey base r) :
    (s.setReg base r v).reg base' r' = s.reg base' r' :=
  congrArg (fun o : Option (BitVec 64) => o.getD (BitVec.ofNat 64 r'.resetVal)) (kvGet_store_other h)

/-- The access codes of R11 bit by bit; where a bit is listed as RW and as W1C, it is RW. -/
theorem written_getLsbD (r : Reg) (old v : BitVec 64) {b : Nat} (hb : b < 64) :
    (r.written old v).getLsbD b =
      (if (BitVec.ofNat 64 r.rw).getLsbD b then v.getLsbD b
       else if (BitVec.ofNat 64 r.w1c).getLsbD b && v.getLsbD b then false else old.getLsbD b) := by
  simp only [Reg.written, BitVec.getLsbD_or, BitVec.getLsbD_and, BitVec.getLsbD_not, hb, decide_true, Bool.true_and]
  cases (BitVec.ofNat 64 r.rw).getLsbD b with
  | true => simp
  | false => cases (BitVec.ofNat 64 r.w1c).getLsbD b && v.getLsbD b <;> simp

/-- Settles O30: the stored value is `Reg.written` of the old one, and a stored value of another address is not touched. -/
theorem plainWritesFollowTheAccessCodes : Obligations.PlainWritesFollowTheAccessCodes := by
  intro s base r v
  refine ⟨fun b hb => ?_, fun base' r' h => setReg_reg_other s _ h⟩
  rw [State.putReg, setReg_reg_same]
  exact written_getLsbD r (s.reg base r) v hb

/-! ## Applied groups (R400) -/

/-- The values in force once one pending copy has taken effect. -/
def State.forceOne (s : State) (l : List (Nat × BitVec 64)) (e : Nat × BitVec 64) : List (Nat × BitVec 64) :=
  match s.regOf e.1 with
  | some r => if e.2 = BitVec.ofNat 64 r.resetVal then kvDel l e.1 else kvSet l e.1 e.2
  | none => l

theorem forceOne_other (s : State) (l : List (Nat × BitVec 64)) {e : Nat × BitVec 64} {x : Nat} (h : x ≠ e.1) :
    kvGet (s.forceOne l e) x = kvGet l x := by
  unfold State.forceOne
  split
  · exact kvGet_store_other h
  · rfl

theorem forceOne_same (s : State) (l : List (Nat × BitVec 64)) {e : Nat × BitVec 64} {r : Reg} (hr : s.regOf e.1 = some r) :
    (kvGet (s.forceOne l e) e.1).getD (BitVec.ofNat 64 r.resetVal) = e.2 := by
  simp only [State.forceOne, hr]
  exact kvGet_store_same

/-- An address that no pending copy names keeps its value in force. -/
theorem foldl_forceOne_other (s : State) {x : Nat} (es l : List (Nat × BitVec 64)) (h : ∀ e ∈ es, x ≠ e.1) :
    kvGet (es.foldl s.forceOne l) x = kvGet l x := by
  induction es generalizing l with
  | nil => rfl
  | cons e t ih =>
    obtain ⟨he, ht⟩ := List.forall_mem_cons.mp h
    rw [List.foldl_cons, ih _ ht, forceOne_other s l he]

/-- Where every pending copy of a register holds `v`, and one exists or `v` is in force already, `v` is in force afterwards. -/
theorem foldl_forceOne_same (s : State) {x : Nat} {r : Reg} {v : BitVec 64} (hr : s.regOf x = some r) (es l : List (Nat × BitVec 64))
    (hv : ∀ e ∈ es, e.1 = x → e.2 = v) (hx : (∃ e ∈ es, e.1 = x) ∨ (kvGet l x).getD (BitVec.ofNat 64 r.resetVal) = v) :
    (kvGet (es.foldl s.forceOne l) x).getD (BitVec.ofNat 64 r.resetVal) = v := by
  induction es generalizing l with
  | nil => simpa using hx
  | cons e t ih =>
    obtain ⟨he, ht⟩ := List.forall_mem_cons.mp hv
    refine ih (s.forceOne l e) ht ?_
    by_cases hex : e.1 = x
    · subst hex
      exact .inr ((forceOne_same s l hr).trans (he rfl))
    · rw [forceOne_other s l (Ne.symm hex)]
      simpa [hex] using hx

theorem inGroup_iff (s : State) (base : Nat) (g : Group) (key : Nat) :
    s.inGroup base g key = true ↔ ∃ r, s.regOf key = some r ∧ r.group = some g ∧ key = regKey base r := by
  unfold State.inGroup
  cases s.regOf key <;> simp

/-- The pending copies of a group once it is staged: the addresses of the group that are listed, each with its stored value. -/
theorem mem_stage_pend (s : State) (base : Nat) (g : Group) (e : Nat × BitVec 64) (h : s.inGroup base g e.1 = true) :
    e ∈ (s.stage base g).pend ↔
      e.1 ∈ s.regs.map Prod.fst ++ s.live.map Prod.fst ∧ ∃ r, s.regOf e.1 = some r ∧ e.2 = s.reg base r := by
  obtain ⟨key, v⟩ := e
  simp only at h
  simp only [State.stage, List.mem_append, List.mem_filter, List.mem_filterMap, List.mem_eraseDups, Option.map_eq_some_iff,
    Prod.mk.injEq, h]
  constructor
  · rintro (⟨-, hn⟩ | ⟨k, ⟨hk, -⟩, r, hr, rfl, rfl⟩)
    · simp at hn
    · exact ⟨hk, r, hr, rfl⟩
  · rintro ⟨hk, r, hr, hv⟩
    exact .inr ⟨key, ⟨hk, h⟩, r, hr, rfl, hv.symm⟩

@[simp] theorem applyNow_regs (s : State) (base : Nat) (g : Group) : (s.applyNow base g).regs = s.regs := rfl

/-- Staging moves no register, so the group that is forced holds the addresses that it held before. -/
theorem applyNow_live (s : State) (base : Nat) (g : Group) :
    (s.applyNow base g).live = ((s.stage base g).pend.filter (fun e => s.inGroup base g e.1)).foldl s.forceOne s.live := rfl

@[simp] theorem applyNow_hasPend (s : State) (base : Nat) (g : Group) : (s.applyNow base g).hasPend base g = false := by
  show ((s.stage base g).pend.filter (fun e => !s.inGroup base g e.1)).any (fun e => s.inGroup base g e.1) = false
  simp [List.any_eq_false]

/-- A register of the group has its stored value in force afterwards: a listed one has a pending copy, and one that is listed neither as
stored nor as in force has its reset value in both. -/
theorem applyNow_live'_same (s : State) {base : Nat} {g : Group} {r : Reg} (hg : r.group = some g)
    (hr : s.regOf (regKey base r) = some r) : (s.applyNow base g).live' base r = s.reg base r := by
  have hin : s.inGroup base g (regKey base r) = true := (inGroup_iff ..).mpr ⟨r, hr, hg, rfl⟩
  simp only [State.live', hg, applyNow_live]
  refine foldl_forceOne_same s hr _ _ ?_ ?_
  · intro e he hk
    obtain ⟨hp, hi⟩ := List.mem_filter.mp he
    obtain ⟨-, r', hr', hv⟩ := (mem_stage_pend s base g e hi).mp hp
    obtain rfl : r = r' := Option.some.inj ((hk ▸ hr).symm.trans (hk ▸ hr'))
    exact hv
  · by_cases hl : regKey base r ∈ s.regs.map Prod.fst ++ s.live.map Prod.fst
    · exact .inl ⟨(regKey base r, s.reg base r),
        List.mem_filter.mpr ⟨(mem_stage_pend s base g _ hin).mpr ⟨hl, r, hr, rfl⟩, hin⟩, rfl⟩
    · obtain ⟨hs, hf⟩ := not_or.mp (fun h => hl (List.mem_append.mpr h))
      right
      rw [State.reg, kvGet_eq_none hs, kvGet_eq_none hf]

/-- A register whose address is not in the group keeps its value in force. -/
theorem applyNow_live'_other (s : State) {base base' : Nat} {g : Group} {r : Reg} (h : s.inGroup base g (regKey base' r) = false) :
    (s.applyNow base g).live' base' r = s.live' base' r := by
  have hk : kvGet (s.applyNow base g).live (regKey base' r) = kvGet s.live (regKey base' r) := by
    rw [applyNow_live]
    refine foldl_forceOne_other s _ _ fun e he hx => ?_
    have hi := (List.mem_filter.mp he).2
    rw [← hx, h] at hi
    exact Bool.false_ne_true hi
  cases hg : r.group with
  | none => simp only [State.live', hg]; rfl
  | some _ => simp only [State.live', hg, hk]

/-- Settles O31: every listed address of the group is staged with its stored value, so forcing the staged copies changes the group whole
and no other address. -/
theorem appliesTakeEffectWhole : Obligations.AppliesTakeEffectWhole := fun s base g =>
  ⟨applyNow_regs s base g, applyNow_hasPend s base g, fun _ hg hr => applyNow_live'_same s hg hr, fun _ _ h => applyNow_live'_other s h⟩

/-! ## REGISTER_WRITE (R10, R364, R451) -/

section RegisterWrite
variable {m : Master} {a v : BitVec 64} {size : Nat} {s : State}

theorem registerWrite_answers (hp : s.power.rails = true) (hm : masterOk m = true) :
    Answers (.registerWrite m a size v) s (s.registerWrite m a size v) := by
  show onUnit (masterOk m) "control core" s (s.registerWrite m a size v) = _
  rw [hm]
  exact onUnit_next _ _ _ hp

theorem registerWrite_held (h2 : s.power.st = .s2) (ho : s.ownRegister a = true) (hn : needsPower a = true) :
    s.registerWrite m a size v = s.holdAccess (.registerWrite m a size v) (masterWake m) := if_pos ⟨h2, ho, hn⟩

theorem registerWrite_powered (h2 : s.power.st ≠ .s2) : s.registerWrite m a size v = s.regWrite m a size v :=
  if_neg fun h => h2 h.1

theorem regWrite_barred (hx : s.msixAccess m a size = false) (hb : (s.regBar m a true size).isSome = true) :
    s.regWrite m a size v = s.regFault m a true size := by
  obtain ⟨_, hb⟩ := Option.isSome_iff_exists.mp hb
  simp [State.regWrite, hx, hb]

theorem regWrite_located (hx : s.msixAccess m a size = false) (hb : s.regBar m a true size = none) {r : Reg}
    (hl : s.locate (regDie a) (regBlk a) (regOff a) = some r) :
    s.regWrite m a size v = s.writeReg (regDie a) (regBlk a) r v := by
  simp [State.regWrite, hx, hb, hl]

theorem regWrite_unassigned (hx : s.msixAccess m a size = false) (hb : s.regBar m a true size = none)
    (hl : s.locate (regDie a) (regBlk a) (regOff a) = none) : s.regWrite m a size v = s := by
  simp [State.regWrite, hx, hb, hl]

end RegisterWrite

/-- Settles O29: the command answers `State.registerWrite`, which holds the access in S2 and else goes the way that `regBar` and `locate`
give. -/
theorem registerWritesRun : Obligations.RegisterWritesRun := by
  intro m a v size s hp hm
  have run : ∀ {t}, s.registerWrite m a size v = t → Answers (.registerWrite m a size v) s t :=
    fun h => h ▸ registerWrite_answers hp hm
  refine ⟨fun h2 ho hn => ?_, fun h2 hx hb => ?_, fun h2 hx hb r hl => ?_, fun h2 hx hb hl => ?_⟩
  · exact run (registerWrite_held h2 ho hn)
  · exact run ((registerWrite_powered h2).trans (regWrite_barred hx hb))
  · exact run ((registerWrite_powered h2).trans (regWrite_located hx hb hl))
  · exact run ((registerWrite_powered h2).trans (regWrite_unassigned hx hb hl))

/-! ## Where a command stops (R9, R17, R18, R22, R371) -/

/-- A next state when the units named exist, which `ok` tells, and a fault when one does not. -/
def StopsUnless (ok : Bool) (o : Host.Outcome State Fault Refusal) : Prop :=
  (ok = true → ∃ t, o = .next t) ∧ (ok = false → ∃ what, o = .fault (.noSuchUnit what))

theorem onUnit_stopsUnless (ok : Bool) (what : String) (s t : State) : StopsUnless ok (onUnit ok what s t) := by
  cases ok with
  | true => exact ⟨fun _ => ⟨_, rfl⟩, nofun⟩
  | false => exact ⟨nofun, fun _ => ⟨what, rfl⟩⟩

theorem done_runs (s t : State) : StopsUnless true (done s t) := ⟨fun _ => ⟨_, rfl⟩, nofun⟩

theorem always_runs (s t : State) : StopsUnless true (always s t) := ⟨fun _ => ⟨_, rfl⟩, nofun⟩

/-- The commands in three kinds: events of the supply and commands that name no unit, which run in every state, and commands whose meaning
makes the check of `Instr.wf` before it runs. -/
theorem exec_stopsUnless_wf (c : Instr) (s : State) (h : ∀ n, c ≠ .privateScanInstruction n) : StopsUnless c.wf (exec c s) := by
  cases c
  case privateScanInstruction n => exact absurd rfl (h n)
  case inputRise | inputUndervoltage | inputOvervoltage | inputOvervoltageClear | enableLow | enableHigh | tripRailsOff =>
    exact always_runs _ _
  case queueTailWrite | noticeTimeout | syncExchange | exchangeMissed | holdoverTimeout | governorSupply | cntCaptureAt
      | cntCaptureCancel | accumulateReply | accumulateRetransmit | accumulateRetry | leaseReply | remoteAccessTimeout | hostWindowRead
      | hostWindowWrite | endpointReset | doeColophon | doeRecoveryImage | entdaa | identify | regRead | regWrite | telemetry | health
      | mgmtFaultReport | colophon | recoveryChunk | norWriteDone | bypass | idcode | samplePreload | extest | extestPulse | extestTrain
      | clamp | highz | enrol | ownerRelease | debugUnlock | keyLoadFresh | keyLoadSealed | secKeyErase | powerGood | selfTestDone
      | pwrApply | requestS0 | requestS1 | requestS2 | wakePin | wakeTimer | s2ExitDone | coolantLow | s2EntryDone =>
    exact done_runs _ _
  case wholeDieFault f =>
    cases f with
    | hubDie hub => exact onUnit_stopsUnless _ _ _ _
    | computeDie die => exact onUnit_stopsUnless _ _ _ _
    | rowRoutes => exact done_runs _ _
  all_goals exact onUnit_stopsUnless _ _ _ _

theorem scanInstruction_refused (n : Nat) {s : State} (h : s.power.rails = true ∧ s.sec.debug = true ∧ s.sec.scope.getLsbD 0 = true) :
    exec (.privateScanInstruction n) s = .refused (.privateScan n) :=
  if_pos (by simpa [and_assoc] using h)

theorem scanInstruction_runs (n : Nat) {s : State} (h : ¬ (s.power.rails = true ∧ s.sec.debug = true ∧ s.sec.scope.getLsbD 0 = true)) :
    ∃ t, exec (.privateScanInstruction n) s = .next t :=
  ⟨_, if_neg (by simpa [and_assoc] using h)⟩

/-- Settles O6: every command but one makes exactly the check of `Instr.wf`; the refusal of the remaining one is the model's choice (log
entry 57), read off its meaning. -/
theorem commandsStopOnlyAtMissingUnits : Obligations.CommandsStopOnlyAtMissingUnits := by
  refine ⟨exec_stopsUnless_wf, fun n s => ?_⟩
  split
  · next h => exact scanInstruction_refused n h
  · next h => exact scanInstruction_runs n h

end Sys2Proof.Machine
end

section
/-! SUPPORT. Proofs of the statements about the module at six levels: thermal and coolant readings and faults of a whole die (R28, R454 to
R456). -/

namespace Sys2Proof.Machine

/-! ## Answers with the rails on -/

/-- A command whose meaning checks a unit that exists answers the state that its meaning gives. -/
theorem answers_of_onUnit {c : Instr} {ok : Bool} {what : String} {s t : State} (hc : exec c s = onUnit ok what s t) (hok : ok = true)
    (hp : s.power.rails = true) : Answers c s t := by
  subst hok
  exact hc.trans (onUnit_next what s t hp)

/-- A command that names no unit answers the state that its meaning gives. -/
theorem answers_of_done {c : Instr} {s t : State} (hc : exec c s = done s t) (hp : s.power.rails = true) : Answers c s t :=
  hc.trans (done_next s t hp)

/-! ## THERMAL_WARN and THERMAL_TRIP (R455, R456) -/

section Thermal
variable {s : State} {die c : Nat}

theorem thermalWarn_answers (hp : s.power.rails = true) (hd : die < 10) :
    Answers (.thermalWarn die c) s
      (if (s.sensed die c).warnC ≤ c then (s.sensed die c).thermalFlag 12 else s.sensed die c) :=
  answers_of_onUnit rfl (decide_eq_true hd) hp

/-- The first junction temperature of 110 °C: every context stops, both hubs report, and the time of the trip is kept. -/
def State.trip (s : State) : State :=
  ({ s with power := { s.power with tripped := some s.plumb.now } } : State).stopAll.report true [8, 9]

@[simp] theorem sensed_tripped (s : State) (die c : Nat) : (s.sensed die c).power.tripped = s.power.tripped := rfl

theorem thermalTrip_answers (hp : s.power.rails = true) (hd : die < 10) :
    Answers (.thermalTrip die c) s
      (if 110 ≤ c ∧ (s.sensed die c).power.tripped.isNone then (s.sensed die c).trip else s.sensed die c) :=
  answers_of_onUnit rfl (decide_eq_true hd) hp

theorem thermalTrip_below (hp : s.power.rails = true) (hd : die < 10) (hc : c < 110) : Answers (.thermalTrip die c) s (s.sensed die c) := by
  have h := thermalTrip_answers (c := c) hp hd
  rwa [if_neg fun ⟨hge, _⟩ => Nat.not_le.mpr hc hge] at h

theorem thermalTrip_first (hp : s.power.rails = true) (hd : die < 10) (hc : 110 ≤ c) (hn : s.power.tripped = none) :
    Answers (.thermalTrip die c) s (s.sensed die c).trip := by
  have h := thermalTrip_answers (c := c) hp hd
  rwa [if_pos ⟨hc, by rw [sensed_tripped, hn]; rfl⟩] at h

end Thermal

/-! ## COOLANT_LOW (R454) -/

section Coolant
variable {s : State} {inlet outlet flow ms : Nat}

/-- A coolant reading is kept. -/
def State.cooled (s : State) (inlet outlet flow : Nat) : State :=
  { s with power := { s.power with coolant := (inlet, outlet, flow) } }

/-- The flow that the operating point needs, in 0.01 L/min. -/
def State.flowNeed (s : State) : Nat := (if s.sec.point = 2 then 340 else 250) * (if s.twin then 2 else 1)

/-- No operating point needs more than the 6.8 L/min of High on a twin carrier. -/
theorem flowNeed_le (s : State) : s.flowNeed ≤ 680 := by
  have hpoint : (if s.sec.point = 2 then 340 else 250) ≤ 340 := by split <;> decide
  have htwin : (if s.twin then 2 else 1) ≤ 2 := by split <;> decide
  exact Nat.mul_le_mul hpoint htwin

theorem coolantBad_iff (s : State) (inlet flow : Nat) :
    s.coolantBad inlet flow = true ↔ inlet < 15 ∨ 40 < inlet ∨ flow < s.flowNeed := by
  show (decide (inlet < 15) || decide (inlet > 40) || decide (flow < s.flowNeed)) = true ↔ _
  simp only [Bool.or_eq_true, decide_eq_true_eq, gt_iff_lt, or_assoc]

theorem coolantLow_answers (hp : s.power.rails = true) :
    Answers (.coolantLow inlet outlet flow ms) s
      (if (s.cooled inlet outlet flow).coolantBad inlet flow ∧ ms > 1000 then (s.cooled inlet outlet flow).thermalFlag 14
        else s.cooled inlet outlet flow) :=
  answers_of_done rfl hp

/-- A reading within every limit of every operating point is kept and sets no flag. -/
theorem coolantLow_within (hp : s.power.rails = true) (hlo : 15 ≤ inlet) (hhi : inlet ≤ 40) (hf : 680 ≤ flow) :
    Answers (.coolantLow inlet outlet flow ms) s (s.cooled inlet outlet flow) := by
  have hneed := flowNeed_le (s.cooled inlet outlet flow)
  have hok : ¬ (s.cooled inlet outlet flow).coolantBad inlet flow = true := by
    rw [coolantBad_iff]
    omega
  have h := coolantLow_answers (inlet := inlet) (outlet := outlet) (flow := flow) (ms := ms) hp
  rwa [if_neg fun ⟨hbad, _⟩ => hok hbad] at h

/-- A limit broken for more than 1 s sets the flag, whichever limit it is. -/
theorem coolantLow_broken (hp : s.power.rails = true) (hbad : inlet < 15 ∨ 40 < inlet ∨ flow < (s.cooled inlet outlet flow).flowNeed)
    (hms : 1000 < ms) : Answers (.coolantLow inlet outlet flow ms) s ((s.cooled inlet outlet flow).thermalFlag 14) := by
  have h := coolantLow_answers (inlet := inlet) (outlet := outlet) (flow := flow) (ms := ms) hp
  rwa [if_pos ⟨(coolantBad_iff _ _ _).mpr hbad, hms⟩] at h

end Coolant

/-! ## WHOLE_DIE_FAULT (R28) -/

section WholeDie
variable {s : State}

theorem hubDieFault_answers (hp : s.power.rails = true) {hub : Nat} (hh : isHub hub = true) :
    Answers (.wholeDieFault (.hubDie hub)) s ((s.loseHub hub).stopAll.report (hub != 8) [17 - hub]) :=
  answers_of_onUnit rfl hh hp

theorem computeDieFault_answers (hp : s.power.rails = true) {die : Nat} (hd : die < 8) :
    Answers (.wholeDieFault (.computeDie die)) s (s.stopAll.report true [8, 9]) :=
  answers_of_onUnit rfl (decide_eq_true hd) hp

theorem rowRoutesFault_answers (hp : s.power.rails = true) :
    Answers (.wholeDieFault .rowRoutes) s (s.stopAll.report true [8, 9]) :=
  answers_of_done rfl hp

end WholeDie

/-- Settles O53: each clause is one side of the check that the command makes (WARN_C, 110 °C and no trip yet, `State.coolantBad`); a fault
of a whole die answers its meaning outright, and that both hubs report one off the hubs is the model's choice (log entry 48). -/
theorem thermalAndFaultsRun : Obligations.ThermalAndFaultsRun := by
  intro s hp
  refine ⟨fun die c hd hc => ?_, fun die c hd hc => ?_, fun die c hd hc => ?_, fun die c hd hc hn => ?_,
    fun inlet outlet flow ms hlo hhi hf => ?_, fun inlet outlet flow ms hi hms => ?_, fun hub hh => ?_, fun die hd => ?_, ?_⟩
  · have h := thermalWarn_answers (c := c) hp hd
    rwa [if_neg (Nat.not_le.mpr hc)] at h
  · have h := thermalWarn_answers (c := c) hp hd
    rwa [if_pos hc] at h
  · exact thermalTrip_below hp hd hc
  · exact thermalTrip_first hp hd hc hn
  · exact coolantLow_within hp hlo hhi hf
  · exact coolantLow_broken hp (.inr (.inl hi)) hms
  · exact hubDieFault_answers hp hh
  · exact computeDieFault_answers hp hd
  · exact rowRoutesFault_answers hp

end Sys2Proof.Machine
end

section
/-! SUPPORT. Proofs of the statements about handshake timing and plumb time: the idle tick, the current-slew governor, sync exchanges,
counter captures and the ductus rings (R29 to R54, R444 to R449). -/

namespace Sys2Proof.Machine

/-! ## Folds that leave a part of the state alone -/

/-- What no step of a fold changes the fold does not change. -/
theorem foldl_keeps {α β : Type} (part : State → β) {f : State → α → State} (h : ∀ s x, part (f s x) = part s) (l : List α) (s : State) :
    part (l.foldl f s) = part s := by
  induction l generalizing s with
  | nil => rfl
  | cons x t ih => rw [List.foldl_cons, ih, h]

/-! ## The idle tick (R34; log entry 4) -/

section Tick
variable (s : State)

/-- What the work of a tick besides the plumb count leaves alone: plumb time, registers, memory and the waiting commands. -/
def State.still : Plumb × List (Nat × BitVec 64) × List (Nat × BitVec 64) × List (Nat × BitVec 64) × List Host.Cell × List Instr :=
  (s.plumb, s.regs, s.pend, s.live, s.mem, s.pending)

/-- A rise of a counter changes the counters alone. -/
theorem count_eq (cls die idx c n : Nat) : ∃ l, s.count cls die idx c n = { s with counters := l } := by
  unfold State.count
  extract_lets is
  split
  · exact ⟨_, rfl⟩
  · exact ⟨_, rfl⟩

@[simp] theorem count_still (cls die idx c n : Nat) : (s.count cls die idx c n).still = s.still := by
  obtain ⟨l, h⟩ := count_eq s cls die idx c n
  rw [h]
  rfl

@[simp] theorem setRun_still (lead : Nat) (f : Run → Run) : (s.setRun lead f).still = s.still := rfl

@[simp] theorem setQueue_still (c q : Nat) (f : Queue → Queue) : (s.setQueue c q f).still = s.still := rfl

@[simp] theorem tickGated_still : s.tickGated.still = s.still :=
  foldl_keeps State.still (fun s k => by split <;> simp) _ s

@[simp] theorem tickHeld_still : s.tickHeld.still = s.still := by
  refine foldl_keeps State.still (fun s w => ?_) _ s
  split
  · exact count_still ..
  · split
    · exact count_still ..
    · rfl

@[simp] theorem tickCore_still (r : Run) (no : Nat) : (s.tickCore r no).still = s.still := by
  unfold State.tickCore
  split
  · rfl
  · simp

@[simp] theorem tickStalls_still : s.tickStalls.still = s.still :=
  foldl_keeps State.still (fun s r => foldl_keeps State.still (fun s no => tickCore_still s r no) _ s) _ s

@[simp] theorem tickFill_still (r : Run) (k : Nat) : (s.tickFill r k).still = s.still := by
  unfold State.tickFill
  split
  · exact (foldl_keeps State.still (fun s no => by split <;> simp) _ _).trans (setQueue_still s _ _ _)
  · rfl

@[simp] theorem tickFills_still : s.tickFills.still = s.still :=
  foldl_keeps State.still (fun s r => foldl_keeps State.still (fun s k => tickFill_still s r k) _ s) _ s

@[simp] theorem tickTelemetry_still : s.tickTelemetry.still = s.still := by
  unfold State.tickTelemetry
  split
  · rfl
  · rfl

end Tick

theorem tick_dark {s : State} (h : s.power.rails = false) : tick s = s := if_neg (by simp [h])

/-- With the rails on a tick advances plumb time and moves no register, memory or waiting command. -/
theorem tick_still {s : State} (h : s.power.rails = true) : (tick s).still = ({ s with plumb := s.plumb.tick } : State).still := by
  simp [tick, h]

theorem plumbTick_now {p : Plumb} (h : p.ahead = 0) : p.tick.now = p.now + 1#64 := by
  simp [Plumb.tick, h]

/-- Settles O2: of a tick only the plumb count is about plumb time; that an idle step is a tick is the model's choice (log entry 4). -/
theorem idleStepIsOneTick : Obligations.IdleStepIsOneTick := by
  intro s hq
  have parts (hp : s.power.rails = true) := by simpa only [State.still, Prod.mk.injEq] using tick_still hp
  refine ⟨by simp only [step, hq], tick_dark, fun hp => ?_, fun hp ha => ?_⟩
  · obtain ⟨hplumb, hregs, hpend, hlive, hmem, hqueue⟩ := parts hp
    exact ⟨hplumb, ⟨hregs, hpend, hlive⟩, hmem, hqueue⟩
  · obtain ⟨hplumb, -⟩ := parts hp
    rw [hplumb, plumbTick_now ha]

/-! ## The current-slew governor (R444 to R447) -/

section Governor
variable {s : State} {die e k : Nat}

/-- The first waiting unit of a die gets its grant (R446). -/
def State.grantUnit (s : State) (die u : Nat) : State :=
  ({ s with power := { s.power with waiting := s.power.waiting.filter (· != u), granted := addUnit s.power.granted u } } : State).governed die

theorem governorGrant_answers {u : Nat} (hp : s.power.rails = true) (hd : die < 10)
    (hu : s.power.waiting.find? (fun u => u / 256 == die) = some u) :
    Answers (.governorGrant die) s (if s.governorReady die = true then s.grantUnit die u else s) := by
  refine answers_of_onUnit (ok := decide (die < 10)) (what := "die") ?_ (decide_eq_true hd) hp
  show execGovernorGrant die s = _
  simp only [execGovernorGrant, hu]
  rfl

/-- A null-beating engine is off its beats, and the grant of a core ends with its last one where its cluster runs nothing (R447). -/
def State.releaseEngine (s : State) (e : Nat) : State :=
  let engines := s.engines.filter (fun x => x.no != e)
  (if engines.any (fun x => x.no / 4 == e / 4) || !(s.runsOn (e / 64)).isEmpty then { s with engines := engines }
    else { s with engines := engines, power := { s.power with granted := s.power.granted.filter (fun u => u / 2 != e / 4) } } : State).governed
    (e / 512)

theorem nullBeatRelease_answers (hp : s.power.rails = true) (he : e < 4096) (hn : (s.engine e).nullBeat = true) :
    Answers (.nullBeatRelease e) s (if s.governorReady (e / 512) = true then s.releaseEngine e else s) := by
  refine answers_of_onUnit (ok := decide (e < 4096)) (what := "engine") ?_ (decide_eq_true he) hp
  show execNullBeatRelease e s = _
  simp only [execNullBeatRelease, hn, Bool.true_and]
  rfl

end Governor

/-! ## CLUSTER_GATE (R449, R453) -/

section Gate
variable {s : State} {k : Nat}

/-- GATE_DELAY in force in µs; 0 acts as 1 (R453). -/
def State.gateDelay (s : State) : Nat := if s.cfg (dieAt 8) .pwrCfg 16 16 = 0 then 1 else s.cfg (dieAt 8) .pwrCfg 16 16

theorem gateDelay_eq_max (s : State) : s.gateDelay = max 1 (s.cfg (dieAt 8) .pwrCfg 16 16) := by
  unfold State.gateDelay
  split <;> omega

/-- A cluster may gate: it is present and idle in S1, and GATE_DELAY has passed since its last command (R449). -/
def State.MayGate (s : State) (k : Nat) : Prop :=
  s.power.st = .s1 ∧ s.power.moving = none ∧ s.present k = true ∧ (s.runsOn k).isEmpty = true
    ∧ (!s.engines.any (fun e => e.nullBeat && e.no / 64 == k)) = true
    ∧ s.gateDelay * 4000 ≤ (s.plumb.now - (s.keystone k).lastCmd).toNat

theorem clusterGate_answers (hp : s.power.rails = true) (hk : k < 64) (h : s.MayGate k) :
    Answers (.clusterGate k) s (s.setKeystone k (fun x => { x with gated := true })) := by
  refine answers_of_onUnit (ok := clusterOk k) (what := "cluster") ?_ (decide_eq_true hk) hp
  exact congrArg (onUnit (clusterOk k) "cluster" s) (if_pos h)

end Gate

/-! ## GOVERNOR_SUPPLY (R30) -/

section Supply
variable {s : State}

/-- The core supply once a millisecond has passed since its last step: one step of 10 mV towards what the hottest junction allows (R30). -/
def State.supplyMoved (s : State) : State :=
  if 95 < s.hottest then (if 560 ≤ s.power.supply then (s.supplyStep (s.power.supply - 10)).thermalFlag 13 else s)
  else if s.power.supply + 10 ≤ pointSupply s.sec.point then s.supplyStep (s.power.supply + 10)
  else s

theorem governorSupply_answers (hp : s.power.rails = true) (ht : 4000000 ≤ (s.plumb.now - s.power.lastStep).toNat) :
    Answers .governorSupply s s.supplyMoved :=
  answers_of_done (congrArg (done s) (if_neg (Nat.not_lt.mpr ht))) hp

theorem supplyMoved_down (hh : 95 < s.hottest) (hs : 560 ≤ s.power.supply) :
    s.supplyMoved = (s.supplyStep (s.power.supply - 10)).thermalFlag 13 := by
  rw [State.supplyMoved, if_pos hh, if_pos hs]

theorem supplyMoved_lowest (hh : 95 < s.hottest) (hs : s.power.supply < 560) : s.supplyMoved = s := by
  rw [State.supplyMoved, if_pos hh, if_neg (Nat.not_le.mpr hs)]

theorem supplyMoved_up (hh : s.hottest ≤ 95) (hs : s.power.supply + 10 ≤ pointSupply s.sec.point) :
    s.supplyMoved = s.supplyStep (s.power.supply + 10) := by
  rw [State.supplyMoved, if_neg (Nat.not_lt.mpr hh), if_pos hs]

end Supply

/-- Settles O20: the grant and the release answer one change of the die's current under its governor; a supply step past its millisecond is
the branch of R30 that the hottest junction selects. -/
theorem governorRuns : Obligations.GovernorRuns := by
  intro s hp
  refine ⟨fun die u hd hu => governorGrant_answers hp hd hu, fun e he hn => nullBeatRelease_answers hp he hn,
    fun k hk hst hm hpres hrun hbeat ht => ?_, fun ht => ⟨fun hh hs => ?_, fun hh hs => ?_, fun hh hs => ?_⟩⟩
  · rw [← gateDelay_eq_max] at ht
    exact clusterGate_answers hp hk ⟨hst, hm, hpres, by rw [hrun]; rfl, by rw [hbeat]; rfl, ht⟩
  · exact supplyMoved_down hh hs ▸ governorSupply_answers hp ht
  · have h := governorSupply_answers hp ht
    rwa [supplyMoved_lowest hh hs] at h
  · exact supplyMoved_up hh hs ▸ governorSupply_answers hp ht

/-! ## Plumb time (R34 to R36, R39) -/

section Plumb
variable {s : State} {hub port : Nat}

theorem plbApply_answers (hp : s.power.rails = true) (hh : isHub hub = true) :
    Answers (.plbApply hub) s (s.applyNow (dieAt hub) .plb).rootStart :=
  answers_of_onUnit rfl hh hp

/-- An exchange that starts: its t1 awaits an answer (R34). -/
def State.exchangeSent (s : State) : State := { s with plumb := { s.plumb with sent := some s.plumb.now, lastX := s.plumb.now } }

theorem syncExchange_answers (hp : s.power.rails = true) (hf : s.follows = true) (hu : s.usable s.upstream 6 = true)
    (hn : s.plumb.sent = none) (ht : 400000 ≤ (s.plumb.now - s.plumb.lastX).toNat) :
    Answers .syncExchange s (s.exchangeSent.sendOn s.upstream
      (s.exchangeSent.packet (((s.port s.upstream).peer).getD 0) 6 0#16 (.plumbSync (.request s.plumb.now)))) := by
  have hdue : (s.follows && s.usable s.upstream 6 && s.plumb.sent.isNone && decide (s.sinceTicks s.plumb.lastX ≥ syncTicks)) = true := by
    rw [hf, hu, hn]
    exact decide_eq_true ht
  exact answers_of_done (congrArg (done s) (if_pos hdue)) hp

theorem plumbSync_answers {m : SyncMsg} (hp : s.power.rails = true) (hn : port < 30) :
    Answers (.plumbSync port m) s (s.syncMsg port m) :=
  answers_of_onUnit rfl (decide_eq_true hn) hp

/-- A port that has a peer and carries class 6 receives a sync message. -/
theorem syncMsg_request {t1 : BitVec 64} (hpeer : (s.port port).peer.isSome = true) (hc : s.carriesClass port 6 = true) :
    s.syncMsg port (.request t1) = s.sendOn port (s.packet (((s.port port).peer).getD 0) 6 0#16
      (.plumbSync (.reply t1 (s.dieNow (portHub port)) (s.dieNow (portHub port))))) := by
  obtain ⟨x, hx⟩ := Option.isSome_iff_exists.mp hpeer
  simp [State.syncMsg, hx, hc]

/-- The reply to a follower's own exchange on its upstream port steers it. -/
theorem syncMsg_reply {t1 t2 t3 : BitVec 64} (hpeer : (s.port port).peer.isSome = true) (hc : s.carriesClass port 6 = true)
    (hf : s.follows = true) (hu : port = s.upstream) (hs : s.plumb.sent = some t1) :
    s.syncMsg port (.reply t1 t2 t3) =
      s.steer (offsetEstimate t1 t2 t3 s.plumb.now (s.cfg (dieAt (portHub port)) (.plbPortAsym port) 0 16)) := by
  obtain ⟨x, hx⟩ := Option.isSome_iff_exists.mp hpeer
  subst hu
  simp [State.syncMsg, hx, hc, hf, hs]

/-- The exchange under way has ended without an answer. -/
def State.exchangeLost (s : State) : State := { s with plumb := { s.plumb with sent := none } }

/-- The exchange under way is missed, one more in a row (R36). -/
def State.exchangeLate (s : State) : State :=
  { s with plumb := { s.plumb with sent := none, missed := s.plumb.missed + 1, good := 0 } }

theorem exchangeMissed_down (hp : s.power.rails = true) (hf : s.follows = true) (hc : s.carriesClass s.upstream 6 = false) :
    Answers .exchangeMissed s (if s.plumb.st = .locked then s.exchangeLost.plumbMove .holdover else s.exchangeLost) := by
  refine answers_of_done (?_ : execExchangeMissed s = _) hp
  simp only [execExchangeMissed, hf, hc]
  rfl

theorem exchangeMissed_late (hp : s.power.rails = true) (hf : s.follows = true) (hc : s.carriesClass s.upstream 6 = true)
    (hs : s.plumb.sent.isSome = true) (ht : 400000 ≤ (s.plumb.now - s.plumb.lastX).toNat) :
    Answers .exchangeMissed s (if s.plumb.st = .locked ∧ 3 ≤ s.plumb.missed + 1 then s.exchangeLate.plumbMove .holdover
      else s.exchangeLate) := by
  have hlate : s.sinceTicks s.plumb.lastX ≥ syncTicks := ht
  refine answers_of_done (?_ : execExchangeMissed s = _) hp
  simp only [execExchangeMissed, hf, hc, hs, hlate, decide_true]
  rfl

theorem holdoverTimeout_answers (hp : s.power.rails = true) (hst : s.plumb.st = .holdover)
    (ht : 400000000 ≤ (s.plumb.now - s.plumb.entered).toNat) : Answers .holdoverTimeout s (s.plumbMove .unsync) :=
  answers_of_done (congrArg (done s) (if_pos ⟨hst, ht⟩)) hp

end Plumb

/-- At an operating point and a junction from 25 to 95 °C the beat rate is that of R29. -/
theorem beatRateWindow_answers {s : State} {die t r : Nat} (hp : s.power.rails = true) (hd : die < 8)
    (hj : s.power.junction[die]? = some t) (hlo : 25 ≤ t) (hhi : t ≤ 95) (hr : rateAt s.power.supply = some r) :
    Answers (.beatRateWindow die) s
      (s.draw.2.setReg (dieAt die) .plbBeatRate (BitVec.ofNat 64 (r / (1000 + t - 65) % 65536))) := by
  have hin : ¬ (t < 25 ∨ 95 < t) := by omega
  have hdraw : rateAt s.draw.2.power.supply = some r := hr
  refine answers_of_onUnit (ok := decide (die < 8)) (what := "compute die") ?_ (decide_eq_true hd) hp
  show execBeatRateWindow die s = _
  simp only [execBeatRateWindow, hj, Option.getD_some, if_neg hin, hdraw]

/-- Settles O26: each clause is one branch of the command's meaning. That a root keeps a present time beyond PLB_EPOCH, and that a request
is answered with t2 = t3, is the model's choice (log entry 91). -/
theorem plumbRuns : Obligations.PlumbRuns := by
  intro s hp
  refine ⟨fun hub u hh hu => ?_, fun hf hu hn ht => syncExchange_answers hp hf hu hn ht, fun port t1 hn hpeer hc => ?_,
    fun port t1 t2 t3 hn hpeer hc hf hu hs => ?_, fun hf hc => exchangeMissed_down hp hf hc,
    fun hf hc hs ht => exchangeMissed_late hp hf hc hs ht, fun hst ht => holdoverTimeout_answers hp hst ht,
    fun die t r hd hj hlo hhi hr => beatRateWindow_answers hp hd hj hlo hhi hr⟩
  · exact hu ▸ plbApply_answers hp hh
  · exact syncMsg_request hpeer hc ▸ plumbSync_answers hp hn
  · exact syncMsg_reply hpeer hc hf hu hs ▸ plumbSync_answers hp hn

/-! ## Ductus rings (R43, R47, R48) -/

section Rings
variable {s : State} {hub : Nat} {v : BitVec 64}

theorem serves_iff (hub d : Nat) : serves hub d = true ↔ d < 10 ∧ servingHub d = hub := by
  simp [serves]

/-- A fold over the dies that an apply names and its hub serves is no change where it names none of them. -/
theorem foldl_unnamed {f : State → Nat → State} (hv : ∀ d, d < 10 → servingHub d = hub → fld v d 1 = 0)
    (hf : ∀ s d, ¬ (fld v d 1 = 1 ∧ serves hub d = true) → f s d = s) (l : List Nat) (s : State) : l.foldl f s = s :=
  foldl_keeps id (fun s d => hf s d fun ⟨hn, hs⟩ => by
    obtain ⟨hd, hh⟩ := (serves_iff hub d).mp hs
    rw [hv d hd hh] at hn
    exact absurd hn (by decide)) l s

theorem ducApplyAt_unnamed (hv : ∀ d, d < 10 → servingHub d = hub → fld v d 1 = 0) : s.ducApplyAt hub v = s :=
  foldl_unnamed hv (fun _ _ h => if_neg h) _ s

theorem cntApplyAt_unnamed (hv : ∀ d, d < 10 → servingHub d = hub → fld v d 1 = 0) : s.cntApplyAt hub v = s :=
  foldl_unnamed hv (fun _ _ h => if_neg h) _ s

theorem ducApply_answers (hp : s.power.rails = true) (hh : isHub hub = true) : Answers (.ducApply hub v) s (s.ducApplyAt hub v) :=
  answers_of_onUnit rfl hh hp

theorem cntApply_answers (hp : s.power.rails = true) (hh : isHub hub = true) : Answers (.cntApply hub v) s (s.cntApplyAt hub v) :=
  answers_of_onUnit rfl hh hp

theorem ductusHeldFlush_answers {die : Nat} (hp : s.power.rails = true) (hd : die < 10) :
    Answers (.ductusHeldFlush die) s ((s.ringForce die).flushHeld die) :=
  answers_of_onUnit rfl (decide_eq_true hd) hp

end Rings

/-- Settles O28: the two applies fold over the dies that they name; when an enabled ring is checked is the model's choice (log entry 35). -/
theorem ringsRun : Obligations.RingsRun := by
  intro s hp
  refine ⟨fun hub v hh hv => ⟨?_, ?_⟩, fun hub v hh => ?_, fun hub v hh => cntApply_answers hp hh,
    fun die hd => ductusHeldFlush_answers hp hd⟩
  · have h := ducApply_answers (v := v) hp hh
    rwa [ducApplyAt_unnamed hv] at h
  · have h := cntApply_answers (v := v) hp hh
    rwa [cntApplyAt_unnamed hv] at h
  · have h := ducApply_answers (v := v) hp hh
    simpa only [State.ducApplyAt, Bool.not_eq_true'] using h

/-! ## What stores and events leave alone (R43 to R48, R458) -/

section Aside
variable (s : State)

/-- The state with everything blank that a store at memory or a ductus event can change: registers with their groups, memory with its marks
and lines, rings, counters, version stamps, and packets on their way out. -/
def State.aside : State :=
  { s with regs := [], pend := [], live := [], mem := [], poison := [], indet := [], zeroClear := [], llms := [], rings := [], counters := [],
           shards := [], flows := [], ports := [], sends := [], sentOut := [], routeWait := [], mirror := [], nextTag := 0, fresh := 0 }

theorem capture_of_aside {s t : State} (h : t.aside = s.aside) : t.capture = s.capture :=
  show t.aside.capture = s.aside.capture from congrArg State.capture h

/-- Both branches of a choice leave it alone. -/
theorem ite_aside {c : Prop} [Decidable c] {s t u : State} (ht : t.aside = s.aside) (hu : u.aside = s.aside) :
    (if c then t else u).aside = s.aside := by
  split
  · exact ht
  · exact hu

@[simp] theorem setReg_aside (b : Nat) (r : Reg) (v : BitVec 64) : (s.setReg b r v).aside = s.aside := rfl
@[simp] theorem setBits_aside (b : Nat) (r : Reg) (m : Nat) : (s.setBits b r m).aside = s.aside := rfl
@[simp] theorem force_aside (b : Nat) (g : Group) : (s.force b g).aside = s.aside := rfl
@[simp] theorem setRing_aside (d : Nat) (f : Ring → Ring) : (s.setRing d f).aside = s.aside := rfl
@[simp] theorem setLlm_aside (h : Nat) (f : Llm → Llm) : (s.setLlm h f).aside = s.aside := rfl
@[simp] theorem setPort_aside (n : Nat) (f : Port → Port) : (s.setPort n f).aside = s.aside := rfl
@[simp] theorem stampShards_aside (h o l : Nat) (t : BitVec 64) : (s.stampShards h o l t).aside = s.aside := rfl

@[simp] theorem raise_aside (hub n : Nat) : (s.raise hub n).aside = s.aside := ite_aside (setBits_aside ..) rfl

@[simp] theorem count_aside (cls die idx c n : Nat) : (s.count cls die idx c n).aside = s.aside := by
  obtain ⟨l, h⟩ := count_eq s cls die idx c n
  rw [h]
  rfl

/-! ### Packets -/

@[simp] theorem meter_aside (port remote : Nat) (job : BitVec 16) (cls sent received : Nat) :
    (s.meter port remote job cls sent received).aside = s.aside :=
  ite_aside rfl (ite_aside rfl (ite_aside rfl rfl))

@[simp] theorem passOn_aside (port : Nat) (p : Packet) : (s.passOn port p).aside = s.aside := by
  unfold State.passOn
  extract_lets s₁ s₂
  have h₂ : s₂.aside = s.aside := by simp only [s₂, s₁, setPort_aside, count_aside, meter_aside]
  clear_value s₂
  exact h₂

@[simp] theorem stampSend_aside (hub : Nat) (p : Packet) : (s.stampSend hub p).2.aside = s.aside := by
  unfold State.stampSend
  split
  · split
    · rfl
    · rfl
  · rfl

@[simp] theorem sendOn_aside (port : Nat) (p : Packet) : (s.sendOn port p).aside = s.aside :=
  (passOn_aside ..).trans (stampSend_aside ..)

/-- A choice among several ports draws a free value; every other one reads the state. -/
@[simp] theorem choosePort_aside (ports : List Nat) (p : Packet) : (s.choosePort ports p).2.aside = s.aside := by
  unfold State.choosePort
  extract_lets ok
  split
  · rfl
  · rcases ok with _ | ⟨n, _ | ⟨m, l⟩⟩
    · rfl
    · rfl
    · rfl

@[simp] theorem mirrorSend_aside (hub m tag : Nat) (body : Body) (e : MirrorLine) : (s.mirrorSend hub m tag body e).aside = s.aside := by
  unfold State.mirrorSend
  extract_lets dst cls pkg p s₁
  have h₁ : s₁.aside = s.aside := by
    have hc := choosePort_aside s (partnerPorts hub) p
    unfold s₁
    split
    · next h =>
      rw [h] at hc
      exact (sendOn_aside ..).trans hc
    · next h =>
      rw [h] at hc
      exact hc
  exact h₁

@[simp] theorem mirrorBytes_aside (hub m off : Nat) (bs : Bytes) : (s.mirrorBytes hub m off bs).aside = s.aside :=
  (mirrorSend_aside ..).trans rfl

@[simp] theorem mirrorLine_aside (hub off : Nat) (bs : Bytes) : (s.mirrorLine hub off bs).aside = s.aside :=
  ite_aside rfl (foldl_keeps State.aside (fun s m => ite_aside (mirrorBytes_aside s hub m off bs) rfl) _ s)

/-! ### Stores -/

@[simp] theorem noteWrite_aside (hub part hint key : Nat) : (s.noteWrite hub part hint key).aside = s.aside := by
  have hdem : ∀ dem : Bool, (if dem then (s.setBits (dieAt hub) .llmStatus 4).raise hub srcLlm else s).aside = s.aside :=
    fun dem => ite_aside ((raise_aside ..).trans (setBits_aside ..)) rfl
  exact ite_aside rfl (ite_aside (hdem _) ((setLlm_aside ..).trans (hdem _)))

@[simp] theorem clearZeroBit_aside (space off : Nat) : (s.clearZeroBit space off).aside = s.aside := ite_aside rfl rfl

@[simp] theorem writeLine_aside (hub part hint space off : Nat) (bs : Bytes) (stamp : BitVec 64) :
    (s.writeLine hub part hint space off bs stamp).aside = s.aside := by
  have hmark : ((s.noteWrite hub part hint (memKey space off)).clearZeroBit space off).aside = s.aside := by simp
  exact ite_aside ((mirrorLine_aside ..).trans hmark) hmark

@[simp] theorem store_aside (part hint space off : Nat) (bs : Bytes) (stamp : BitVec 64) :
    (s.store part hint space off bs stamp).aside = s.aside := by
  refine foldl_keeps State.aside (fun s x => ?_) _ s
  obtain ⟨o, b⟩ := x
  dsimp only
  split
  · exact writeLine_aside ..
  · rfl

/-! ### Events -/

@[simp] theorem loseEvent_aside (die : Nat) : (s.loseEvent die).aside = s.aside := raise_aside ..

@[simp] theorem writeEvent_aside (die : Nat) (e : Event) : (s.writeEvent die e).aside = s.aside :=
  ite_aside (loseEvent_aside ..) ((store_aside ..).trans (setRing_aside ..))

@[simp] theorem flushHeld_aside (die : Nat) : (s.flushHeld die).aside = s.aside :=
  ite_aside ((foldl_keeps State.aside (fun s e => writeEvent_aside s die e) _ _).trans (setRing_aside ..)) rfl

@[simp] theorem event_aside (die kind ctx unit : Nat) (status : BitVec 8) (payload : Bytes) :
    (s.event die kind ctx unit status payload).aside = s.aside := by
  unfold State.event
  extract_lets s₁ r e s₂
  have h₂ : s₂.aside = s.aside := (flushHeld_aside ..).trans (force_aside ..)
  have hlost : (s₂.loseEvent die).aside = s.aside := (loseEvent_aside ..).trans h₂
  exact ite_aside (ite_aside ((setRing_aside ..).trans h₂) hlost) (ite_aside ((writeEvent_aside ..).trans h₂) hlost)

@[simp] theorem violateArea_aside (hub off : Nat) : (s.violateArea hub off).aside = s.aside := by
  unfold State.violateArea
  extract_lets v s₁
  have h₁ : s₁.aside = s.aside := (raise_aside ..).trans (setReg_aside ..)
  exact (event_aside ..).trans h₁

end Aside

/-! ## Captures (R51, R53) -/

section Captures
variable {s : State} {u : UnitId} {hub : Nat}

/-- The dump bases take effect at an arm (R53). -/
def State.captureBases (s : State) (T : BitVec 64) : State :=
  (List.range 10).foldl (fun s d => s.force (dieAt (servingHub d)) (.cntDump d)) (s.setReg (dieAt 8) .cntCaptureAt T)

@[simp] theorem captureBases_capture (T : BitVec 64) : (s.captureBases T).capture = s.capture :=
  foldl_keeps State.capture (fun _ _ => force_capture ..) _ _

/-- A capture armed at T under the next number (R51). -/
def Capture.arm (c : Capture) (T : BitVec 64) : Capture :=
  { st := .armed, id := c.id + 1#32, t := T, lateAny := false, lateNo := 0, latches := [], meters := [], dumped := [] }

theorem captureAt_arms (T : BitVec 64) (h : s.capture.st = .idle ∨ s.capture.st = .done) :
    s.captureAt T = { s.captureBases T with capture := s.capture.arm T } := by
  rw [← captureBases_capture (s := s) T]
  rcases h with h | h
  · simp only [State.captureAt, h]
    rfl
  · simp only [State.captureAt, h]
    rfl

theorem captureAt_rejected (T : BitVec 64) (h : s.capture.st = .armed ∨ s.capture.st = .latched ∨ s.capture.st = .dumping) :
    s.captureAt T = s.setBits (dieAt 8) .cntCaptureStatus 16 := by
  rcases h with h | h | h
  · simp only [State.captureAt, h]
  · simp only [State.captureAt, h]
  · simp only [State.captureAt, h]

theorem cntCaptureAt_answers {T : BitVec 64} (hp : s.power.rails = true) : Answers (.cntCaptureAt T) s (s.captureAt T) :=
  answers_of_done rfl hp

theorem captureCancel_armed {v : BitVec 64} (hv : fld v 0 1 = 1) (hst : s.capture.st = .armed) :
    s.captureCancel v = { s with capture := { s.capture with st := .idle, latches := [], meters := [] } } :=
  if_pos ⟨hv, hst⟩

theorem captureCancel_zero {v : BitVec 64} (hv : fld v 0 1 = 0) : s.captureCancel v = s :=
  if_neg fun ⟨h, _⟩ => Nat.zero_ne_one (hv.symm.trans h)

theorem cntCaptureCancel_answers {v : BitVec 64} (hp : s.power.rails = true) : Answers (.cntCaptureCancel v) s (s.captureCancel v) :=
  answers_of_done rfl hp

/-! ### Arms and latches -/

/-- The arm reaches a unit that has none: the unit latches at once when T has passed there, and else waits for it (R51). -/
theorem captureArmReceived_answers (hp : s.power.rails = true) (hu : unitOk u = true) (hst : s.capture.st = .armed)
    (hl : s.latchOf u = none) :
    Answers (.captureArmReceived u) s (if s.capture.t.toNat < (s.dieNow u.die).toNat then s.latchUnit u (s.dieNow u.die) true
      else { s with capture := { s.capture with
        latches := s.capture.latches ++ [{ unit := u, armed := true, stamp := none, late := false, values := [] }] } }) := by
  have hfree : ¬ (s.capture.st ≠ .armed ∨ (s.latchOf u).isSome = true) := by simp [hst, hl]
  exact answers_of_onUnit (congrArg (onUnit (unitOk u) "counted unit" s) (if_neg hfree)) hu hp

theorem captureLatch_answers {l : Latch} (hp : s.power.rails = true) (hu : unitOk u = true) (hst : s.capture.st = .armed)
    (hl : s.latchOf u = some l) (hs : l.stamp = none) (ht : s.capture.t.toNat ≤ (s.dieNow u.die).toNat) :
    Answers (.captureLatch u) s (s.latchUnit u s.capture.t false) := by
  refine answers_of_onUnit (ok := unitOk u) (what := "counted unit") ?_ hu hp
  show execCaptureLatch u s = _
  have hdue : s.capture.st = .armed ∧ l.stamp.isNone = true ∧ s.capture.t.toNat ≤ (s.dieNow u.die).toNat := ⟨hst, by rw [hs]; rfl, ht⟩
  simp only [execCaptureLatch, hl, if_pos hdue]

/-! ### Dumps -/

@[simp] theorem dumpDie_aside (hub die : Nat) : (s.dumpDie hub die).aside = s.aside := by
  unfold State.dumpDie
  extract_lets base late s₁ rec' ok s₂
  have h₁ : s₁.aside = s.aside := event_aside ..
  have h₂ : s₂.aside = s.aside := ite_aside ((store_aside ..).trans h₁) ((violateArea_aside ..).trans h₁)
  exact (event_aside ..).trans h₂

@[simp] theorem dumpMeters_aside (hub : Nat) : (s.dumpMeters hub).aside = s.aside := by
  unfold State.dumpMeters
  extract_lets base mine s₁
  have h₁ : s₁.aside = s.aside := rfl
  exact ite_aside (violateArea_aside ..) ((foldl_keeps State.aside (fun s x => ite_aside (store_aside ..) rfl) mine s₁).trans h₁)

/-- The records of a hub's dies and its meter table are written (R51, R351). -/
def State.dumpHub (s : State) (hub : Nat) : State :=
  (((List.range 10).filter (serves hub)).foldl (fun s d => s.dumpDie hub d) s).dumpMeters hub

/-- A dump writes memory and events, so the capture stands as it was. -/
@[simp] theorem dumpHub_capture : (s.dumpHub hub).capture = s.capture :=
  capture_of_aside ((dumpMeters_aside hub).trans (foldl_keeps State.aside (fun _ _ => dumpDie_aside ..) _ s))

/-- A hub has dumped: the capture is DONE once both have, which source 8 tells, and DUMPING until then (R53). -/
def State.noteDump (s : State) (hub : Nat) : State :=
  let s : State := { s with capture := { s.capture with
    dumped := hub :: s.capture.dumped, st := if (hub :: s.capture.dumped).length = 2 then .done else .dumping } }
  if s.capture.st = .done then s.raise 8 srcCapture else s

theorem noteDump_last (h : s.capture.dumped.length = 1) :
    s.noteDump hub = ({ s with capture := { s.capture with dumped := hub :: s.capture.dumped, st := .done } } : State).raise 8 srcCapture := by
  simp [State.noteDump, h]

theorem noteDump_first (h : s.capture.dumped.length ≠ 1) :
    s.noteDump hub = { s with capture := { s.capture with dumped := hub :: s.capture.dumped, st := .dumping } } := by
  simp [State.noteDump, h]

@[simp] theorem raise_capture (s : State) (hub n : Nat) : (s.raise hub n).capture = s.capture := capture_of_aside (raise_aside ..)

theorem noteDump_dumped (s : State) (hub : Nat) : (s.noteDump hub).capture.dumped = hub :: s.capture.dumped := by
  by_cases h : s.capture.dumped.length = 1
  · rw [noteDump_last h, raise_capture]
  · rw [noteDump_first h]

@[simp] theorem settle_reg (s t : State) (b : Nat) (r : Reg) : (settle s t).reg b r = t.reg b r := rfl

/-- A source that is raised is pending (R401). -/
theorem raise_pending {hub n : Nat} (s : State) (h : isSource n = true) :
    ((s.raise hub n).reg (dieAt hub) (.evtPending (n / 64))).getLsbD (n % 64) = true := by
  have hbit : n % 64 < 64 := Nat.mod_lt n (by decide)
  rw [State.raise, if_pos h, setBits_eq, setReg_reg_same, BitVec.getLsbD_or, BitVec.getLsbD_ofNat, Nat.testBit_two_pow_self]
  simp [hbit]

/-- After the last dump the capture is DONE and its source pending. -/
theorem noteDump_done (h : s.capture.dumped.length = 1) :
    (s.noteDump hub).capture.st = .done ∧ ((s.noteDump hub).reg (dieAt 8) (.evtPending 0)).getLsbD 8 = true := by
  rw [noteDump_last h]
  exact ⟨by rw [raise_capture], raise_pending (n := srcCapture) _ rfl⟩

theorem noteDump_dumping (h : s.capture.dumped.length ≠ 1) : (s.noteDump hub).capture.st = .dumping := by
  rw [noteDump_first h]

theorem captureDump_answers (hp : s.power.rails = true) (hh : isHub hub = true)
    (hst : s.capture.st = .latched ∨ s.capture.st = .dumping) (hn : s.capture.dumped.contains hub = false) (h2 : s.power.st ≠ .s2) :
    Answers (.captureDump hub) s ((s.dumpHub hub).noteDump hub) :=
  answers_of_onUnit (congrArg (onUnit (isHub hub) "hub" s) (if_pos ⟨hst, by rw [hn]; rfl, h2⟩)) hh hp

end Captures

/-- Settles O27: an arm, a cancel and a latch are one branch each; a dump leaves the capture as it was until its hub is noted. That DONE is
source 8 is the model's reading of R401's list (log entry 11). -/
theorem capturesRun : Obligations.CapturesRun := by
  intro s hp
  refine ⟨fun T h => captureAt_arms T h ▸ cntCaptureAt_answers hp, fun T h => captureAt_rejected T h ▸ cntCaptureAt_answers hp,
    fun u hu hst hl ht => ?_, fun u hu hst hl ht => ?_, fun u l hu hst hl hs ht => captureLatch_answers hp hu hst hl hs ht,
    fun hub hh hst hn h2 => ⟨_, captureDump_answers hp hh hst hn h2, ?_⟩,
    fun v hv hst => captureCancel_armed hv hst ▸ cntCaptureCancel_answers hp, fun v hv => ?_⟩
  · have h := captureArmReceived_answers hp hu hst hl
    rwa [if_pos ht] at h
  · have h := captureArmReceived_answers hp hu hst hl
    rwa [if_neg (Nat.not_lt.mpr ht)] at h
  · rw [settle_capture, settle_reg, ← dumpHub_capture (s := s) (hub := hub)]
    exact ⟨noteDump_dumped .., noteDump_done, noteDump_dumping⟩
  · have h := cntCaptureCancel_answers (v := v) hp
    rwa [captureCancel_zero hv] at h

end Sys2Proof.Machine
end

section
/-! SUPPORT. Proofs of the statements about numbers and exact accumulation (R55 to R96), and about the words of the vector unit and the
tensor engines that compute with them (R85 to R92, R98 to R106). -/

namespace Sys2Proof.Machine

/-! ## The fields of a floating code (R57) -/

section Codes
variable {w : Bool} {n : Nat}

/-- The exponent field of an FP16 or FP32 code. -/
def codeExp (w : Bool) (n : Nat) : Nat := n / 2 ^ mantBits w % (expMax w + 1)

/-- Whether the sign bit of a code is set. -/
def codeNeg (w : Bool) (n : Nat) : Bool := n / 2 ^ mantBits w / (expMax w + 1) % 2 == 1

/-- The significand of a finite code, with the hidden bit of a normal one. -/
def codeSig (w : Bool) (n : Nat) : Nat := n % 2 ^ mantBits w + if codeExp w n = 0 then 0 else 2 ^ mantBits w

theorem fpOf_special (h : codeExp w n = expMax w) :
    fpOf w n = if n % 2 ^ mantBits w = 0 then .inf (codeNeg w n) else .nan := if_pos h

/-- A finite code is its significand at its exponent, that of a subnormal code being the least. -/
theorem fpOf_finite (h : codeExp w n ≠ expMax w) :
    fpOf w n = .fin (codeNeg w n) (codeSig w n) (max 1 (codeExp w n) - expBias w - mantBits w) := by
  refine (if_neg h).trans ?_
  by_cases h0 : codeExp w n = 0
  · refine (if_pos h0).trans ?_
    simp [codeSig, codeNeg, h0]
  · refine (if_neg h0).trans ?_
    rw [codeSig, if_neg h0, Nat.max_eq_right (by omega)]
    rfl

theorem codeExp_le : codeExp w n ≤ expMax w := Nat.lt_succ_iff.mp (Nat.mod_lt _ (Nat.succ_pos _))

theorem codeSig_lt : codeSig w n < 2 ^ (mantBits w + 1) := by
  have h := Nat.mod_lt n (Nat.two_pow_pos (mantBits w))
  unfold codeSig
  split <;> omega

end Codes

/-! ## FP16 accumulation (R65) -/

section HalfSums
variable {p : Nat × Nat} {l : List (Nat × Nat)}

/-- A finite FP16 value has 11 significant bits and an exponent from −24 to 5. -/
theorem fpOf_half_bounds {n m : Nat} {s : Bool} {e : Int} (h : fpOf false n = .fin s m e) : m < 2 ^ 11 ∧ -24 ≤ e ∧ e ≤ 5 := by
  by_cases hx : codeExp false n = expMax false
  · rw [fpOf_special hx] at h
    split at h <;> cases h
  · have hle : codeExp false n ≤ 31 := codeExp_le
    have hne : codeExp false n ≠ 31 := hx
    rw [fpOf_finite hx] at h
    cases h
    refine ⟨codeSig_lt, ?_⟩
    simp only [expBias, mantBits, Bool.false_eq_true, if_false]
    omega

/-- A product is finite only as that of two finite values. -/
theorem fpMul_eq_fin {x y : Fp} {s : Bool} {m : Nat} {e : Int} (h : fpMul x y = .fin s m e) :
    ∃ s1 m1 e1 s2 m2 e2, x = .fin s1 m1 e1 ∧ y = .fin s2 m2 e2 ∧ m = m1 * m2 ∧ e = e1 + e2 := by
  unfold fpMul at h
  split at h
  case h_6 s1 m1 e1 s2 m2 e2 =>
    cases h
    exact ⟨_, _, _, _, _, _, rfl, rfl, rfl, rfl⟩
  case h_4 | h_5 => split at h <;> cases h
  all_goals cases h

/-- A finite product of two FP16 values has 22 significant bits and an exponent from −48 to 10. -/
theorem halfProduct_bounds {m : Nat} {s : Bool} {e : Int} (h : halfProduct p = .fin s m e) : m < 2 ^ 22 ∧ -48 ≤ e ∧ e ≤ 10 := by
  obtain ⟨s1, m1, e1, s2, m2, e2, hx, hy, rfl, rfl⟩ := fpMul_eq_fin h
  obtain ⟨hm1, hl1, hu1⟩ := fpOf_half_bounds hx
  obtain ⟨hm2, hl2, hu2⟩ := fpOf_half_bounds hy
  have hm : m1 * m2 < 2 ^ 11 * 2 ^ 11 := Nat.mul_lt_mul'' hm1 hm2
  exact ⟨hm, by omega, by omega⟩

theorem fpInt_natAbs (u : Int) (s : Bool) (m : Nat) (e : Int) : (fpInt u s m e).natAbs = m * 2 ^ (e - u).toNat := by
  cases s
  · rfl
  · exact Int.natAbs_neg _

/-- What a product adds is less than 2^80 units. -/
theorem halfUnits_natAbs_lt (p : Nat × Nat) : (halfUnits p).natAbs < 2 ^ 80 := by
  unfold halfUnits
  split
  next s m e h =>
    obtain ⟨hm, hl, hu⟩ := halfProduct_bounds h
    have he : (e - -48).toNat ≤ 58 := by omega
    rw [fpInt_natAbs]
    calc m * 2 ^ (e - -48).toNat ≤ m * 2 ^ 58 := Nat.mul_le_mul_left m (Nat.pow_le_pow_right (by decide) he)
      _ < 2 ^ 22 * 2 ^ 58 := Nat.mul_lt_mul_of_pos_right hm (by decide)
  next => decide

theorem halfUnits_sum_natAbs_le (l : List (Nat × Nat)) : ((l.map halfUnits).sum).natAbs ≤ l.length * (2 ^ 80 - 1) := by
  induction l with
  | nil => decide
  | cons p t ih =>
    have hp := halfUnits_natAbs_lt p
    simp only [List.map_cons, List.sum_cons, List.length_cons]
    omega

/-- Up to 2^31 products stay in the range of VALUE (R63, R65). -/
theorem halfUnits_sum_range (h : l.length ≤ 2 ^ 31) : exaBot ≤ (l.map halfUnits).sum ∧ (l.map halfUnits).sum ≤ exaTop := by
  have hs := halfUnits_sum_natAbs_le l
  simp only [exaBot, exaTop]
  omega

/-- The word of a list of products, said without an order: their exact sum, and the flags of those that are not finite. -/
def halfWord (l : List (Nat × Nat)) : Exa :=
  { value := (l.map halfUnits).sum, inexactLow := false, overflow := false, nan := l.any (fun p => halfProduct p == .nan),
    posInf := l.any (fun p => halfProduct p == .inf false), negInf := l.any (fun p => halfProduct p == .inf true),
    blot := false, empty := l.isEmpty, anchor := 0 }

theorem sum_perm {l l' : List Int} (h : l'.Perm l) : l'.sum = l.sum := by
  induction h with
  | nil => rfl
  | cons x _ ih => rw [List.sum_cons, List.sum_cons, ih]
  | swap x y l =>
    simp only [List.sum_cons]
    omega
  | trans _ _ ih ih' => exact ih.trans ih'

theorem halfWord_perm {l' : List (Nat × Nat)} (h : l'.Perm l) : halfWord l' = halfWord l := by
  simp only [halfWord, sum_perm (h.map halfUnits), h.any_eq, h.isEmpty_eq]

/-- The accumulator that holds the word of a list; the VALUE stored before the guarded sum is judged plays no part. -/
def halfAcc (v : Int) (l : List (Nat × Nat)) : Acc :=
  { word := { halfWord l with value := v }, guard := (l.map halfUnits).sum, pend := [], seen := 0 }

theorem addUnits_of_range {a : Acc} {t : Int} (ho : a.word.overflow = false) (ht : -(2 ^ 127) ≤ t ∧ t < 2 ^ 127)
    (hg : -(2 ^ 127) ≤ a.guard + t ∧ a.guard + t < 2 ^ 127) : a.addUnits t = { a with guard := a.guard + t } := by
  obtain ⟨htl, htu⟩ := ht
  obtain ⟨hgl, hgu⟩ := hg
  have hlow : ¬ (t < -(2 ^ 127) || (a.guard + t < -(2 ^ 127) && t < 2 ^ 127)) = true := by
    simp only [Bool.or_eq_true, Bool.and_eq_true, decide_eq_true_eq]
    omega
  have hhigh : ¬ (t ≥ 2 ^ 127 || a.guard + t ≥ 2 ^ 127) = true := by
    simp only [Bool.or_eq_true, decide_eq_true_eq]
    omega
  simp only [Acc.addUnits, ho, if_neg hlow, if_neg hhigh, Bool.false_eq_true, if_false]

/-- A value that is a multiple of the unit loses no bits. -/
theorem truncTo_of_le {u e : Int} (m : Nat) (h : u ≤ e) : truncTo u m e = (m * 2 ^ (e - u).toNat, false) := if_pos h

/-- A finite product on the grid of a fixed anchor is added whole. -/
theorem addFixed_on_grid {a : Acc} {s : Bool} {m : Nat} {e : Int} (h : a.word.anchor - 48 ≤ e) :
    a.addFixed (.fin s m e) = { a with word := { a.word with empty := false } }.addUnits (fpInt (a.word.anchor - 48) s m e) := by
  simp only [Acc.addFixed, truncTo_of_le m h, Bool.false_eq_true, if_false]
  rfl

/-- One product more, while the word has room for it. -/
theorem halfAcc_add (v : Int) (h : l.length < 2 ^ 31) : (halfAcc v l).add (halfProduct p) = halfAcc v (l ++ [p]) := by
  have hfix : (halfAcc v l).add (halfProduct p) = (halfAcc v l).addFixed (halfProduct p) := if_pos (by decide : (0 : Int) ≠ -128)
  rw [hfix]
  cases hp : halfProduct p with
  | nan => simp [Acc.addFixed, halfAcc, halfWord, halfUnits, hp]
  | inf s => cases s <;> simp [Acc.addFixed, halfAcc, halfWord, halfUnits, hp]
  | fin s m e =>
    obtain ⟨-, hl, -⟩ := halfProduct_bounds hp
    have hu : fpInt (-48) s m e = halfUnits p := by rw [halfUnits, hp]
    have hs := halfUnits_sum_natAbs_le l
    have hb := halfUnits_natAbs_lt p
    rw [addFixed_on_grid hl]
    refine (congrArg _ hu).trans ((addUnits_of_range rfl (by omega) (by dsimp only [halfAcc]; omega)).trans ?_)
    simp [halfAcc, halfWord, hp]

theorem accumulate_halfAcc (v : Int) (l l2 : List (Nat × Nat)) (h : (l ++ l2).length ≤ 2 ^ 31) :
    accumulate (halfAcc v l) (l2.map halfProduct) = halfAcc v (l ++ l2) := by
  induction l2 generalizing l with
  | nil => rw [List.append_nil]; rfl
  | cons p t ih =>
    rw [List.length_append, List.length_cons] at h
    have hstep : (halfAcc v l).add (halfProduct p) = halfAcc v (l ++ [p]) := halfAcc_add v (by omega)
    have hrest := ih (l ++ [p]) (by simp only [List.length_append, List.length_cons, List.length_nil]; omega)
    rw [List.append_assoc] at hrest
    rw [List.map_cons, accumulate, List.foldl_cons, hstep]
    exact hrest

theorem finish_halfAcc (v : Int) (h : l.length ≤ 2 ^ 31) : (halfAcc v l).finish = halfWord l := by
  obtain ⟨hl, hu⟩ := halfUnits_sum_range h
  simp only [Acc.finish, halfAcc, List.isEmpty_nil, if_true, if_neg (Int.not_lt.mpr hl), if_neg (Int.not_lt.mpr hu)]
  rfl

theorem halfSum_eq_halfWord (h : l.length ≤ 2 ^ 31) : halfSum l = halfWord l := by
  have hacc : accumulate (Acc.start 0) (l.map halfProduct) = halfAcc 0 l := accumulate_halfAcc 0 [] l h
  rw [halfSum, hacc, finish_halfAcc 0 h]

/-- A spilled word that is reloaded goes on as if it had not been spilled (R64). -/
theorem reload_halfWord (l : List (Nat × Nat)) : Acc.reload (halfWord l) = halfAcc (l.map halfUnits).sum l := rfl

end HalfSums

/-- Settles O56: a sum of up to 2^31 products is `halfWord` of their list, which no order shows in, and a reload gives back the accumulator
that holds the first part. -/
theorem halfSumsAreExact : Obligations.HalfSumsAreExact := by
  intro l h
  rw [halfSum_eq_halfWord h]
  refine ⟨rfl, rfl, rfl, rfl, fun l' hp => ?_, fun l1 l2 hl => ?_⟩
  · rw [halfSum_eq_halfWord (hp.length_eq ▸ h), halfWord_perm hp]
  · subst hl
    have h1 : l1.length ≤ 2 ^ 31 := Nat.le_trans (by rw [List.length_append]; exact Nat.le_add_right ..) h
    rw [halfSum_eq_halfWord h1, reload_halfWord, accumulate_halfAcc _ _ _ h, finish_halfAcc _ h]

/-! ## EXA128 words in 128 bits (R63) -/

theorem unsext_lt (w : Nat) (i : Int) : unsext w i < 2 ^ w := by
  have hpos : (0 : Int) < Int.ofNat (2 ^ w) := Int.natCast_pos.mpr (Nat.two_pow_pos w)
  have hlt := Int.emod_lt_of_pos i hpos
  have hnn := Int.emod_nonneg i (Int.ne_of_gt hpos)
  rw [unsext, Int.toNat_lt hnn]
  exact hlt

/-- An integer of `w` bits is read back from any number whose low bits are its code. -/
theorem sext_of_mod_eq_unsext {w n : Nat} {i : Int} (hw : 0 < w) (h : n % 2 ^ w = unsext w i) (hl : -((2 ^ (w - 1) : Nat) : Int) ≤ i)
    (hu : i < (2 ^ (w - 1) : Nat)) : sext w n = i := by
  have hpow : 2 ^ w = 2 * 2 ^ (w - 1) := by rw [← Nat.pow_succ', Nat.succ_eq_add_one, Nat.sub_add_cancel hw]
  have hpos := Nat.two_pow_pos (w - 1)
  have hcode : (unsext w i : Int) = i % (2 ^ w : Nat) :=
    Int.toNat_of_nonneg (Int.emod_nonneg i (Int.ne_of_gt (Int.natCast_pos.mpr (Nat.two_pow_pos w))))
  simp only [sext, h, Int.ofNat_eq_natCast]
  by_cases hi : 0 ≤ i
  · have hmod : i % (2 ^ w : Nat) = i := Int.emod_eq_of_lt hi (by omega)
    have hval := hcode.trans hmod
    rw [if_pos (by omega), hval]
  · have hmod : i % (2 ^ w : Nat) = i + (2 ^ w : Nat) := by
      rw [Int.emod_eq_add_self_emod, Int.emod_eq_of_lt (by omega) (by omega)]
    have hval := hcode.trans hmod
    rw [if_neg (by omega), hval]
    omega

theorem b2n_lt_two (b : Bool) : b2n b < 2 := by cases b <;> decide

theorem testBit_of_div_mod {n k : Nat} {b : Bool} (h : n / 2 ^ k % 2 = b2n b) : n.testBit k = b := by
  rw [Nat.testBit_eq_decide_div_mod_eq, h]
  cases b <;> rfl

/-- The fields of a word stand side by side, so each is read back. -/
theorem exaOf_exaNat {x : Exa} (hvl : -(2 ^ 111) ≤ x.value) (hvu : x.value < 2 ^ 111) (hal : -128 ≤ x.anchor) (hau : x.anchor ≤ 127) :
    exaOf (exaNat x) = x := by
  obtain ⟨value, inexactLow, overflow, nan, posInf, negInf, blot, empty, anchor⟩ := x
  dsimp only at hvl hvu hal hau
  have hv := unsext_lt 112 value
  have ha := unsext_lt 8 anchor
  have h0 := b2n_lt_two inexactLow
  have h1 := b2n_lt_two overflow
  have h2 := b2n_lt_two nan
  have h3 := b2n_lt_two posInf
  have h4 := b2n_lt_two negInf
  have h5 := b2n_lt_two blot
  have h6 := b2n_lt_two empty
  simp only [exaOf, exaNat, Exa.mk.injEq]
  refine ⟨sext_of_mod_eq_unsext (by decide) ?_ (by omega) (by omega), testBit_of_div_mod ?_, testBit_of_div_mod ?_, testBit_of_div_mod ?_,
    testBit_of_div_mod ?_, testBit_of_div_mod ?_, testBit_of_div_mod ?_, testBit_of_div_mod ?_,
    sext_of_mod_eq_unsext (by decide) ?_ (by omega) (by omega)⟩
  all_goals omega

/-! ## Codes written back (R57, R58, R73) -/

section WriteBack
variable {w : Bool} {n : Nat}

theorem expMax_eq (w : Bool) : expMax w = 2 * expBias w + 1 := by cases w <;> rfl

theorem expBias_pos (w : Bool) : 0 < expBias w := by cases w <;> decide

theorem infBits_eq (w neg : Bool) : infBits w neg = zeroBits w neg + expMax w * 2 ^ mantBits w := by
  cases neg
  · exact (Nat.zero_add _).symm
  · exact (Nat.add_mul ..).trans (Nat.add_comm _ _)

/-- A code is its sign, its exponent field and its mantissa side by side. -/
theorem code_eq_fields (h : n < (if w then 2 ^ 32 else 2 ^ 16)) :
    n = zeroBits w (codeNeg w n) + codeExp w n * 2 ^ mantBits w + n % 2 ^ mantBits w := by
  cases w
  all_goals
    simp only [Bool.false_eq_true, if_false, if_true] at h
    simp only [zeroBits, codeNeg, codeExp, mantBits, expMax, Bool.false_eq_true, if_false, if_true, beq_iff_eq]
    split <;> omega

/-- A significand of at most `p` bits that already stands on the grid of its rounding stays as it is. -/
theorem roundMag_on_grid {p m : Nat} {emin wt : Int} (u : Option Nat) (hm : m < 2 ^ p)
    (hgrid : max (Int.ofNat m.log2 + wt) emin - (Int.ofNat p - 1) = wt) : roundMag p emin m wt u = (m, wt) := by
  simp only [roundMag, hgrid, Int.sub_self, Int.neg_zero, Int.le_refl, if_true, Int.toNat_zero, Nat.pow_zero, Nat.mul_one,
    if_neg (Nat.ne_of_lt hm)]

theorem codeSig_log2_le (w : Bool) (n : Nat) : (codeSig w n).log2 ≤ mantBits w := by
  by_cases h0 : codeSig w n = 0
  · rw [h0]
    exact Nat.zero_le _
  · exact Nat.le_of_lt_succ ((Nat.log2_lt h0).mpr codeSig_lt)

/-- The significand of a finite code stands on the grid of its format. -/
theorem codeSig_on_grid (w : Bool) (n : Nat) :
    max (Int.ofNat (codeSig w n).log2 + (max 1 (codeExp w n) - expBias w - mantBits w)) (1 - expBias w)
      - (Int.ofNat (mantBits w + 1) - 1) = max 1 (codeExp w n) - expBias w - mantBits w := by
  have hlog := codeSig_log2_le w n
  simp only [Int.ofNat_eq_natCast]
  by_cases h0 : codeExp w n = 0
  · omega
  · have hpos := Nat.two_pow_pos (mantBits w)
    have hge : 2 ^ mantBits w ≤ codeSig w n := by rw [codeSig, if_neg h0]; omega
    have hlog' : mantBits w ≤ (codeSig w n).log2 := (Nat.le_log2 (by omega)).mpr hge
    omega

/-- Nothing of a finite code is lost when it is written. -/
theorem encMag_codeSig (h : n < (if w then 2 ^ 32 else 2 ^ 16)) (hx : codeExp w n ≠ expMax w) (h0 : codeSig w n ≠ 0) (zed : Nat) :
    encMag w (codeNeg w n) zed (codeSig w n) (max 1 (codeExp w n) - expBias w - mantBits w) = Res.of n := by
  have hn := code_eq_fields h
  have hm := Nat.mod_lt n (Nat.two_pow_pos (mantBits w))
  have hle : codeExp w n ≤ expMax w := codeExp_le
  have hmax := expMax_eq w
  have hbias := expBias_pos w
  have hrange : ¬ (max 1 (codeExp w n) - expBias w - mantBits w + (Int.ofNat (mantBits w + 1) - 1) > Int.ofNat (expBias w)) := by
    simp only [Int.ofNat_eq_natCast]
    omega
  simp only [encMag, if_neg hrange, if_neg h0, Nat.add_sub_cancel]
  by_cases hsub : codeExp w n = 0
  · rw [hsub] at hn
    rw [codeSig, if_pos hsub, Nat.add_zero, if_pos hm]
    exact congrArg Res.of (by omega)
  · have hexp : (max 1 (codeExp w n) - expBias w - mantBits w + (Int.ofNat (mantBits w + 1) - 1) + Int.ofNat (expBias w) : Int).toNat
        = codeExp w n := by
      simp only [Int.ofNat_eq_natCast]
      omega
    rw [hexp, codeSig, if_neg hsub, if_neg (by omega), Nat.add_sub_cancel, ← hn]

/-- A finite code is written back as it is. -/
theorem encFp_finite (h : n < (if w then 2 ^ 32 else 2 ^ 16)) (hx : codeExp w n ≠ expMax w) : encFp w (fpOf w n) = Res.of n := by
  rw [fpOf_finite hx]
  by_cases h0 : codeSig w n = 0
  · have hn := code_eq_fields h
    have hpos := Nat.two_pow_pos (mantBits w)
    obtain ⟨hm, he⟩ := Nat.add_eq_zero_iff.mp h0
    have hzero : codeExp w n = 0 := Decidable.byContradiction fun hne => by
      rw [if_neg hne] at he
      omega
    rw [hm, hzero] at hn
    refine (if_pos h0).trans (congrArg Res.of ?_)
    omega
  · refine (if_neg h0).trans ?_
    simp only [encode', Int.ofNat_eq_natCast]
    rw [roundMag_on_grid none codeSig_lt (codeSig_on_grid w n)]
    exact encMag_codeSig h hx h0 _

/-- An infinity is written back as it is, and a NaN as the canonical one. -/
theorem encFp_special (h : n < (if w then 2 ^ 32 else 2 ^ 16)) (hx : codeExp w n = expMax w) :
    encFp w (fpOf w n) = Res.of (if isNan w n then nanBits w else n) := by
  have hnan : isNan w n = (n % 2 ^ mantBits w != 0) := by
    rw [isNan, ← codeExp, hx, beq_self_eq_true, Bool.true_and]
  rw [fpOf_special hx, hnan]
  by_cases hm : n % 2 ^ mantBits w = 0
  · have hn := code_eq_fields h
    rw [hx, hm] at hn
    rw [if_pos hm, if_neg (by simp [hm])]
    refine congrArg Res.of ?_
    rw [infBits_eq]
    exact hn.symm
  · rw [if_neg hm, if_pos (by simp [hm])]
    rfl

end WriteBack

theorem isNan_of_finite {w : Bool} {n : Nat} (hx : codeExp w n ≠ expMax w) : isNan w n = false := by
  rw [isNan, ← codeExp, beq_false_of_ne hx, Bool.false_and]

/-- Settles O57: the fields of a word stand side by side, and the value of a code stands on the grid that it is rounded to. -/
theorem numbersRoundTrip : Obligations.NumbersRoundTrip := by
  refine ⟨fun x => exaOf_exaNat, fun w n hn => ?_⟩
  by_cases hx : codeExp w n = expMax w
  · exact encFp_special hn hx
  · rw [encFp_finite hn hx, isNan_of_finite hx]
    rfl

/-! ## The order of codes (R86) -/

section Order
variable {w : Bool} {a b n : Nat}

/-- The magnitude bits of a code. -/
def codeMag (w : Bool) (n : Nat) : Nat := codeExp w n * 2 ^ mantBits w + n % 2 ^ mantBits w

/-- The magnitude of a finite code in units of the least one of its format. -/
def codeUnits (w : Bool) (n : Nat) : Nat := codeSig w n * 2 ^ (codeExp w n - 1)

/-- A magnitude with a sign. -/
def signed (neg : Bool) (m : Nat) : Int := if neg then -m else m

/-- Magnitude bits are ordered by the exponent field first and then by the mantissa. -/
theorem codeMag_lt_iff : codeMag w a < codeMag w b ↔
    codeExp w a < codeExp w b ∨ (codeExp w a = codeExp w b ∧ a % 2 ^ mantBits w < b % 2 ^ mantBits w) := by
  have ha := Nat.mod_lt a (Nat.two_pow_pos (mantBits w))
  have hb := Nat.mod_lt b (Nat.two_pow_pos (mantBits w))
  unfold codeMag
  rcases Nat.lt_trichotomy (codeExp w a) (codeExp w b) with h | h | h
  · have := Nat.mul_le_mul_right (2 ^ mantBits w) h
    rw [Nat.succ_mul] at this
    omega
  · rw [h]
    omega
  · have := Nat.mul_le_mul_right (2 ^ mantBits w) h
    rw [Nat.succ_mul] at this
    omega

/-- A magnitude is below the least one of the next exponent. -/
theorem codeUnits_lt (w : Bool) (n : Nat) : codeUnits w n < 2 ^ mantBits w * 2 ^ codeExp w n := by
  have hm := Nat.mod_lt n (Nat.two_pow_pos (mantBits w))
  by_cases h0 : codeExp w n = 0
  · simpa [codeUnits, codeSig, h0] using hm
  · obtain ⟨k, hk⟩ := Nat.exists_eq_add_one_of_ne_zero h0
    rw [codeUnits, hk, Nat.add_sub_cancel, Nat.pow_succ', ← Nat.mul_assoc, ← Nat.pow_succ]
    exact Nat.mul_lt_mul_of_pos_right codeSig_lt (Nat.two_pow_pos k)

theorem codeUnits_lt_of_codeMag_lt (h : codeMag w a < codeMag w b) : codeUnits w a < codeUnits w b := by
  rcases codeMag_lt_iff.mp h with he | ⟨he, hm⟩
  · have hb : 2 ^ mantBits w ≤ codeSig w b := by rw [codeSig, if_neg (by omega)]; omega
    calc codeUnits w a < 2 ^ mantBits w * 2 ^ codeExp w a := codeUnits_lt w a
      _ ≤ 2 ^ mantBits w * 2 ^ (codeExp w b - 1) := Nat.mul_le_mul_left _ (Nat.pow_le_pow_right (by decide) (by omega))
      _ ≤ codeUnits w b := Nat.mul_le_mul_right _ hb
  · rw [codeUnits, codeUnits, codeSig, codeSig, he]
    exact Nat.mul_lt_mul_of_pos_right (by omega) (Nat.two_pow_pos _)

theorem codeUnits_eq_of_codeMag_eq (h : codeMag w a = codeMag w b) : codeUnits w a = codeUnits w b := by
  have hab : ¬ codeMag w a < codeMag w b := by omega
  have hba : ¬ codeMag w b < codeMag w a := by omega
  rw [codeMag_lt_iff] at hab hba
  have he : codeExp w a = codeExp w b := by omega
  have hm : a % 2 ^ mantBits w = b % 2 ^ mantBits w := by omega
  simp only [codeUnits, codeSig, he, hm]

theorem codeUnits_lt_iff : codeUnits w a < codeUnits w b ↔ codeMag w a < codeMag w b := by
  rcases Nat.lt_trichotomy (codeMag w a) (codeMag w b) with h | h | h
  · exact iff_of_true (codeUnits_lt_of_codeMag_lt h) h
  · have heq := codeUnits_eq_of_codeMag_eq h
    omega
  · have hgt := codeUnits_lt_of_codeMag_lt h
    omega

theorem code_eq_signed_mag (h : n < (if w then 2 ^ 32 else 2 ^ 16)) : n = zeroBits w (codeNeg w n) + codeMag w n :=
  (code_eq_fields h).trans (Nat.add_assoc ..)

theorem codeMag_lt (w : Bool) (n : Nat) : codeMag w n < zeroBits w true := by
  have hm := Nat.mod_lt n (Nat.two_pow_pos (mantBits w))
  have he := Nat.mul_le_mul_right (2 ^ mantBits w) (codeExp_le (w := w) (n := n))
  simp only [codeMag, zeroBits, if_true, Nat.succ_mul]
  omega

theorem codeOrder_eq (w : Bool) (n : Nat) :
    codeOrder w n = if n < zeroBits w true then (n : Int) else -((n - zeroBits w true : Nat) : Int) := by cases w <;> rfl

/-- The place of a code in the order of values is its magnitude bits with its sign. -/
theorem codeOrder_eq_signed (h : n < (if w then 2 ^ 32 else 2 ^ 16)) : codeOrder w n = signed (codeNeg w n) (codeMag w n) := by
  have hn := code_eq_signed_mag h
  have hlt := codeMag_lt w n
  rw [codeOrder_eq]
  cases hs : codeNeg w n with
  | false =>
    have hmag : n = codeMag w n := by rw [hs] at hn; exact hn.trans (Nat.zero_add _)
    rw [if_pos (Nat.lt_of_le_of_lt (Nat.le_of_eq hmag) hlt), signed, if_neg Bool.false_ne_true, ← hmag]
  | true =>
    rw [hs] at hn
    have hmag : n - zeroBits w true = codeMag w n := by omega
    rw [if_neg (by omega), signed, if_pos rfl, hmag]

/-- Magnitudes that lie alike compare alike with their signs. -/
theorem signed_lt_signed_congr {s t : Bool} {x y x' y' : Nat} (hxy : x < y ↔ x' < y') (hyx : y < x ↔ y' < x') (hx : 0 < x ↔ 0 < x')
    (hy : 0 < y ↔ 0 < y') : signed s x < signed t y ↔ signed s x' < signed t y' := by
  cases s <;> cases t <;> simp only [signed, Bool.false_eq_true, if_false, if_true] <;> omega

/-- The sign of the greater magnitude decides. -/
theorem signed_lt_left {s t : Bool} {x y : Nat} (h : y < x) : decide (signed s x < signed t y) = s := by
  cases s <;> cases t <;> simp only [signed, Bool.false_eq_true, if_false, if_true, decide_eq_true_eq, decide_eq_false_iff_not] <;> omega

theorem signed_lt_right {s t : Bool} {x y : Nat} (h : y < x) : decide (signed t y < signed s x) = !s := by
  cases s <;> cases t <;>
    simp only [signed, Bool.false_eq_true, if_false, if_true, Bool.not_false, Bool.not_true, decide_eq_true_eq, decide_eq_false_iff_not] <;>
    omega

theorem signed_lt_same {s t : Bool} {x : Nat} (h : 0 < x) : decide (signed s x < signed t x) = (s && !t) := by
  cases s <;> cases t <;>
    simp only [signed, Bool.false_eq_true, if_false, if_true, Bool.not_false, Bool.not_true, Bool.and_true, Bool.and_false,
      decide_eq_true_eq, decide_eq_false_iff_not] <;>
    omega

theorem codeUnits_pos_iff : 0 < codeUnits w n ↔ 0 < codeMag w n := by
  have h : codeUnits w 0 < codeUnits w n ↔ codeMag w 0 < codeMag w n := codeUnits_lt_iff
  have h0 : codeExp w 0 = 0 := by simp [codeExp]
  simpa [codeMag, codeUnits, codeSig, h0] using h

/-! ## Comparison of values (R86) -/

/-- Finite values compare alike in every unit that both are multiples of. -/
theorem fpLt_fin {s t : Bool} {m k : Nat} {e f v : Int} (he : v ≤ e) (hf : v ≤ f) :
    fpLt (.fin s m e) (.fin t k f) = decide (signed s (m * 2 ^ (e - v).toNat) < signed t (k * 2 ^ (f - v).toNat)) := by
  have hpos : 0 < 2 ^ (min e f - v).toNat := Nat.two_pow_pos _
  have scale : ∀ {x : Int} (y : Nat), min e f ≤ x →
      y * 2 ^ (x - v).toNat = y * 2 ^ (x - min e f).toNat * 2 ^ (min e f - v).toNat := by
    intro x y hx
    have hexp : (x - v).toNat = (x - min e f).toNat + (min e f - v).toNat := by omega
    rw [hexp, Nat.pow_add, Nat.mul_assoc]
  refine decide_eq_decide.mpr (signed_lt_signed_congr ?_ ?_ ?_ ?_)
  all_goals simp only [scale m (Int.min_le_left e f), scale k (Int.min_le_right e f), Nat.mul_lt_mul_right hpos,
    Nat.mul_pos_iff_of_pos_right hpos]

/-- The value of a finite code in units of the least magnitude of its format. -/
theorem finite_toNat (w : Bool) (n : Nat) :
    ((max 1 (codeExp w n) - expBias w - mantBits w : Int) - (1 - expBias w - mantBits w)).toNat = codeExp w n - 1 := by omega

theorem isNan_iff : isNan w n = true ↔ codeExp w n = expMax w ∧ n % 2 ^ mantBits w ≠ 0 := by
  simp [isNan, codeExp]

theorem fpOf_of_isNan (h : isNan w n = true) : fpOf w n = .nan := by
  obtain ⟨hx, hm⟩ := isNan_iff.mp h
  rw [fpOf_special hx, if_neg hm]

/-- A code that is no NaN and has the largest exponent is an infinity, of the largest magnitude. -/
theorem infinite_of_not_isNan (h : isNan w n = false) (hx : codeExp w n = expMax w) :
    fpOf w n = .inf (codeNeg w n) ∧ codeMag w n = expMax w * 2 ^ mantBits w := by
  have hm : n % 2 ^ mantBits w = 0 := Decidable.byContradiction fun hne => by
    rw [isNan_iff.mpr ⟨hx, hne⟩] at h
    cases h
  exact ⟨by rw [fpOf_special hx, if_pos hm], by rw [codeMag, hx, hm, Nat.add_zero]⟩

theorem codeMag_lt_of_finite (hx : codeExp w n ≠ expMax w) : codeMag w n < expMax w * 2 ^ mantBits w := by
  have hm := Nat.mod_lt n (Nat.two_pow_pos (mantBits w))
  have hlt : codeExp w n < expMax w := Nat.lt_of_le_of_ne codeExp_le hx
  have hmul := Nat.mul_le_mul_right (2 ^ mantBits w) hlt
  rw [Nat.succ_mul] at hmul
  unfold codeMag
  omega

/-- Codes that are no NaN compare as their places in the order of values. -/
theorem fpLt_fpOf (ha : a < (if w then 2 ^ 32 else 2 ^ 16)) (hb : b < (if w then 2 ^ 32 else 2 ^ 16)) (na : isNan w a = false)
    (nb : isNan w b = false) : fpLt (fpOf w a) (fpOf w b) = decide (codeOrder w a < codeOrder w b) := by
  rw [codeOrder_eq_signed ha, codeOrder_eq_signed hb]
  by_cases hxa : codeExp w a = expMax w
  · obtain ⟨hfa, hma⟩ := infinite_of_not_isNan na hxa
    by_cases hxb : codeExp w b = expMax w
    · obtain ⟨hfb, hmb⟩ := infinite_of_not_isNan nb hxb
      have hpos : 0 < expMax w * 2 ^ mantBits w := Nat.mul_pos (by rw [expMax_eq]; omega) (Nat.two_pow_pos _)
      rw [hfa, hfb, hma, hmb, signed_lt_same hpos]
      rfl
    · have hlt := codeMag_lt_of_finite hxb
      rw [hfa, hma, fpOf_finite hxb, signed_lt_left hlt]
      rfl
  · by_cases hxb : codeExp w b = expMax w
    · obtain ⟨hfb, hmb⟩ := infinite_of_not_isNan nb hxb
      have hlt := codeMag_lt_of_finite hxa
      rw [hfb, hmb, fpOf_finite hxa, signed_lt_right hlt]
      rfl
    · rw [fpOf_finite hxa, fpOf_finite hxb, fpLt_fin (v := 1 - expBias w - mantBits w) (by omega) (by omega), finite_toNat, finite_toNat]
      exact decide_eq_decide.mpr (signed_lt_signed_congr codeUnits_lt_iff codeUnits_lt_iff codeUnits_pos_iff codeUnits_pos_iff)

theorem fpOf_ne_nan (h : isNan w n = false) : fpOf w n ≠ .nan := by
  by_cases hx : codeExp w n = expMax w
  · rw [(infinite_of_not_isNan h hx).1]
    exact Fp.noConfusion
  · rw [fpOf_finite hx]
    exact Fp.noConfusion

theorem fpSign_fpOf (h : isNan w n = false) : fpSign (fpOf w n) = codeNeg w n := by
  by_cases hx : codeExp w n = expMax w
  · rw [(infinite_of_not_isNan h hx).1]
    rfl
  · rw [fpOf_finite hx]
    rfl

/-- A code is negative exactly when its highest bit is set. -/
theorem codeNeg_iff (h : n < (if w then 2 ^ 32 else 2 ^ 16)) : codeNeg w n = true ↔ zeroBits w true ≤ n := by
  have hn := code_eq_signed_mag h
  have hlt := codeMag_lt w n
  cases hs : codeNeg w n with
  | false =>
    have hz : zeroBits w false = 0 := rfl
    rw [hs] at hn
    simp only [Bool.false_eq_true, false_iff]
    omega
  | true =>
    rw [hs] at hn
    simp only [true_iff]
    omega

/-- Two codes at one place are the same code or the two zeros, of which the negative one has the greater code. -/
theorem codeNeg_of_codeOrder_eq (ha : a < (if w then 2 ^ 32 else 2 ^ 16)) (h : codeOrder w a = codeOrder w b) :
    (codeNeg w a = true → b ≤ a) ∧ (codeNeg w a = false → a ≤ b) := by
  rw [← Bool.not_eq_true, codeNeg_iff ha]
  rw [codeOrder_eq, codeOrder_eq] at h
  split at h <;> split at h <;> omega

end Order

section Extremes
variable {x y : Fp}

theorem fpEq_of_ne_nan (hx : x ≠ .nan) (hy : y ≠ .nan) : fpEq x y = (!fpLt x y && !fpLt y x) := by
  unfold fpEq
  split
  · exact absurd rfl hx
  · exact absurd rfl hy
  · rfl

theorem fpMin_of_ne_nan (hx : x ≠ .nan) (hy : y ≠ .nan) :
    fpMin x y = if fpLt x y then x else if fpLt y x then y else if fpSign x then x else y := by
  unfold fpMin
  split
  · exact absurd rfl hx
  · exact absurd rfl hy
  · rfl

theorem fpMax_of_ne_nan (hx : x ≠ .nan) (hy : y ≠ .nan) :
    fpMax x y = if fpLt x y then y else if fpLt y x then x else if fpSign x then y else x := by
  unfold fpMax
  split
  · exact absurd rfl hx
  · exact absurd rfl hy
  · rfl

/-- A choice by order, where at a tie the sign `s` chooses as `P` does or there is nothing to choose. -/
theorem choice_at_tie {α : Type} {p q : α} {i j : Int} {s : Bool} {P : Prop} [Decidable P] (hs : i = j → s = true → P ∨ p = q)
    (hn : i = j → s = false → P → p = q) :
    (if i < j then p else if j < i then q else if s then p else q) = if i < j ∨ (i = j ∧ P) then p else q := by
  rcases Int.lt_trichotomy i j with h | h | h
  · rw [if_pos h, if_pos (.inl h)]
  · have hc : (i < j ∨ (i = j ∧ P)) ↔ P := by simp [h]
    have hlt : ¬ i < j := by omega
    have hgt : ¬ j < i := by omega
    simp only [if_neg hlt, if_neg hgt, hc]
    cases s with
    | true =>
      rw [if_pos rfl]
      split
      next => rfl
      next hP => exact (hs h rfl).resolve_left hP
    | false =>
      rw [if_neg Bool.false_ne_true]
      split
      next hP => exact (hn h rfl hP).symm
      next => rfl
  · rw [if_neg (by omega), if_pos h, if_neg (by rintro (hlt | ⟨heq, -⟩) <;> omega)]

end Extremes

section Numbers
variable {w : Bool} {a b : Nat} (ha : a < (if w then 2 ^ 32 else 2 ^ 16)) (hb : b < (if w then 2 ^ 32 else 2 ^ 16))
  (na : isNan w a = false) (nb : isNan w b = false)
include ha hb na nb

theorem fpEq_fpOf : fpEq (fpOf w a) (fpOf w b) = decide (codeOrder w a = codeOrder w b) := by
  rw [fpEq_of_ne_nan (fpOf_ne_nan na) (fpOf_ne_nan nb), fpLt_fpOf ha hb na nb, fpLt_fpOf hb ha nb na, Bool.eq_iff_iff]
  simp only [Bool.and_eq_true, Bool.not_eq_true', decide_eq_false_iff_not, decide_eq_true_eq]
  omega

/-- The minimum is the lesser code, −0 below +0. -/
theorem fpMin_fpOf : fpMin (fpOf w a) (fpOf w b) =
    fpOf w (if codeOrder w a < codeOrder w b ∨ (codeOrder w a = codeOrder w b ∧ a ≥ b) then a else b) := by
  have htie := codeNeg_of_codeOrder_eq (b := b) ha
  rw [fpMin_of_ne_nan (fpOf_ne_nan na) (fpOf_ne_nan nb), fpLt_fpOf ha hb na nb, fpLt_fpOf hb ha nb na, fpSign_fpOf na]
  simp only [decide_eq_true_eq]
  rw [choice_at_tie (P := a ≥ b) (fun h hs => .inl ((htie h).1 hs)) fun h hs hP => congrArg _ (Nat.le_antisymm ((htie h).2 hs) hP),
    apply_ite (fpOf w)]

/-- The maximum is the greater code, +0 above −0. -/
theorem fpMax_fpOf : fpMax (fpOf w a) (fpOf w b) =
    fpOf w (if codeOrder w b < codeOrder w a ∨ (codeOrder w a = codeOrder w b ∧ a ≤ b) then a else b) := by
  have htie := codeNeg_of_codeOrder_eq (b := b) ha
  rw [fpMax_of_ne_nan (fpOf_ne_nan na) (fpOf_ne_nan nb), fpLt_fpOf ha hb na nb, fpLt_fpOf hb ha nb na, fpSign_fpOf na]
  simp only [decide_eq_true_eq]
  rw [choice_at_tie (P := b < a) (fun h hs => (Nat.lt_or_eq_of_le ((htie h).1 hs)).imp_right (congrArg _))
    fun h hs hP => absurd ((htie h).2 hs) (Nat.not_le_of_gt hP), apply_ite (fpOf w), ← ite_not]
  exact ite_congr (propext (by omega)) (fun _ => rfl) (fun _ => rfl)

/-- A code chosen from two that are no NaN is written as it is. -/
theorem encFp_choice_bits (c : Prop) [Decidable c] : (encFp w (fpOf w (if c then a else b))).bits = if c then a else b := by
  split
  · rw [numbersRoundTrip.2 w a ha, na]
    rfl
  · rw [numbersRoundTrip.2 w b hb, nb]
    rfl

end Numbers

/-- The extremes and the comparisons with a NaN. -/
theorem extremes_nan {x y : Fp} (h : x = .nan ∨ y = .nan) :
    fpMin x y = .nan ∧ fpMax x y = .nan ∧ fpLt x y = false ∧ fpEq x y = false := by
  rcases h with rfl | rfl
  · exact ⟨rfl, rfl, rfl, rfl⟩
  · cases x <;> exact ⟨rfl, rfl, rfl, rfl⟩

/-- Settles O58: the magnitudes of finite codes rise with their magnitude bits, and an infinity lies beyond them, so codes compare as their
magnitude bits with their signs. -/
theorem extremesAndComparisons : Obligations.ExtremesAndComparisons := by
  intro w a b ha hb
  refine ⟨fun hn => ?_, fun hn => ?_⟩
  · have hnan : fpOf w a = .nan ∨ fpOf w b = .nan := (Bool.or_eq_true_iff.mp hn).imp fpOf_of_isNan fpOf_of_isNan
    obtain ⟨hmin, hmax, hlt, heq⟩ := extremes_nan hnan
    simp [vecBinary, vecCompare, hmin, hmax, hlt, heq, encFp, Res.of, b2n]
  · obtain ⟨na, nb⟩ := Bool.or_eq_false_iff.mp hn
    simp only [vecBinary, vecCompare, fpMin_fpOf ha hb na nb, fpMax_fpOf ha hb na nb, fpLt_fpOf ha hb na nb, fpEq_fpOf ha hb na nb,
      true_and]
    refine ⟨encFp_choice_bits ha hb na nb _, encFp_choice_bits ha hb na nb _, ?_, ?_⟩
    · rw [← decide_not]
    · rw [← Bool.decide_or, decide_eq_decide.mpr Int.le_iff_lt_or_eq.symm]

/-! ## Narrowing (R92) -/

/-- An integer saturated to INT16 is clamped, and marked when the clamp moved it. -/
theorem satInt_16 (x : Int) : satInt 16 x = (max (-32768) (min 32767 x), decide (x < -32768 ∨ 32767 < x)) := by
  unfold satInt
  split
  next hlow =>
    rw [Int.max_eq_left (by omega), decide_eq_true (by omega)]
    rfl
  next =>
    split
    next hhigh =>
      rw [Int.min_eq_left (by omega), decide_eq_true (by omega)]
      rfl
    next => rw [Int.min_eq_right (by omega), Int.max_eq_right (by omega), decide_eq_false (by omega)]

/-- What rounding half up adds before the shift. -/
def narrowRound (s : Nat) (half : Bool) : Int := if half ∧ 0 < s then 2 ^ (s - 1) else 0

theorem narrow_eq (s : Nat) (half : Bool) (v : Int) : narrow s half v = satInt 16 ((v + narrowRound s half) / 2 ^ s) := by
  have hround : (half && s != 0) = true ↔ half ∧ 0 < s := by rw [Bool.and_eq_true, bne_iff_ne, Nat.pos_iff_ne_zero]
  simp only [narrow, narrowRound, hround]

/-- A list of elements adds one to a count for each that raises it. -/
theorem tally_map {α : Type} (l : List α) (f : α → Res) (p : Res → Bool) :
    tally (l.map f) p = (l.filter (fun x => p (f x))).length := by
  rw [tally, List.filter_map, List.length_map]
  rfl

/-- Settles O59: the shifted integer is the floor of a quotient, which `satInt` clamps and marks. -/
theorem narrowingSaturates : Obligations.NarrowingSaturates := by
  intro s half v _ _ _
  have hpos : (0 : Int) < 2 ^ s := Int.pow_pos (by decide)
  refine ⟨⟨(v + narrowRound s half) / 2 ^ s, Int.ediv_mul_le _ (Int.ne_of_gt hpos), Int.lt_ediv_add_one_mul_self _ hpos, ?_⟩, rfl,
    fun l => tally_map l _ _⟩
  rw [narrow_eq, satInt_16]

/-! ## The status of a command that commits (R14, R15, R96) -/

section Status
variable {empty skipped fused dimLimit damaged budget : Bool} {saturated overflow nan : Nat}

/-- The status that the counts set. -/
def countStatus (saturated overflow nan : Nat) : Nat :=
  if saturated ≠ 0 then stSaturated else if overflow ≠ 0 ∨ nan ≠ 0 then stOverflow else stOk

theorem countStatus_cases : countStatus saturated overflow nan = stOk ∨ 0x10 ≤ countStatus saturated overflow nan := by
  unfold countStatus
  split
  · exact .inr (by decide)
  split
  · exact .inr (by decide)
  · exact .inl rfl

/-- The lowest code of 0x01 to 0x06 that applies takes precedence over the counts. -/
theorem committedStatus_cases :
    (0x01 ≤ committedStatus empty skipped fused dimLimit damaged budget saturated overflow nan
        ∧ committedStatus empty skipped fused dimLimit damaged budget saturated overflow nan ≤ 0x06)
      ∨ committedStatus empty skipped fused dimLimit damaged budget saturated overflow nan = countStatus saturated overflow nan := by
  unfold committedStatus
  split
  · exact .inl (by decide)
  split
  · exact .inl (by split <;> decide)
  split
  · exact .inl (by decide)
  split
  · exact .inl (by decide)
  split
  · exact .inl (by decide)
  · exact .inr rfl

end Status

section Counts
variable (r : Run) (h : Here)

theorem status_cases : (0x01 ≤ r.status h ∧ r.status h ≤ 0x06)
    ∨ r.status h = countStatus (r.sum (·.saturated)) (r.sum (·.overflow)) (r.sum (·.nan)) := committedStatus_cases

/-- A count that no output's change touches keeps its sum. -/
theorem sum_map_counts (f : Counts → Counts) (g : Counts → Nat) (hg : ∀ c, g (f c) = g c) :
    Run.sum { r with counts := r.counts.map f } g = r.sum g := by
  simp only [Run.sum, List.foldl_map, hg]

/-- The status looks at the elements written and at three of the counts. -/
theorem status_map_counts (f : Counts → Counts) (hel : ∀ c, (f c).elements = c.elements) (hsat : ∀ c, (f c).saturated = c.saturated)
    (hovf : ∀ c, (f c).overflow = c.overflow) (hnan : ∀ c, (f c).nan = c.nan) :
    Run.status { r with counts := r.counts.map f } h = r.status h := by
  have hany : (r.counts.map f).any (fun c => c.elements != 0) = r.counts.any (fun c => c.elements != 0) := by
    simp only [List.any_map, Function.comp_def, hel]
  simp only [Run.status, hany, sum_map_counts r f _ hsat, sum_map_counts r f _ hovf, sum_map_counts r f _ hnan]

end Counts

/-- Settles O60: a status is a code that takes precedence or the one that the counts set, and only three of the counts enter. -/
theorem countsSetTheStatus : Obligations.CountsSetTheStatus := by
  intro r h
  have hc := countStatus_cases (saturated := r.sum (·.saturated)) (overflow := r.sum (·.overflow)) (nan := r.sum (·.nan))
  have hok : stOk = 0 := rfl
  refine ⟨fun hlt => ?_, fun hs => ?_, fun f => status_map_counts r h _ (fun _ => rfl) (fun _ => rfl) (fun _ => rfl) (fun _ => rfl)⟩
  · rcases status_cases r h with hp | he
    · exact .inl hp
    · exact .inr (by omega)
  · rcases status_cases r h with hp | he
    · omega
    · exact he

/-! ## The VEC words (R85 to R92, R110) -/

/-- Settles O10: each of the eight runs its effect as a word. -/
theorem vectorWordsRun : Obligations.VectorWordsRun := fun _ _ =>
  ⟨fun _ _ h => word_answers h, fun _ _ h => word_answers h, fun _ _ h => word_answers h, fun _ _ h => word_answers h,
    fun _ _ h => word_answers h, fun _ _ h => word_answers h, fun _ _ h => word_answers h, fun _ _ h => word_answers h⟩

/-! ## The tensor engines (R98 to R106) -/

section Engines
variable {e : Nat} {s : State} {b : Beat} {q : QuadBeat} {f : SetFill} {n : Nat}

/-- Without its operand vectors a beat does nothing (R98). -/
theorem engineBeat_not_ready (hp : s.power.rails = true) (he : e < 4096) (hb : beatReady b = false) : Answers (.engineBeat e b) s s := by
  refine answers_of_onUnit (ok := decide (e < 4096)) (what := "engine") ?_ (decide_eq_true he) hp
  show execEngineBeat e b s = _
  simp only [execEngineBeat, hb, Bool.not_false, if_true]

theorem engineBeat_single (hp : s.power.rails = true) (he : e < 4096) (hb : beatReady b = true) (hq : b.quad = none) :
    Answers (.engineBeat e b) s (if s.canBeat e then s.beatOne e b else s) := by
  refine answers_of_onUnit (ok := decide (e < 4096)) (what := "engine") ?_ (decide_eq_true he) hp
  show execEngineBeat e b s = _
  simp only [execEngineBeat, hb, hq, Bool.not_true, Bool.false_eq_true, if_false]

/-- The four beats of a core's engines that work as a quad (R99). -/
def State.beatQuad (s : State) (e : Nat) (b : Beat) (q : QuadBeat) : State :=
  (List.range 4).foldl (fun s i => s.beatOne (4 * (e / 4) + i) (quarterBeat b q i)) s

theorem engineBeat_quad (hp : s.power.rails = true) (he : e < 4096) (hb : beatReady b = true) (hq : b.quad = some q) :
    Answers (.engineBeat e b) s (if (List.range 4).all (fun i => s.canBeat (4 * (e / 4) + i)) then s.beatQuad e b q else s) := by
  refine answers_of_onUnit (ok := decide (e < 4096)) (what := "engine") ?_ (decide_eq_true he) hp
  show execEngineBeat e b s = _
  simp only [execEngineBeat, hb, hq, Bool.not_true, Bool.false_eq_true, if_false]
  rfl

theorem canBeat_iff : s.canBeat e = true ↔ s.engineUp e = true ∧ (s.engine e).lastIssued = false := by
  rw [State.canBeat, Bool.and_eq_true, Bool.not_eq_true']

theorem quad_canBeat_iff :
    (List.range 4).all (fun i => s.canBeat (4 * (e / 4) + i)) = true ↔ ∀ i, i < 4 → s.canBeat (4 * (e / 4) + i) = true := by
  simp only [List.all_eq_true, List.mem_range]

/-- Filling the shadow set leaves the tile's end and the roles of the two sets alone. -/
@[simp] theorem refill_lastIssued (x : Engine) (f : SetFill) : (x.refill f).lastIssued = x.lastIssued := by
  unfold Engine.refill
  split
  · rfl
  · split <;> rfl

@[simp] theorem refill_activeB (x : Engine) (f : SetFill) : (x.refill f).activeB = x.activeB := by
  unfold Engine.refill
  split
  · rfl
  · split <;> rfl

/-- A fill that gives words frees the shadow set. -/
theorem refill_shadowFree (x : Engine) {f : SetFill} {ws : List Acc} (h : fillWords f = some ws) : (x.refill f).shadowFree = true := by
  simp only [Engine.refill, h]
  split
  next hb => exact if_pos hb
  next hb => exact if_neg hb

/-- The engine after its shadow set became active (R102). -/
def Engine.switched (x : Engine) : Engine := { x with activeB := !x.activeB, lastIssued := false, beats := 0 }

theorem shadowSwitch_answers (hp : s.power.rails = true) (he : e < 4096) (f : SetFill) :
    Answers (.shadowSwitch ⟨e, f⟩) s (if (s.engine e).lastIssued && ((s.engine e).refill f).shadowFree then
      s.setEngine ((s.engine e).refill f).switched else s) := by
  refine answers_of_onUnit (ok := decide (e < 4096)) (what := "engine") ?_ (decide_eq_true he) hp
  show execShadowSwitch ⟨e, f⟩ s = _
  simp only [execShadowSwitch, refill_lastIssued]
  rfl

theorem drainBegin_answers (hp : s.power.rails = true) (he : e < 4096) (n : Nat) :
    Answers (.drainBegin e n) s (if n < 6 then s
      else if (s.engine e).shadowFree = false then s.setEngine ((s.engine e).drainSet (!(s.engine e).activeB))
      else if (s.engine e).lastIssued then s.setEngine ((s.engine e).drainSet (s.engine e).activeB)
      else s) := by
  refine answers_of_onUnit (ok := decide (e < 4096)) (what := "engine") ?_ (decide_eq_true he) hp
  show execDrainBegin e n s = _
  simp only [execDrainBegin, Bool.not_eq_true']

end Engines

/-- Settles O18: each command answers one change of the engine, in the cases of its meaning, and a fill that gives words frees the shadow
set. -/
theorem enginesRun : Obligations.EnginesRun := by
  intro e s hp he
  refine ⟨fun b hq hb hup hl => ?_, fun b h => ?_, fun b q hq hb hall => ?_, fun b q i hq hi hn => ?_, fun f hl hfree => ?_,
    fun ws hws => ⟨refill_shadowFree _ rfl, refill_shadowFree _ (if_pos hws)⟩, fun f h => ?_, fun n hn => ?_, fun n hn hfree => ?_,
    fun n hn hfree hl => ?_⟩
  · have h := engineBeat_single hp he hb hq
    rwa [if_pos (canBeat_iff.mpr ⟨hup, hl⟩)] at h
  · cases hb : beatReady b with
    | false => exact engineBeat_not_ready hp he hb
    | true =>
      obtain ⟨hq, hcan⟩ := h.resolve_left (by rw [hb]; exact Bool.noConfusion)
      have h := engineBeat_single hp he hb hq
      have hno : ¬ s.canBeat e = true := by
        rw [canBeat_iff]
        rcases hcan with hup | hl
        · simp [hup]
        · simp [hl]
      rwa [if_neg hno] at h
  · have h := engineBeat_quad hp he hb hq
    rwa [if_pos (quad_canBeat_iff.mpr hall)] at h
  · cases hb : beatReady b with
    | false => exact engineBeat_not_ready hp he hb
    | true =>
      have h := engineBeat_quad hp he hb hq
      have hno : ¬ (List.range 4).all (fun i => s.canBeat (4 * (e / 4) + i)) = true := by
        rw [quad_canBeat_iff]
        intro hall
        rw [hall i hi] at hn
        cases hn
      rwa [if_neg hno] at h
  · have h := shadowSwitch_answers hp he f
    rw [hl, hfree, Engine.switched, refill_activeB] at h
    exact h
  · have hs := shadowSwitch_answers hp he f
    have hno : ((s.engine e).lastIssued && ((s.engine e).refill f).shadowFree) = false := by
      rwa [Bool.and_eq_false_iff]
    rwa [hno] at hs
  · have h := drainBegin_answers hp he n
    rwa [if_pos hn] at h
  · have h := drainBegin_answers hp he n
    rwa [if_neg (Nat.not_lt.mpr hn), if_pos hfree] at h
  · have h := drainBegin_answers hp he n
    rwa [if_neg (Nat.not_lt.mpr hn), if_neg (by rw [hfree]; exact Bool.noConfusion), if_pos hl] at h

end Sys2Proof.Machine
end

section
/-! SUPPORT. Proofs of the statements about the programs that a cluster runs: the Quento words of MOVE, RAND, the products and the sequencing
words (R110, R142), and how a command, a piece and a killed command end (R126, R157, R383, R390). -/

namespace Sys2Proof.Machine

section Words
variable {x : Instr} {is : Word128 → Bool} {pl : Placing} {body fill : Here → Act Unit} {c i : Nat} {s t : State}

/-- A command on an existing cluster answers the state that its meaning gives. -/
theorem answers_of_onCluster (hp : s.power.rails = true) (hc : c < 64)
    (hx : exec x s = onUnit (clusterOk c) "cluster" s t) : Answers x s t :=
  answers_of_onUnit hx (decide_eq_true hc) hp

/-- A command whose meaning is a word's on its cluster runs as that word. -/
theorem runs_of_runWord (hx : ∀ s, exec x s = onUnit (clusterOk c) "cluster" s (runWord is pl body fill c i s)) : Runs x is pl body c i :=
  fun s _ h => (hx s).trans (word_answers h)

/-! ## The wait of REDUCE.READ and REDUCE.STATS (R254) -/

/-- The record of a command that a change leaves on its cluster. -/
theorem runOf_setRun {f : Run → Run} (hf : ∀ r, (f r).lead = r.lead) : (s.setRun c f).runOf c = (s.runOf c).map f := by
  unfold State.runOf State.setRun
  induction s.runs with
  | nil => rfl
  | cons r rs ih =>
    by_cases hr : r.lead = c
    · simp [hr, hf]
    · simpa [hr] using ih

/-- Without a command on the cluster there is no record to change. -/
theorem setRun_of_runOf_none {f : Run → Run} (h : s.runOf c = none) : s.setRun c f = s := by
  have hne : ∀ r ∈ s.runs, (r.lead == c) = false := by simpa [State.runOf] using h
  have hmap : s.runs.map (fun r => if r.lead == c then f r else r) = s.runs :=
    (List.map_congr_left fun r hr => by rw [hne r hr]; rfl).trans (List.map_id _)
  rw [State.setRun, hmap]

/-- A command's record after instruction `i` has left the scoreboard (R110). -/
def Run.finished (i : Nat) (r : Run) : Run := { r with issued := r.issued.filter (fun x => x.index != i), fetched := [], fetchBad := [] }

theorem finished_lead (i : Nat) (r : Run) : (r.finished i).lead = r.lead := rfl

theorem finish_eq_setRun : s.finish c i = s.setRun c (Run.finished i) := rfl

/-- A word that has left the scoreboard waits no longer. -/
theorem markWait_finish : markWait c i (s.finish c i) = (s.finish c i).setRun c (fun r => { r with mortarSince := none }) := by
  cases hr : (s.finish c i).runOf c with
  | none => rw [setRun_of_runOf_none hr, markWait, hr]
  | some r =>
    have hgone : r.issued.any (fun x => x.index == i) = false := by
      rw [finish_eq_setRun, runOf_setRun (finished_lead i)] at hr
      obtain ⟨r', -, rfl⟩ := Option.map_eq_some_iff.mp hr
      simp [Run.finished]
    simp [markWait, hr, hgone]

/-- A word that waits for a window ends its wait when it runs. -/
theorem waitingWord_answers (hx : exec x s = onUnit (clusterOk c) "cluster" s
      (if s.inFlight is c i then markWait c i (runWord is pl body fill c i s) else s)) (h : Ready is pl body c i s t) :
    Answers x s ((t.finish c i).setRun c (fun r => { r with mortarSince := none })) := by
  obtain ⟨hp, hc, hf, -⟩ := id h
  rw [if_pos hf, runWord_of_ready h, markWait_finish] at hx
  exact answers_of_onCluster hp hc hx

end Words

/-! ## MOVE, RAND and the sequencing words (R146 to R150, R253, R265, R271) -/

/-- Settles O8: each of the four runs its effect as a word. -/
theorem moveAndRandomWordsRun : Obligations.MoveAndRandomWordsRun := fun _ _ =>
  ⟨runs_of_runWord fun _ => rfl, runs_of_runWord fun _ => rfl, runs_of_runWord fun _ => rfl, runs_of_runWord fun _ => rfl⟩

/-- Settles O11: the first eight run their effect as words, and a read of a closed window leaves the scoreboard, which ends its wait. -/
theorem sequencingWordsRun : Obligations.SequencingWordsRun := fun _ _ =>
  ⟨runs_of_runWord fun _ => rfl, runs_of_runWord fun _ => rfl, runs_of_runWord fun _ => rfl, runs_of_runWord fun _ => rfl,
    runs_of_runWord fun _ => rfl, runs_of_runWord fun _ => rfl, runs_of_runWord fun _ => rfl, runs_of_runWord fun _ => rfl,
    fun _ _ h => waitingWord_answers rfl h, fun _ _ h => waitingWord_answers rfl h⟩

/-! ## POOL.MAX on a striped map (R208, R217, R218) -/

/-- The state that the targets' effects lead to from a state in which a word is ready. -/
def State.readyNext (s : State) (is : Word128 → Bool) (pl : Placing) (body : Here → Act Unit) (c i : Nat) : Option State :=
  (s.runOf c).bind fun r =>
    if s.power.rails && decide (c < 64) && s.inFlight is c i && placed pl (s.hereAt r i)
        && (aims pl (s.hereAt r i)).all (fun x => !s.fusedOut x) then
      effectAll body (aims pl (s.hereAt r i)) s
    else none

theorem ready_of_readyNext {is : Word128 → Bool} {pl : Placing} {body : Here → Act Unit} {c i : Nat} {s t : State}
    (h : s.readyNext is pl body c i = some t) : Ready is pl body c i s t := by
  obtain ⟨r, hr, he⟩ := Option.bind_eq_some_iff.mp h
  split at he
  next hok =>
    simp only [Bool.and_eq_true, decide_eq_true_eq] at hok
    obtain ⟨⟨⟨⟨hp, hc⟩, hf⟩, hpl⟩, hu⟩ := hok
    exact ⟨hp, hc, hf, r, hr, hpl, hu, he⟩
  · cases he

/-- A POOL.MAX takes the flags of its halo rows with it when it completes (R218). -/
theorem poolMax_runs_with_haloDone (c i : Nat) : Runs (.poolMax c i) (fun w => w.op == 0x0C0) .either (convDone doPoolMax) c i :=
  runs_of_runWord fun _ => rfl

/-- The fields of a program that are not 0, each with its offset, its width in bytes and its value (R132 to R141): its header, a region of 3
rows of 4 FP16 elements and one of a row of 2, one command over one logical cluster of 16 cores, its POOL.MAX pinned to core 0, and a geometry
record with 3 × 3 windows, stride 1 and HALO_ROWS 1 (R195). -/
def stripeFields : List (Nat × Nat × Nat) :=
  [(12, 4, 64), (16, 4, 2), (20, 4, 320), (24, 4, 1), (28, 4, 384), (32, 4, 1), (36, 4, 400), (40, 4, 32), (46, 1, 16),
   (64, 1, 2), (65, 1, 1), (72, 4, 96), (76, 4, 3), (80, 4, 4), (84, 4, 32), (88, 4, 1),
   (192, 1, 2), (193, 1, 2), (196, 4, 96), (200, 4, 32), (204, 4, 1), (208, 4, 2), (212, 4, 32), (216, 4, 1),
   (324, 4, 1), (330, 1, 1), (332, 2, noDesc), (334, 2, noDesc),
   (384, 16, 0x0C0 + noDesc * 2 ^ 30 + 1 * 2 ^ 46 + 1 * 2 ^ 78),
   (400, 1, 1), (401, 1, 1), (412, 1, 3), (413, 1, 3), (414, 1, 1)]

def stripeImage : Bytes := stripeFields.foldl (fun p f => patch p f.1 (leBytes f.2.1 f.2.2)) (List.replicate 432 0#8)

/-- The POOL.MAX has issued on cluster 0. -/
def stripe : State :=
  { State.reset with
    programs := [{ uid := 1, ctx := 0, handle := 0#32, image := stripeImage, mapBase := 0#64, mapBytes := 0, mapVer := 0, replaced := false,
                   place := [[0]], pages := [] }]
    runs := [{ Run.blank with prog := 1, clusters := [0], issued := [{ index := 0, regions := [] }] }] }

/-- HALO_COPY has made the rows of its only core full (R218). -/
def stripeFull : State := doHaloCopy 0 0 0 stripe

/-- The halo flags of every running command once word 0 of cluster 0 has completed. -/
def flagsAfter (t : State) : List (List HaloFlag) := (t.finish 0 0).runs.map (·.halos)

/-- The effect of POOL.MAX alone keeps the flag. -/
theorem stripeFull_poolMax_keeps_flag : (stripeFull.readyNext (fun w => w.op == 0x0C0) .either doPoolMax 0 0).map flagsAfter
    = some [[{ index := 0, core := 0, full := true }]] := by decide +kernel

/-- With its completion the flag is gone. -/
theorem stripeFull_haloDone_clears_flag : (stripeFull.readyNext (fun w => w.op == 0x0C0) .either (convDone doPoolMax) 0 0).map flagsAfter
    = some [[]] := by decide +kernel

/-- Refutes O9: a POOL.MAX pinned to a core whose halo rows are full marks them empty as it completes, as R218 says and `convDone` does, where
the statement names `doPoolMax` alone, which leaves them full. -/
theorem not_productWordsRun : ¬ Obligations.ProductWordsRun := by
  intro h
  obtain ⟨_, _, _, _, _, _, _, hpool, _⟩ := h 0 0
  obtain ⟨t, ht, htf⟩ := Option.map_eq_some_iff.mp stripeFull_poolMax_keeps_flag
  obtain ⟨u, hu, huf⟩ := Option.map_eq_some_iff.mp stripeFull_haloDone_clears_flag
  have hclaimed := hpool _ _ (ready_of_readyNext ht)
  have hdone := poolMax_runs_with_haloDone 0 0 _ _ (ready_of_readyNext hu)
  have hsame : settle stripeFull (t.finish 0 0) = settle stripeFull (u.finish 0 0) := by
    injection hclaimed.symm.trans hdone
  have hruns : flagsAfter t = flagsAfter u := congrArg (fun s => s.runs.map (·.halos)) hsame
  rw [htf, huf] at hruns
  exact absurd hruns (by decide)

/-! ## How a command ends (R126, R157, R241, R383, R390) -/

section Ends
variable {s : State} {c : Nat} {r : Run}

/-- A piece with another one after it is an intermediate piece (R157). -/
theorem piece_not_last (hm : r.piece + 1 < r.pieces) : decide (r.piece + 1 ≥ r.pieces) = false := decide_eq_false (Nat.not_le.mpr hm)

/-- Only sends of a command with LEASE words wait for its last piece (R253). -/
theorem piece_not_held (h : ((s.sendsOf c).isEmpty || r.leases.isEmpty) = true) :
    (!(s.sendsOf c).isEmpty && !r.leases.isEmpty) = false := by
  rw [← Bool.not_or, h]
  rfl

section Command
variable (hp : s.power.rails = true) (hc : c < 64) (hr : s.runOf c = some r)
include hp hc hr

theorem commandCommit_failed {st : BitVec 8} (hf : r.failed = some st) : Answers (.commandCommit c) s (s.commitFailed r st.toNat) := by
  refine answers_of_onCluster hp hc (?_ : execCommandCommit c s = _)
  simp only [execCommandCommit, hr, hf]

theorem commandCommit_before_end (hf : r.failed = none) (he : s.atEnd r = false) : Answers (.commandCommit c) s s := by
  refine answers_of_onCluster hp hc (?_ : execCommandCommit c s = _)
  simp only [execCommandCommit, hr, hf, he, Bool.not_false, if_true]

/-- A command that read a window which has been read out since begins again (R266, log entry 104). -/
theorem commandCommit_stale (hf : r.failed = none) (he : s.atEnd r = true) (hw : r.wrote = false) (hst : s.readStale r = true) :
    Answers (.commandCommit c) s (s.startOver r r.rerun) := by
  refine answers_of_onCluster hp hc (?_ : execCommandCommit c s = _)
  simp [execCommandCommit, hr, hf, he, hw, hst]

/-- A commit that is under way goes on. -/
theorem commandCommit_goes_on (hf : r.failed = none) (he : s.atEnd r = true)
    (hon : r.wrote = true ∨ (r.sending = true ∧ s.readStale r = false)) : Answers (.commandCommit c) s (s.commitOn r) := by
  refine answers_of_onCluster hp hc (?_ : execCommandCommit c s = _)
  rcases hon with hw | ⟨hs, hst⟩
  · simp [execCommandCommit, hr, hf, he, hw]
  · simp [execCommandCommit, hr, hf, he, hs, hst]

section Begins
variable (hf : r.failed = none) (he : s.atEnd r = true) (hnew : (r.wrote || r.sending) = false) (hst : s.readStale r = false)
include hf he hnew hst

/-- An output with a parity tag stops the commit (R126). -/
theorem commandCommit_blotted (hb : r.published.any (fun t => t.2.getLsbD 0) = true) :
    Answers (.commandCommit c) s (if r.rerun then s.commitFailed r stBlotted else s.rerunBlot r) := by
  refine answers_of_onCluster hp hc (?_ : execCommandCommit c s = _)
  simp only [execCommandCommit, hr, hf, he, hnew, hst, hb, Bool.not_true, Bool.and_false, Bool.false_eq_true, if_false, if_true]

/-- With clean outputs and count blocks in the partition the lease comparisons are made, and where they match the writes begin (R241, R383). -/
theorem commandCommit_begins (hb : r.published.any (fun t => t.2.getLsbD 0) = false)
    (hok : ∀ b ∈ countBlocks (s.hereAt r r.next) r, s.blockOk r.ctx b.1 = true) {r' : Run} (hr' : (leaseChecks s c).runOf c = some r')
    (hf' : r'.failed = none) (hl : r'.leasesChecked = true) : Answers (.commandCommit c) s ((leaseChecks s c).commitOn r') := by
  have hnone : (countBlocks (s.hereAt r r.next) r).find? (fun b => !s.blockOk r.ctx b.1) = none :=
    List.find?_eq_none.mpr fun b hb => by simp [hok b hb]
  refine answers_of_onCluster hp hc (?_ : execCommandCommit c s = _)
  simp only [execCommandCommit, hr, hf, he, hnew, hst, hb, hnone, hr', hf', hl, Option.isNone_none, Bool.not_true, Bool.and_false,
    Bool.false_eq_true, and_self, if_false, if_true]

end Begins

section Piece
variable (hf : r.failed = none) (hi : r.issued = []) (hm : r.piece + 1 < r.pieces) (hsl : ((s.sendsOf c).isEmpty || r.leases.isEmpty) = true)
include hf hi hm hsl

/-- An intermediate piece with nothing in flight sends its accumulates, once its send buffers are found clean (R157, R253). -/
theorem pieceEnd_sends (hs : r.sending = false) : Answers (.pieceEnd c) s
    (if r.bufferBlotted then (if r.rerun then s.commitFailed r stBlotted else s.rerunBlot r) else s.beginSends r) := by
  refine answers_of_onCluster hp hc (?_ : execPieceEnd c s = _)
  simp only [execPieceEnd, hr, hf, hi, piece_not_last hm, piece_not_held hsl, hs, Option.isSome_none, List.isEmpty_nil,
    Bool.not_true, Bool.not_false, Bool.or_self, Bool.true_and, Bool.false_eq_true, if_false, if_true]

/-- Once they are answered the rest goes to the staging region (R157). -/
theorem pieceEnd_stages (hs : r.sending = true) (hd : s.sendsDone c = true) {a n : Nat}
    (hst : stagingRegion (s.image r) r.queue = some (a, n)) (hpkg : gPkg (BitVec.ofNat 64 a) = s.sec.pkg)
    (hok : s.allowed false (s.ctxPart r.ctx) true (gSpace (BitVec.ofNat 64 a)) (gOff (BitVec.ofNat 64 a)) n = true) :
    Answers (.pieceEnd c) s (s.stagePiece c r (BitVec.ofNat 64 a) n) := by
  have hregion : stagingRegion (s.hereAt r r.next).prog r.queue = some (a, n) := hst
  refine answers_of_onCluster hp hc (?_ : execPieceEnd c s = _)
  simp only [execPieceEnd, hr, hf, hi, piece_not_last hm, piece_not_held hsl, hs, hd, hregion, hpkg, hok, Option.isSome_none,
    List.isEmpty_nil, BEq.rfl, Bool.not_true, Bool.or_self, Bool.false_and, Bool.and_self, Bool.false_eq_true, if_false]

end Piece

/-- A command of a context that no longer runs is killed where it can be (R376, R390). -/
theorem commandKill_stopped (hk : s.killable r = true) (hctx : (s.ctx r.ctx).st ≠ .running) :
    Answers (.commandKill c) s (s.killRun r stPreempt ((s.ctx r.ctx).st != .tearing)) := by
  refine answers_of_onCluster hp hc (?_ : execCommandKill c s = _)
  simp only [execCommandKill, hr, hk, Bool.not_true, Bool.false_eq_true, if_false, if_pos hctx]

end Command
end Ends

/-- Settles O22: each clause is one outcome of the checks that the command makes in order; that a command with a window read out since begins
again is the model's choice (log entry 104). -/
theorem commandsEnd : Obligations.CommandsEnd := by
  intro c s r hp hc hr
  refine ⟨fun st hf => ?_, fun hf he => ?_, fun hf he hw hst => ?_, fun hf he hon => ?_, fun hf he hnew hst hb => ?_,
    fun hf he hnew hst hb hok r' hr' hf' hl => ?_, fun hf hi hm hsl hs => ?_, fun hf hi hm hsl hs hd a n hst hpkg hok => ?_,
    fun hk hctx => ?_⟩
  · exact commandCommit_failed hp hc hr hf
  · exact commandCommit_before_end hp hc hr hf he
  · exact commandCommit_stale hp hc hr hf he hw hst
  · exact commandCommit_goes_on hp hc hr hf he hon
  · exact commandCommit_blotted hp hc hr hf he hnew hst hb
  · exact commandCommit_begins hp hc hr hf he hnew hst hb hok hr' hf' hl
  · exact pieceEnd_sends hp hc hr hf hi hm hsl hs
  · exact pieceEnd_stages hp hc hr hf hi hm hsl hs hd hst hpkg hok
  · exact commandKill_stopped hp hc hr hk hctx

end Sys2Proof.Machine
end

section
/-! SUPPORT. Proofs of the statements about the training passes: takes of a shard at its home, requests, replies and time limits (R236 to
R243), the settings of the mortar and media units (R235, R244, R257, R275, R306), and what a LEASE word notes at its sender. -/

namespace Sys2Proof.Machine

/-! ## Takes at the home (R239) -/

section Takes
variable {s : State} {e : Shard} {r : LeaseReq}

/-- A read take of the next step joins the read table where it has room (R239, R243). -/
theorem leaseTake_read_granted (hop : r.op = .takeRead) (hst : e.written + 1 = r.step) (hi : e.intent = none)
    (hr : s.readers.any (holdsEntry r e) = false) (hroom : (s.readers.filter (fun x => x.hub == e.hub)).length < 16384) :
    leaseTake s e r = ({ s with readers := s.readers ++ [{ hub := e.hub, s := e.s, pkg := r.pkg, ctx := r.ctx, step := r.step }] },
      some (.granted e.version e.written (s.dieNow e.hub))) := by
  have hnew : ¬ r.step ≤ e.written := by omega
  have hfull : ¬ 16384 ≤ (s.readers.filter (fun x => x.hub == e.hub)).length := by omega
  have hwait : ¬ (e.written + 1 ≠ r.step ∨ e.intent.isSome = true) := by simp [hst, hi]
  simp only [leaseTake, hop, hr, ge_iff_le, if_neg hnew, if_neg hwait, if_neg hfull, reduceCtorEq, Bool.false_eq_true, if_false]
  rfl

/-- A write take of the next step sets its intent, and holds at once where the shard has no reader left (R239). -/
theorem leaseTake_write_granted (hop : r.op = .takeWrite) (hst : e.written + 1 = r.step) (hi : e.intent = none)
    (hr : s.readers.any (fun x => x.hub == e.hub && x.s == e.s) = false) :
    leaseTake s e r = (s.setShard e (fun x => { x with intent := some (r.pkg, r.ctx, r.step) }),
      some (.granted e.version e.written (s.dieNow e.hub))) := by
  have hnew : ¬ r.step ≤ e.written := by omega
  have hr' : (s.setShard e (fun x => { x with intent := some (r.pkg, r.ctx, r.step) })).readers.any
      (fun x => x.hub == e.hub && x.s == e.s) = false := hr
  simp only [leaseTake, hop, if_true, ge_iff_le, if_neg hnew, hi, hst, hr']
  rfl

theorem leaseTake_write_stale (hop : r.op = .takeWrite) (hst : r.step ≤ e.written) : leaseTake s e r = (s.staleSeen e.hub, some .stale) := by
  simp only [leaseTake, if_pos hop, if_pos hst, ge_iff_le]

end Takes

/-- Settles O37: the three outcomes of a take on an entry without an intent, each one branch of the home's decision. -/
theorem takesAreGranted : Obligations.TakesAreGranted := fun _ _ _ =>
  ⟨leaseTake_read_granted, leaseTake_write_granted, leaseTake_write_stale⟩

/-! ## Requests, grants, replies and time limits (R238, R239, R243) -/

section Home
variable {s : State} {hub : Nat} (hp : s.power.rails = true) (hh : hubOk hub = true)
include hp hh

theorem leaseRequest_served {origin : Nat} {r : LeaseReq} (ho : origin ≠ s.sec.pkg) (hpkg : r.pkg = origin)
    (hmay : s.mayRecv hub r.job origin = true) : Answers (.leaseRequest hub origin r) s (leaseServe s hub r) := by
  refine answers_of_onUnit (?_ : execLeaseRequest hub origin r s = onUnit (hubOk hub) "hub" s _) hh hp
  simp only [execLeaseRequest, leaseRequestAt, if_neg ho, if_pos (And.intro hpkg hmay)]

theorem leaseRequest_denied {origin : Nat} {r : LeaseReq} (ho : origin ≠ s.sec.pkg)
    (hno : r.pkg ≠ origin ∨ s.mayRecv hub r.job origin = false) :
    Answers (.leaseRequest hub origin r) s ((s.countUnit hub 2).leaseAnswer hub r .denied) := by
  have hbar : ¬ (r.pkg = origin ∧ s.mayRecv hub r.job origin = true) := by
    rintro ⟨hpkg, hmay⟩
    exact hno.elim (· hpkg) (by simp [hmay])
  refine answers_of_onUnit (?_ : execLeaseRequest hub origin r s = onUnit (hubOk hub) "hub" s _) hh hp
  simp only [execLeaseRequest, leaseRequestAt, if_neg ho, if_neg hbar]

theorem leaseGrant_answers {tag : Nat} {w : LeaseWait} {o : LeaseOutcome} {t : State}
    (hw : s.waits.find? (fun w => w.hub == hub && w.req.tag == tag && (leaseExamine s hub w.req).2.isSome) = some w)
    (ht : leaseExamine { s with waits := s.waits.filter (· != w) } hub w.req = (t, some o)) :
    Answers (.leaseGrant hub tag) s (t.leaseAnswer hub w.req o) := by
  refine answers_of_onUnit (?_ : execLeaseGrant hub tag s = onUnit (hubOk hub) "hub" s _) hh hp
  simp only [execLeaseGrant, hw, ht]

theorem leaseTimeout_answers {tag : Nat} {w : LeaseWait}
    (hw : s.waits.find? (fun w => w.hub == hub && w.req.tag == tag && s.elapsed w.since (s.cfg (dieAt hub) .morLeaseCfg 0 32)) = some w) :
    Answers (.leaseTimeout hub tag) s ((if w.req.op = .takeWrite then
      ({ s with waits := s.waits.filter (· != w) } : State).clearIntent hub w.req.home w.req.bytes w.req.pkg w.req.ctx w.req.step
      else { s with waits := s.waits.filter (· != w) }).leaseAnswer hub w.req .timeout) := by
  refine answers_of_onUnit (?_ : execLeaseTimeout hub tag s = onUnit (hubOk hub) "hub" s _) hh hp
  simp only [execLeaseTimeout, hw]

end Home

/-- A reply from another package is not looked for among the packets of this one (R238). -/
theorem leaseReply_far {s : State} {tag : Nat} {o : LeaseOutcome} {r : Run} {u : LeaseUse} (hp : s.power.rails = true)
    (hu : s.leaseByTag tag = some (r, u)) (hfar : gPkg u.home ≠ s.sec.pkg) : Answers (.leaseReply tag o) s (leaseOutcome s r u o) := by
  refine answers_of_done (?_ : execLeaseReply tag o s = done s _) hp
  simp only [execLeaseReply, leaseReplyAt, hu, if_neg hfar]

/-- Settles O36: each clause is one outcome of the checks that its command makes in order. -/
theorem leaseHomeRuns : Obligations.LeaseHomeRuns := fun _ _ hp hh =>
  ⟨fun _ _ => leaseRequest_served hp hh, fun _ _ => leaseRequest_denied hp hh, fun _ _ _ _ => leaseGrant_answers hp hh,
    fun _ _ _ _ => leaseReply_far hp, fun _ _ => leaseTimeout_answers hp hh⟩

/-! ## Settings of the mortar and media units (R235, R244, R257, R275, R306) -/

theorem modNth_eq_modify {α : Type} (l : List α) (i : Nat) (f : α → α) : modNth l i f = l.modify i f := by
  induction l generalizing i with
  | nil => cases i <;> rfl
  | cons x t ih =>
    cases i with
    | zero => rfl
    | succ i => rw [modNth, ih, List.modify_succ_cons]

/-- A run of entries from `b` on, each replaced in turn. -/
theorem getElem?_foldl_modNth {α : Type} (v : Nat → α) (b n i : Nat) (l : List α) :
    ((List.range n).foldl (fun l k => modNth l (b + k) (fun _ => v k)) l)[i]? =
      if b ≤ i ∧ i < b + n then l[i]?.map (fun _ => v (i - b)) else l[i]? := by
  induction n with
  | zero => rw [if_neg (by omega)]; rfl
  | succ n ih =>
    rw [List.range_succ, List.foldl_append, List.foldl_cons, List.foldl_nil, modNth_eq_modify, List.getElem?_modify, ih]
    by_cases hi : b + n = i
    · subst hi
      simp
    · by_cases hin : b ≤ i ∧ i < b + n
      · rw [if_pos hin, if_pos (by omega)]; simp [hi]
      · rw [if_neg hin, if_neg (by omega)]; simp [hi]

section Settings
variable {s : State} {hub : Nat} {v : BitVec 64}

/-- Word `k` of the receipt that MOR_RCPT_SEL selects, 0 where there is none (R257). -/
def State.rcptWord (s : State) (hub : Nat) (v : BitVec 64) (k : Nat) : BitVec 64 :=
  BitVec.ofNat 64 (num ((((s.receipts.filter (fun e => e.hub == hub))[fld v 0 17]?).map receiptBytes).getD []) (8 * k) 8)

theorem morRcptSelAt_eq (hub : Nat) (v : BitVec 64) (s : State) : morRcptSelAt hub v s =
    { s with rcptSel := (List.range 4).foldl (fun l k => modNth l (4 * (hub - 8) + k) (fun _ => s.rcptWord hub v k)) s.rcptSel } := rfl

/-- The four words of MOR_RCPT_DATA on a hub are those of the selected receipt. -/
theorem morRcptSelAt_word (hh : hubOk hub = true) (hl : s.rcptSel.length = 8) {k : Nat} (hk : k < 4) :
    (morRcptSelAt hub v s).rcptSel[4 * (hub - 8) + k]? = some (s.rcptWord hub v k) := by
  have hhub : hub = 8 ∨ hub = 9 := by simpa [hubOk] using hh
  have hlt : 4 * (hub - 8) + k < s.rcptSel.length := by omega
  simp only [morRcptSelAt_eq, getElem?_foldl_modNth, List.getElem?_eq_getElem hlt, Nat.add_sub_cancel_left]
  rw [if_pos (by omega)]
  rfl

/-- The canonical list of an answer reads as memory did. -/
theorem settle_sameMemory {t : State} (h : SameMemory s t) : SameMemory s (settle s t) := fun a =>
  (memGet_memCanon t.mem a).trans (h a)

variable (hp : s.power.rails = true) (hh : hubOk hub = true)
include hp hh

theorem morApply_answers : Answers (.morApply hub) s ((List.range 512).foldl (redApplyOne hub) (s.applyNow (dieAt hub) .mor)) :=
  answers_of_onUnit rfl hh hp

theorem morShardApply_answers : Answers (.morShardApply hub) s ((List.range 512).foldl (shardApplyOne hub) s) :=
  answers_of_onUnit rfl hh hp

theorem morLeaseDrop_go (hv : fld v 19 1 = 1) : Answers (.morLeaseDrop hub v) s (s.dropHolder hub (fld v 0 13) (fld v 13 6)) :=
  answers_of_onUnit (congrArg (onUnit (hubOk hub) "hub" s) (if_pos hv)) hh hp

theorem morLeaseDrop_no_go (hv : fld v 19 1 = 0) : Answers (.morLeaseDrop hub v) s s :=
  answers_of_onUnit (congrArg (onUnit (hubOk hub) "hub" s) (if_neg (by rw [hv]; exact Nat.zero_ne_one))) hh hp

theorem morRcptSel_answers : Answers (.morRcptSel hub v) s (morRcptSelAt hub v s) :=
  answers_of_onUnit rfl hh hp

theorem medApply_answers : Answers (.medApply hub) s (s.applyNow (dieAt hub) .med) :=
  answers_of_onUnit rfl hh hp

end Settings

/-- Settles O35: every apply is the fold or the group that its command names; a receipt's index is its place in the hub's list (log entry 77). -/
theorem mortarSettings : Obligations.MortarSettings := fun hub s hp hh =>
  ⟨morApply_answers hp hh, morShardApply_answers hp hh, fun _ => morLeaseDrop_go hp hh, fun _ => morLeaseDrop_no_go hp hh,
    fun v => ⟨settle s (morRcptSelAt hub v s), morRcptSel_answers hp hh, settle_sameMemory fun _ => rfl, ⟨rfl, rfl, rfl⟩, rfl,
      fun hl _ hk => morRcptSelAt_word hh hl hk⟩,
    medApply_answers hp hh⟩

/-! ## A write take and the command's record of it (R238, R242) -/

section Asks
variable {is : Word128 → Bool} {c i k : Nat} {s t : State} {r : Run} {u : LeaseUse}

/-- A command's record once its LEASE word `i` has asked: the use with the tag and the time of its request, and the word among the write takes,
whose intents a failure of the command clears (R242, R243). -/
def Run.asked (i tag : Nat) (now : BitVec 64) (u : LeaseUse) (r : Run) : Run :=
  { r with leases := r.leases ++ [{ u with tag := tag, since := now }]
           takes := if u.op = .takeWrite then i :: r.takes else r.takes }

/-- The record with the use and its tag alone, as the statement has it. -/
def Run.tagged (tag : Nat) (u : LeaseUse) (r : Run) : Run := { r with leases := r.leases ++ [{ u with tag := tag }] }

theorem asked_takes_of_write (hu : u.op = .takeWrite) (tag : Nat) (now : BitVec 64) : (r.asked i tag now u).takes = i :: r.takes := if_pos hu

/-- A LEASE word whose checks pass sends its request and notes its use (R238). -/
theorem leaseWord_asks (hf : s.inFlight is c i = true) (hr : s.runOf c = some r) (hnew : r.leases.find? (fun u => u.index == i) = none)
    (hb : leaseBegin (s.hereAt r i) s = .ok (some (u, k), t)) (hop : u.op ≠ .release) :
    leaseWord is c i s = (t.leaseAsk r u u.op k).2.setRun c (Run.asked i (t.leaseAsk r u u.op k).1 s.plumb.now u) := by
  simp only [leaseWord, hr, hf, hnew, hb, if_neg hop, Bool.not_true, Bool.false_eq_true, if_false]
  rfl

theorem leaseTakeWrite_asks (hp : s.power.rails = true) (hc : c < 64) (hf : s.inFlight (fun w => w.op == 0x340 && w.form == 2) c i = true)
    (hr : s.runOf c = some r) (hnew : r.leases.find? (fun u => u.index == i) = none)
    (hb : leaseBegin (s.hereAt r i) s = .ok (some (u, k), t)) (hop : u.op ≠ .release) :
    Answers (.leaseTakeWrite c i) s ((t.leaseAsk r u u.op k).2.setRun c (Run.asked i (t.leaseAsk r u u.op k).1 s.plumb.now u)) :=
  answers_of_onCluster hp hc (congrArg (onUnit (clusterOk c) "cluster" s) (leaseWord_asks hf hr hnew hb hop))

/-- The write takes that the record of a cluster's command notes. -/
def State.takesOf (s : State) (c : Nat) : Option (List Nat) := (s.runOf c).map (·.takes)

theorem takesOf_settle : (settle s t).takesOf c = t.takesOf c := rfl

theorem takesOf_setRun_tagged (tag : Nat) : (s.setRun c (Run.tagged tag u)).takesOf c = s.takesOf c := by
  simp only [State.takesOf, runOf_setRun (f := Run.tagged tag u) fun _ => rfl, Option.map_map]
  rfl

theorem takesOf_setRun_asked (hu : u.op = .takeWrite) (tag : Nat) (now : BitVec 64) :
    (s.setRun c (Run.asked i tag now u)).takesOf c = (s.takesOf c).map (i :: ·) := by
  simp only [State.takesOf, runOf_setRun (f := Run.asked i tag now u) fun _ => rfl, Option.map_map, Function.comp_def,
    asked_takes_of_write hu]

end Asks

/-- The fields of a program that are not 0, each with its offset, its width in bytes and its value (R132 to R141): its header, a SHARD of 64
bytes at offset 0 of this package's memory whose step is its first argument and which has no ticket (R236), one command over one logical
cluster of 16 cores, and its LEASE.TAKE FORM 2. -/
def takingFields : List (Nat × Nat × Nat) :=
  [(12, 4, 64), (16, 4, 1), (20, 4, 192), (24, 4, 1), (28, 4, 256), (32, 4, 1), (36, 4, 272), (46, 1, 16),
   (64, 1, 8), (65, 1, 255), (68, 4, 64),
   (196, 4, 1), (202, 1, 1), (204, 2, noDesc), (206, 2, noDesc),
   (256, 16, 0x340 + 2 * 2 ^ 10 + noDesc * 2 ^ 30 + noDesc * 2 ^ 46)]

def takingImage : Bytes := takingFields.foldl (fun p f => patch p f.1 (leBytes f.2.1 f.2.2)) (List.replicate 272 0#8)

/-- The take has issued on cluster 0. -/
def taking : State :=
  { State.reset with
    programs := [{ uid := 1, ctx := 0, handle := 0#32, image := takingImage, mapBase := 0#64, mapBytes := 0, mapVer := 0, replaced := false,
                   place := [[0]], pages := [] }]
    runs := [{ Run.blank with prog := 1, clusters := [0], issued := [{ index := 0, regions := [] }] }] }

/-- What the checks of LEASE word `i` give where they pass and the word has not asked yet: its command, its use, the step it compares with and
the state they leave. -/
def State.leaseUse (s : State) (c i : Nat) : Option (Run × LeaseUse × Nat × State) :=
  (s.runOf c).bind fun r =>
    if (r.leases.find? (fun u => u.index == i)).isNone then
      match leaseBegin (s.hereAt r i) s with
      | .ok (some (u, k), t) => some (r, u, k, t)
      | _ => none
    else none

theorem leaseUse_eq_some {s t : State} {c i k : Nat} {r : Run} {u : LeaseUse} (h : s.leaseUse c i = some (r, u, k, t)) :
    s.runOf c = some r ∧ r.leases.find? (fun u => u.index == i) = none ∧ leaseBegin (s.hereAt r i) s = .ok (some (u, k), t) := by
  obtain ⟨r', hr, hb⟩ := Option.bind_eq_some_iff.mp h
  split at hb
  next hnew =>
    split at hb
    next hok =>
      cases hb
      exact ⟨hr, Option.isNone_iff_eq_none.mp hnew, hok⟩
    · cases hb
  · cases hb

/-- Its checks pass, and its request leaves the record of the command without a write take. -/
theorem taking_asks : (taking.leaseUse 0 0).map (fun x => (x.2.1.op, (x.2.2.2.leaseAsk x.1 x.2.1 x.2.1.op x.2.2.1).2.takesOf 0))
    = some (.takeWrite, some []) := by decide +kernel

theorem taking_inFlight : taking.inFlight (fun w => w.op == 0x340 && w.form == 2) 0 0 = true := by decide +kernel

/-- Refutes O16: a LEASE.TAKE FORM 2 that asks also notes its word among its command's write takes, whose intents a failure of the command
clears (R242), where the statement has the use with its tag alone and leaves the write takes as they were. -/
theorem not_leaseWordsRun : ¬ Obligations.LeaseWordsRun := by
  intro h
  obtain ⟨_, _, hwrite, _⟩ := h 0 0
  obtain ⟨⟨r, u, k, t⟩, hu, hfacts⟩ := Option.map_eq_some_iff.mp taking_asks
  obtain ⟨hop, htakes⟩ := Prod.mk.inj hfacts
  obtain ⟨hr, hnew, hb⟩ := leaseUse_eq_some hu
  have hne : u.op ≠ .release := fun h => LeaseOp.noConfusion (hop.symm.trans h)
  have hclaimed : Answers (.leaseTakeWrite 0 0) taking ((t.leaseAsk r u u.op k).2.setRun 0 (Run.tagged (t.leaseAsk r u u.op k).1 u)) :=
    (hwrite taking r rfl (by decide) taking_inFlight hr).1 u k t hnew hb hne
  have hdone := leaseTakeWrite_asks rfl (by decide) taking_inFlight hr hnew hb hne
  have hsame := congrArg (State.takesOf · 0) (Host.Outcome.next.inj (hclaimed.symm.trans hdone))
  simp only [takesOf_settle, takesOf_setRun_tagged, takesOf_setRun_asked hop] at hsame
  rw [htakes] at hsame
  exact absurd hsame (by decide)

end Sys2Proof.Machine
end

section
/-! SUPPORT. Proofs of the statements about the mortar units at the home of a reduction: packets and their replies (R247, R252, R254, R256),
closing and clearing (R247, R264), and chunks that the receipts already hold (R257, R258). -/

namespace Sys2Proof.Machine

/-! ## Chunks already received (R257, R258) -/

section Received
variable {s : State} {hub : Nat} {p : AccPacket}

/-- A rise of a mortar unit's counter changes the counters and the free values alone. -/
theorem countUnit_eq (s : State) (hub c : Nat) : ∃ l n, s.countUnit hub c = { s with counters := l, fresh := n } := by
  obtain ⟨l, h⟩ := count_eq s.draw.2 6 hub (s.draw.1 % 4) c 1
  exact ⟨l, s.fresh + 1, h⟩

/-- Memory, the reductions and the receipts, which an added chunk changes (R258, R260), are as before. -/
def NothingAdded (s t : State) : Prop := t.mem = s.mem ∧ t.reds = s.reds ∧ t.receipts = s.receipts

theorem nothingAdded_refl (s : State) : NothingAdded s s := ⟨rfl, rfl, rfl⟩

theorem nothingAdded_countUnit (s : State) (hub c : Nat) : NothingAdded s (s.countUnit hub c) := by
  obtain ⟨l, n, h⟩ := countUnit_eq s hub c
  rw [h]
  exact ⟨rfl, rfl, rfl⟩

theorem nothingAdded_setBits (s : State) (b : Nat) (r : Reg) (m : Nat) : NothingAdded s (s.setBits b r m) := ⟨rfl, rfl, rfl⟩

/-- A chunk in the bitmap of its receipt is dropped: by that receipt's row of R258 if by no row before it. None of those rows answers ADDED. -/
theorem dropChunk_received {x : Red} {e : Receipt} (he : s.rcptOf x.hub p = some e) (ho : e.origin = p.origin)
    (hb : e.bitmap.getLsbD (p.seq.toNat % 64) = true) : ∃ r, dropChunk s x p = some r ∧ r ≠ .added := by
  have hrow : (if e.origin != p.origin then some AccReply.denied else if e.bitmap.getLsbD (p.seq.toNat % 64) then some .duplicate else none)
      = some .duplicate := by
    rw [if_neg (by simp [ho]), if_pos hb]
  unfold dropChunk
  rw [he]
  extract_lets f fits
  split
  · exact ⟨.denied, rfl, AccReply.noConfusion⟩
  split
  · exact ⟨.duplicate, rfl, AccReply.noConfusion⟩
  split
  · exact ⟨.retry, rfl, AccReply.noConfusion⟩
  split
  · exact ⟨.duplicate, rfl, AccReply.noConfusion⟩
  split
  · exact ⟨.denied, rfl, AccReply.noConfusion⟩
  · exact ⟨.duplicate, hrow, AccReply.noConfusion⟩

/-- A dropped chunk is answered as its row of R258 says, and nothing is added: the front end counts or marks RETRY at most. -/
theorem frontEnd_dropped {r : AccReply} (h : dropChunk s (s.redAt hub (p.red.toNat % 512)) p = some r) :
    (frontEnd s hub p).2 = r ∧ NothingAdded s (frontEnd s hub p).1 := by
  unfold frontEnd
  simp only [h]
  cases r with
  | added => exact ⟨rfl, nothingAdded_refl s⟩
  | denied => exact ⟨rfl, nothingAdded_refl s⟩
  | duplicate => exact ⟨rfl, nothingAdded_countUnit s hub 1⟩
  | retry =>
    refine ⟨rfl, ?_⟩
    dsimp only
    split
    · exact nothingAdded_setBits s _ _ _
    · exact nothingAdded_refl s

end Received

/-- Settles O33: the receipt of the chunk makes a row of R258 drop it, and a dropped chunk adds nothing. -/
theorem duplicateChunksAddNothing : Obligations.DuplicateChunksAddNothing := by
  intro s hub p e hhub he ho hb
  obtain ⟨r, hdrop, hr⟩ := dropChunk_received (x := s.redAt hub (p.red.toNat % 512)) (by rw [hhub]; exact he) ho hb
  obtain ⟨hreply, hmem, hreds, hrcpts⟩ := frontEnd_dropped hdrop
  exact ⟨hreply ▸ hr, fun a => congrArg (memGet · a) hmem, hreds, hrcpts⟩

/-! ## Packets, closing and clearing (R247, R252, R256, R264) -/

section MortarHome
variable {s : State} {hub : Nat} (hp : s.power.rails = true) (hh : hubOk hub = true)
include hp hh

section Packets
variable {port : Option Nat} {peer : Nat} {p : AccPacket} (hport : port.getD 0 < 30)
include hport

theorem accumulate_answers : Answers (.accumulate hub port peer p) s (accumulateAt hub port peer p s) :=
  answers_of_onUnit rfl (by rw [hh, decide_eq_true hport]; rfl) hp

theorem accumulate_other_hub (hhub : hub ≠ 8 + p.red.toNat / 512 % 2) : Answers (.accumulate hub port peer p) s s := by
  have h := accumulate_answers (peer := peer) (p := p) hp hh hport
  rwa [show accumulateAt hub port peer p s = s from if_pos hhub] at h

end Packets

section Arrives
variable {p : AccPacket} (hhub : hub = 8 + p.red.toNat / 512 % 2)
include hhub

/-- A packet at a Lintel port whose peer is authenticated is decided by the front end or denied by the ingress check (R256). -/
theorem accumulate_from_peer {n peer : Nat} (hn : n < 30) (hpeer : (s.port n).peer = some peer)
    (hcls : s.carriesClass n (p.cls.toNat % 8) = true) : Answers (.accumulate hub (some n) peer p) s
      (if ingressOk s hub peer p = true then (frontEnd s hub p).1.sendTo hub ((frontEnd s hub p).1.packet (p.origin.toNat % 8192)
          (p.cls.toNat % 8) p.job (replyBody p (frontEnd s hub p).2))
       else (s.countUnit hub 2).sendTo hub ((s.countUnit hub 2).packet (p.origin.toNat % 8192) (p.cls.toNat % 8) p.job
          (replyBody p .denied))) := by
  have hin : ((s.port n).peer = some peer && s.carriesClass n (p.cls.toNat % 8)) = true := by simp [hpeer, hcls]
  have h := accumulate_answers (port := some n) (peer := peer) (p := p) hp hh hn
  rw [accumulateAt, if_neg (not_not_intro hhub)] at h
  simp only [if_pos hin] at h
  split
  · next hok => simpa only [if_pos hok] using h
  · next hbad => simpa only [if_neg hbad] using h

/-- A packet of this package that comes over the die-to-die links and passes the ingress check is decided by the front end (R252). -/
theorem accumulate_from_package {t : State} {peer : Nat} (ht : s.takeLocal (.accumulate p) = some t)
    (hok : ingressOk t hub s.sec.pkg p = true) : Answers (.accumulate hub none peer p) s
      ((frontEnd t hub p).1.sendTo hub ((frontEnd t hub p).1.packet (p.origin.toNat % 8192) (p.cls.toNat % 8) p.job
        (replyBody p (frontEnd t hub p).2))) := by
  have h := accumulate_answers (port := none) (peer := peer) (p := p) hp hh (by decide)
  rw [accumulateAt, if_neg (not_not_intro hhub)] at h
  simpa only [ht, Option.map_some, if_pos hok] using h

end Arrives

section Reductions
variable {r : Nat} (hr : r < 512)
include hr

/-- A command on one of the 512 reductions of a hub names a unit that exists. -/
theorem answers_of_onReduction {c : Instr} {t : State} (hc : exec c s = onUnit (hubOk hub && decide (r < 512)) "reduction" s t) :
    Answers c s t :=
  answers_of_onUnit hc (by rw [hh, decide_eq_true hr]; rfl) hp

theorem windowClose_complete (hst : (s.redAt hub r).st = .opened) (hall : (s.redAt hub r).sources ≤ (s.redAt hub r).complete.length) :
    Answers (.windowClose hub r) s
      ((s.setRed hub r (fun x => { x with st := .closed, record := some (x.window, statRecord s x) })).freeReceipts hub r) :=
  answers_of_onReduction hp hh hr (congrArg (onUnit _ _ s) (if_pos ⟨hst, hall⟩))

theorem windowClose_not_opened (hst : (s.redAt hub r).st ≠ .opened) : Answers (.windowClose hub r) s s :=
  answers_of_onReduction hp hh hr (congrArg (onUnit _ _ s) (if_neg fun h => hst h.1))

theorem slotClearDone_clearing (hst : (s.redAt hub r).st = .clearing) :
    Answers (.slotClearDone hub r) s ((s.clearSlots (s.redAt hub r)).setRed hub r (fun x => { x with st := .opened })) :=
  answers_of_onReduction hp hh hr (congrArg (onUnit _ _ s) (if_pos hst))

end Reductions
end MortarHome

/-- Settles O32: each clause is one branch of the meaning of its command. -/
theorem mortarHomeRuns : Obligations.MortarHomeRuns := fun _ _ hp hh =>
  ⟨fun _ _ _ hn hhub => accumulate_from_peer hp hh hhub hn, fun _ _ _ hport => accumulate_other_hub hp hh hport,
    fun _ _ _ hhub => accumulate_from_package hp hh hhub, fun _ => windowClose_complete hp hh, fun _ => windowClose_not_opened hp hh,
    fun _ => slotClearDone_clearing hp hh⟩

end Sys2Proof.Machine
end

section
/-! SUPPORT. Proofs of the statements about media: the words that run once for their command (R110, R142, R161, R294 to R304), and a
MEDIA.DECODE whose native instruction names no present core (R119, R283). -/

namespace Sys2Proof.Machine

/-! ## MEDIA.ENCODE, PYRAMID, CROP, PACK and the LEGACY words (R110, R142, R161, R294 to R304) -/

/-- A command whose meaning is a media word's on its cluster runs as that word. -/
theorem runs_of_runMedia {x : Instr} {is : Word128 → Bool} {body fill : Here → Act Unit} {c i : Nat}
    (hx : ∀ s, exec x s = onUnit (clusterOk c) "cluster" s (runMedia is body fill c i s)) : Runs x is .once body c i :=
  fun s _ h => (hx s).trans (media_answers h)

/-- Settles O14: each of the eight runs its effect as a media word. -/
theorem mediaWordsRun : Obligations.MediaWordsRun := fun _ _ =>
  ⟨runs_of_runMedia fun _ => rfl, runs_of_runMedia fun _ => rfl, runs_of_runMedia fun _ => rfl, runs_of_runMedia fun _ => rfl,
    runs_of_runMedia fun _ => rfl, runs_of_runMedia fun _ => rfl, runs_of_runMedia fun _ => rfl, runs_of_runMedia fun _ => rfl⟩

/-! ## A MEDIA.DECODE without a present core (R119, R283) -/

section Decode
variable {body fill : Here → Act Unit} {h : Here} {c i : Nat} {r : Run} {s t : State}

/-- A word that runs once for its command is skipped with FUSED_TARGET, whatever its effect, where its native instruction names no present core
(R119). -/
theorem runTargets_once_fusedOut (hpl : placed .once h = true) (hfused : s.fusedOut h = true) :
    runTargets .once body fill h s = runEach (fun _ => skip cFused 0) fill [h] s := by
  have hcores : h.w.lc / 2 ^ hCores h.prog = 0 := by simpa [placed] using hpl
  have hskip : ∀ x ∈ [h], (if s.fusedOut x = true then skip cFused 0 else body x) = skip cFused 0 := by simp [hfused]
  simpa [runTargets, hcores] using runEach_congr hskip s

/-- Whether MEDIA.DECODE `i` of the command on a lead cluster has begun. -/
def State.decodes (s : State) (c i : Nat) : Bool := ((s.runOf c).bind (fun r => r.decoding i)).isSome

theorem decodes_settle : (settle s t).decodes c i = t.decodes c i := rfl

theorem decodes_finish : (s.finish c i).decodes c i = s.decodes c i := by
  rw [State.decodes, finish_eq_setRun, runOf_setRun (finished_lead i), Option.bind_map]
  rfl

/-- Leaving the scoreboard where nothing has begun begins nothing. -/
theorem decodes_after (s : State) (c i : Nat) : (if s.decodes c i then s else s.finish c i).decodes c i = s.decodes c i := by
  split
  · rfl
  · exact decodes_finish

/-- A MEDIA.DECODE in flight whose native instruction names no present core is skipped (R119). -/
theorem mediaDecode_fusedOut (hp : s.power.rails = true) (hc : c < 64) (hf : s.inFlight (fun w => w.op == 0x240) c i = true)
    (hr : s.runOf c = some r) (hnew : r.decoding i = none) (hpl : placed .once (s.hereAt r i) = true)
    (hfused : s.fusedOut (s.hereAt r i) = true) (hskip : runEach (fun _ => skip cFused 0) decodeFill [s.hereAt r i] s = .ok t) :
    Answers (.mediaDecode c i) s (if t.decodes c i then t else t.finish c i) := by
  have hstep : decodeStep c i s = if t.decodes c i then t else t.finish c i := by
    simp only [decodeStep, hr, hnew, hf, runTargets_once_fusedOut hpl hfused, hskip]
    rfl
  exact answers_of_onCluster hp hc (congrArg (onUnit (clusterOk c) "cluster" s) hstep)

end Decode

/-- The fields of a program that are not 0, each with its offset, its width in bytes and its value (R132 to R141): its header, the DECODE
STREAM of one sample whose table lies in page 8 (R281), the tensors of its slot and its report, one command over one logical cluster of 16
cores with both as outputs, and its MEDIA.DECODE. -/
def decodingFields : List (Nat × Nat × Nat) :=
  [(12, 4, 64), (16, 4, 3), (20, 4, 448), (24, 4, 1), (28, 4, 512), (32, 4, 1), (36, 4, 528), (40, 4, 4), (46, 1, 16),
   (64, 1, 5), (66, 1, 255), (67, 1, 1), (68, 4, 1), (72, 8, 0x1000000), (102, 2, noDesc), (104, 2, 1), (106, 2, 1), (108, 4, 64), (124, 2, 2),
   (192, 1, 1), (193, 1, 6), (194, 1, 2), (195, 1, 6), (200, 8, 0x1002000), (208, 4, 64), (212, 4, 1), (232, 4, 1), (236, 4, 64), (269, 1, 255),
   (320, 1, 1), (321, 1, 6), (322, 1, 1), (323, 1, 6), (328, 8, 0x1003000), (336, 4, 64), (360, 4, 1), (397, 1, 255),
   (452, 4, 1), (458, 1, 1), (460, 2, noDesc), (462, 2, noDesc), (468, 1, 2),
   (512, 16, 0x240 + 1 * 2 ^ 30 + noDesc * 2 ^ 46),
   (528, 2, 1), (530, 2, 2)]

def decodingImage : Bytes := decodingFields.foldl (fun p f => patch p f.1 (leBytes f.2.1 f.2.2)) (List.replicate 532 0#8)

/-- The MEDIA.DECODE has issued on cluster 0. -/
def decodingRun : Run := { Run.blank with prog := 1, clusters := [0], issued := [{ index := 0, regions := [] }] }

/-- Page 0 of its cluster holds an image that firmware loaded, and the cluster's cores have all retired since (R118, R119). Page 8 of memory is
partition 0's. -/
def decodingRetired : State :=
  { State.reset with
    mem := memWrite [] 16 [0x30#8, 0x80#8]
    programs := [{ uid := 1, ctx := 0, handle := 0#32, image := decodingImage, mapBase := 0#64, mapBytes := 0, mapVer := 0, replaced := false,
                   place := [[0]], pages := [(0, 1)] }]
    keystones := modNth State.reset.keystones 0 (fun k =>
      { k with retired := List.range 16, pages := [{ ImemPage.clear with loaded := true }] })
    runs := [decodingRun] }

def decodingHere : Here := decodingRetired.hereAt decodingRun 0

theorem decodingRetired_inFlight : decodingRetired.inFlight (fun w => w.op == 0x240) 0 0 = true := by decide +kernel
theorem decodingHere_placed : placed .once decodingHere = true := by decide +kernel
theorem decodingRetired_fusedOut : decodingRetired.fusedOut decodingHere = true := by decide +kernel

/-- Its checks pass, and its effect alone begins a decode. -/
theorem decodingRetired_starts : (startDecode decodingHere decodingRetired).toOption.map (fun x => x.2.decodes 0 0) = some true := by
  decide +kernel

/-- Its skip begins none. -/
theorem decodingRetired_skips : (runEach (fun _ => skip cFused 0) decodeFill [decodingHere] decodingRetired).toOption.map (·.decodes 0 0)
    = some false := by decide +kernel

theorem ok_of_toOption_map {ε α β : Type} {x : Except ε α} {f : α → β} {b : β} (h : x.toOption.map f = some b) :
    ∃ a, x = .ok a ∧ f a = b := by
  cases x with
  | error e => cases h
  | ok a => exact ⟨a, rfl, Option.some.inj h⟩

/-- Refutes O15: a MEDIA.DECODE whose native instruction names no present core is skipped with FUSED_TARGET (R119), where the statement has its
decode begin: its first clause lacks the condition on present cores that `Ready` has for every other word. -/
theorem not_decodeCommandsRun : ¬ Obligations.DecodeCommandsRun := by
  rintro ⟨hdecode, -⟩
  obtain ⟨⟨⟨⟩, t⟩, ht, htd⟩ := ok_of_toOption_map decodingRetired_starts
  obtain ⟨u, hu, hud⟩ := ok_of_toOption_map decodingRetired_skips
  have hclaimed : Answers (.mediaDecode 0 0) decodingRetired (if t.decodes 0 0 then t else t.finish 0 0) :=
    (hdecode 0 0 0 decodingRetired decodingRun rfl (by decide) decodingRetired_inFlight rfl).1 t rfl decodingHere_placed ht
  have hdone := mediaDecode_fusedOut (r := decodingRun) rfl (by decide) decodingRetired_inFlight rfl rfl decodingHere_placed
    decodingRetired_fusedOut hu
  have hsame : t.decodes 0 0 = u.decodes 0 0 := by
    simpa only [decodes_settle, decodes_after] using
      congrArg (State.decodes · 0 0) (Host.Outcome.next.inj (Eq.trans (Eq.symm hclaimed) hdone))
  exact absurd (htd.symm.trans (hsame.trans hud)) (by decide)

end Sys2Proof.Machine
end

section
/-! SUPPORT. Proofs of the statements about the memory system: the canonical form that every step keeps, grants, regulators and the patrol, and
the last-level memory's modes and flushes (R108, R308, R316 to R331). -/

namespace Sys2Proof.Machine

/-! ## The canonical form (R108, R308) -/

/-- What every command answers is in canonical form, whatever its meaning did to the cells. -/
theorem settle_wf (s t : State) : (settle s t).wf = true := by
  rw [State.wf, settle_mem, settle_scratch, memCanon_wf, memCanon_wf, Bool.and_self]

/-- Whatever command answers a next state, that state is in canonical form. -/
theorem exec_wf {c : Instr} {s t : State} (h : exec c s = .next t) : t.wf = true := by
  obtain ⟨u, rfl⟩ := exec_settles h
  exact settle_wf s u

section Tick
variable (s : State)

/-- The state with everything blank that a tick can change: plumb time, counters, the records of running commands and queues, telemetry
records, and the place in the free values. -/
def State.untimed : State :=
  { s with plumb := State.reset.plumb, counters := [], runs := [], ctxs := [], telem := [], fresh := 0 }

@[simp] theorem setRun_untimed (lead : Nat) (f : Run → Run) : (s.setRun lead f).untimed = s.untimed := rfl

@[simp] theorem setQueue_untimed (c q : Nat) (f : Queue → Queue) : (s.setQueue c q f).untimed = s.untimed := rfl

@[simp] theorem count_untimed (cls die idx c n : Nat) : (s.count cls die idx c n).untimed = s.untimed := by
  obtain ⟨l, h⟩ := count_eq s cls die idx c n
  rw [h]
  rfl

@[simp] theorem tickGated_untimed : s.tickGated.untimed = s.untimed :=
  foldl_keeps State.untimed (fun s k => by split <;> simp) _ s

@[simp] theorem tickHeld_untimed : s.tickHeld.untimed = s.untimed := by
  refine foldl_keeps State.untimed (fun s w => ?_) _ s
  split
  · exact count_untimed ..
  · split
    · exact count_untimed ..
    · rfl

@[simp] theorem tickCore_untimed (r : Run) (no : Nat) : (s.tickCore r no).untimed = s.untimed := by
  unfold State.tickCore
  split
  · rfl
  · simp

@[simp] theorem tickStalls_untimed : s.tickStalls.untimed = s.untimed :=
  foldl_keeps State.untimed (fun s r => foldl_keeps State.untimed (fun s no => tickCore_untimed s r no) _ s) _ s

@[simp] theorem tickFill_untimed (r : Run) (k : Nat) : (s.tickFill r k).untimed = s.untimed := by
  unfold State.tickFill
  split
  · exact (foldl_keeps State.untimed (fun s no => by split <;> simp) _ _).trans (setQueue_untimed s _ _ _)
  · rfl

@[simp] theorem tickFills_untimed : s.tickFills.untimed = s.untimed :=
  foldl_keeps State.untimed (fun s r => foldl_keeps State.untimed (fun s k => tickFill_untimed s r k) _ s) _ s

@[simp] theorem tickTelemetry_untimed : s.tickTelemetry.untimed = s.untimed := by
  unfold State.tickTelemetry
  split
  · rfl
  · rfl

/-- A tick changes nothing else, with the rails on or off. -/
theorem tick_untimed : (tick s).untimed = s.untimed := by
  unfold tick
  split
  · simp only [tickTelemetry_untimed, tickFills_untimed, tickStalls_untimed, tickHeld_untimed, tickGated_untimed]
    rfl
  · rfl

theorem tick_mem : (tick s).mem = s.mem := show (tick s).untimed.mem = s.untimed.mem from congrArg State.mem (tick_untimed s)

theorem tick_scratch : (tick s).scratch = s.scratch :=
  show (tick s).untimed.scratch = s.untimed.scratch from congrArg State.scratch (tick_untimed s)

theorem tick_wf : (tick s).wf = s.wf := by rw [State.wf, tick_mem, tick_scratch, ← State.wf]

end Tick

/-- Settles O4: a command answers a settled state, which is in canonical form; an idle step is a tick, which moves neither memory nor
scratchpad. -/
theorem everyStepKeepsTheCanonicalForm : Obligations.EveryStepKeepsTheCanonicalForm := by
  intro s t hwf hstep
  unfold step at hstep
  split at hstep
  case h_1 =>
    obtain rfl : tick s = t := Host.Outcome.next.inj hstep
    rwa [tick_wf]
  case h_2 => exact exec_wf hstep

/-! ## PRT_GRANT_GO (R329) -/

section Memory
variable {s : State} {hub : Nat} (hp : s.power.rails = true) (hh : isHub hub = true)

section Grants
variable {v : BitVec 64}

/-- The check of the grant that PRT_GRANT_PAGE and a write of PRT_GRANT_GO ask for. -/
def State.grantCheck (s : State) (hub : Nat) (v : BitVec 64) : Option Nat :=
  s.grantReject hub (fld (s.reg (dieAt hub) .prtGrantPage) 43 2) (fld (s.reg (dieAt hub) .prtGrantPage) 0 27)
    (fld (s.reg (dieAt hub) .prtGrantPage) 27 16) (fld v 0 16)

/-- Every page of that grant written in order. -/
def State.grantPages (s : State) (hub : Nat) (v : BitVec 64) : State :=
  (List.range (fld (s.reg (dieAt hub) .prtGrantPage) 27 16)).foldl (fun t i =>
    t.grantPage hub (fld (s.reg (dieAt hub) .prtGrantPage) 43 2) (fld (s.reg (dieAt hub) .prtGrantPage) 0 27 + i) (fld v 0 16)) s

theorem grantGo_of_no_go (hv : fld v 16 1 = 0) : s.grantGo hub v = s := if_pos hv

theorem grantGo_rejected {r : Nat} (hv : fld v 16 1 = 1) (hr : s.grantCheck hub v = some r) : s.grantGo hub v = s.prtReject hub r := by
  unfold State.grantCheck at hr
  simp [State.grantGo, hv, hr]

theorem grantGo_granted (hv : fld v 16 1 = 1) (hr : s.grantCheck hub v = none) : s.grantGo hub v = s.grantPages hub v := by
  unfold State.grantCheck at hr
  simp [State.grantGo, State.grantPages, hv, hr]

include hp hh in
theorem prtGrantGo_answers {t : State} (ht : s.grantGo hub v = t) : Answers (.prtGrantGo hub v) s t :=
  answers_of_onUnit (congrArg (onUnit (isHub hub) "hub" s) ht) hh hp

end Grants

/-! ## MEM_APPLY and REGULATOR_REFILL (R330, R331) -/

section Regulators

include hp hh in
theorem memApply_answers : Answers (.memApply hub) s (s.memApply hub) := answers_of_onUnit rfl hh hp

theorem memApply_unfit (hf : s.ratesFit hub = false) : s.memApply hub = s.prtReject hub 5 := if_pos (by simp [hf])

/-- Rates that fit put the group into force; buckets and lines besides, memory keeps every byte. -/
theorem memApply_fit (hf : s.ratesFit hub = true) : (s.memApply hub).mem = s.mem ∧ (s.memApply hub).regs = s.regs
    ∧ (s.memApply hub).live = (s.applyNow (dieAt hub) .mem).live := by
  unfold State.memApply
  rw [if_neg (by simp [hf])]
  exact ⟨rfl, rfl, rfl⟩

/-- The regulators of the hub have their stored values in force afterwards. -/
theorem memApply_regulator (hf : s.ratesFit hub = true) {p r : Nat}
    (hr : s.regOf (regKey (dieAt hub) (.rgl p r)) = some (.rgl p r)) :
    (s.memApply hub).live' (dieAt hub) (.rgl p r) = s.reg (dieAt hub) (.rgl p r) := by
  obtain ⟨-, -, hlive⟩ := memApply_fit hf
  rw [← applyNow_live'_same s (g := .mem) rfl hr]
  simp only [State.live', Reg.group, hlive]

/-- Bucket `i` with `n` tokens after a refill of a hub: RATE more, up to 16 BURST, if it is the hub's. -/
def State.refillBucket (s : State) (hub i n : Nat) : Nat :=
  if i / 80 = hub - 8 then
    min (n + fld (s.live' (dieAt hub) (.rgl (i % 80 / 5) (i % 5))) 0 20) (fld (s.live' (dieAt hub) (.rgl (i % 80 / 5) (i % 5))) 20 24 * 16)
  else n

/-- A list built entry by entry from another's entries. -/
theorem map_range_getD {α β : Type} (f : Nat → α → β) (d : α) (l : List α) :
    (List.range l.length).map (fun i => f i (l[i]?.getD d)) = l.mapIdx f := by
  refine List.ext_getElem (by simp) fun i h _ => ?_
  rw [List.length_map, List.length_range] at h
  simp [List.getElem?_eq_getElem h]

include hp hh in
theorem regulatorRefill_answers : Answers (.regulatorRefill hub) s { s with tokens := s.tokens.mapIdx (s.refillBucket hub) } :=
  answers_of_onUnit (congrArg (fun l => onUnit (isHub hub) "hub" s { s with tokens := l })
    (map_range_getD (s.refillBucket hub) 0 s.tokens)) hh hp

end Regulators

/-! ## ACCESS_ADMIT (R330) -/

section Admission
variable {part res : Nat} (hpart : part < 16) (hres : res < 5)

/-- Whether a waiting access is of a bucket. -/
def WaitAcc.isOf (hub part res : Nat) (w : WaitAcc) : Bool := w.hub == hub && w.part == part && w.res == res

include hp hh hpart hres in
theorem accessAdmit_answers : Answers (.accessAdmit hub part res) s
    (if (s.admits hub part res).1 then
      { s with queueAcc := dropFirst (WaitAcc.isOf hub part res) s.queueAcc,
               tokens := modNth s.tokens (bucketIx hub part res) (fun t => if (s.admits hub part res).2 then t - 16 else t) }
    else if s.queueAcc.any (WaitAcc.isOf hub part res) then s
    else { s with fresh := s.fresh + 1, queueAcc := s.queueAcc ++ [{ hub := hub, part := part, res := res, id := Config.freeNat s.fresh }] }) :=
  answers_of_onUnit rfl (by simp [hh, hpart, hres]) hp

theorem admits_of_token (ht : 16 ≤ s.tokensOf hub part res) : s.admits hub part res = (true, true) := if_pos ht

include hp hh hpart hres in
/-- An access with a token is admitted, the oldest that waits first (log entry 82). -/
theorem accessAdmit_takes_token (ht : 16 ≤ s.tokensOf hub part res) : Answers (.accessAdmit hub part res) s
    { s with queueAcc := dropFirst (WaitAcc.isOf hub part res) s.queueAcc,
             tokens := modNth s.tokens (bucketIx hub part res) (fun t => t - 16) } := by
  have h := accessAdmit_answers hp hh hpart hres
  simpa only [admits_of_token ht, if_true] using h

include hp hh hpart hres in
/-- A new access that is not admitted waits; which controller it waits for is free (log entry 82). -/
theorem accessAdmit_waits (hno : (s.admits hub part res).1 = false) (hnew : s.queueAcc.any (WaitAcc.isOf hub part res) = false) :
    Answers (.accessAdmit hub part res) s { s with fresh := s.fresh + 1, queueAcc := s.queueAcc ++
      [{ hub := hub, part := part, res := res, id := Config.freeNat s.fresh }] } := by
  have h := accessAdmit_answers hp hh hpart hres
  simpa only [hno, hnew, Bool.false_eq_true, if_false] using h

end Admission

/-! ## PATROL_SCRUB (R317 to R319) -/

section Patrol
variable {ctrl space off : Nat}

/-- What a patrol read of a line does by its result. -/
def State.patrolRead (s : State) (hub ctrl space off : Nat) : ScrubResult → State
  | .clean => s
  | .corrected how => (s.corrected hub ctrl (off - off % 64) how).rowHit hub ctrl space off
  | .uncorrectable => s.poisonLine hub ctrl space off

include hp hh in
theorem patrolScrub_answers (hctrl : ctrl < 14) (hof : s.controllerOf hub space off = some ctrl) (hhours : s.scrubHours hub ctrl ≠ 0)
    (r : ScrubResult) : Answers (.patrolScrub hub ctrl space off r) s (s.patrolRead hub ctrl space off r) := by
  have hread : ¬(s.controllerOf hub space off ≠ some ctrl ∨ s.scrubHours hub ctrl = 0) := by simp [hof, hhours]
  refine answers_of_onUnit (ok := isHub hub && decide (ctrl < 14)) (what := "controller") ?_ (by simp [hh, hctrl]) hp
  show execPatrolScrub hub ctrl space off r s = _
  unfold execPatrolScrub
  rw [if_neg hread]
  cases r with
  | clean => rfl
  | corrected how => rfl
  | uncorrectable => rfl

end Patrol

/-! ## The last-level memory (R320 to R324) -/

section LastLevel

theorem llm_setLlm {f : Llm → Llm} (hl : hub - 8 < s.llms.length) : (s.setLlm hub f).llm hub = f (s.llm hub) := by
  simp [State.llm, State.setLlm, modNth_eq_modify, List.getElem?_eq_getElem hl]

@[simp] theorem setField_llm (b : Nat) (r : Reg) (lo w x : Nat) : (s.setField b r lo w x).llm hub = s.llm hub := rfl

/-- The array zeroed, no line kept, and the switch to a mode begun (R324). -/
def State.beginSwitch (s : State) (hub : Nat) (cache : Bool) : State :=
  (s.zeroArray hub).setLlm hub (fun m => { m with switching := some cache, lines := [] })

theorem llmMode_switches {cache : Bool} (hsw : (s.llm hub).switching = none) (hc : (s.llm hub).cache ≠ cache) :
    s.llmMode hub cache = (s.setField (dieAt hub) .llmCtl 0 1 (b2n cache)).beginSwitch hub cache :=
  if_neg (by simp [hsw, hc])

/-- A write of the present mode starts no switch (log entry 33). -/
theorem llmMode_stays {cache : Bool} (hc : (s.llm hub).cache = cache) :
    s.llmMode hub cache = s.setField (dieAt hub) .llmCtl 0 1 (b2n cache) := if_pos (.inr hc)

theorem dropLines_lines (p : LlmLine → Bool) (hl : hub - 8 < s.llms.length) :
    ((s.dropLines hub p).llm hub).lines = (s.llm hub).lines.filter (fun l => !p l) := by
  rw [State.dropLines, llm_setLlm hl]

/-- Kept lines that are released are kept no more, dropped or not. -/
theorem releaseKept_lines (p : LlmLine → Bool) (hl : hub - 8 < s.llms.length) :
    ((s.releaseKept hub p).llm hub).lines.all (fun l => !(p l && l.kept)) = true := by
  rw [State.releaseKept, llm_setLlm hl, List.all_map, List.all_eq_true]
  intro l _
  by_cases hpl : p l = true
  · simp [hpl]
  · simp [hpl]

include hp hh in
theorem llmCacheMode_answers {t : State} (ht : s.llmMode hub true = t) : Answers (.llmCacheMode hub) s t :=
  answers_of_onUnit (congrArg (onUnit (isHub hub) "hub" s) ht) hh hp

include hp hh in
theorem llmScratchpadMode_answers {t : State} (ht : s.llmMode hub false = t) : Answers (.llmScratchpadMode hub) s t :=
  answers_of_onUnit (congrArg (onUnit (isHub hub) "hub" s) ht) hh hp

include hp hh in
/-- Outside a switch LLM_SWITCH_DONE changes nothing. -/
theorem llmSwitchDone_idle (hsw : (s.llm hub).switching = none) : Answers (.llmSwitchDone hub) s s := by
  refine answers_of_onUnit (ok := isHub hub) (what := "hub") ?_ hh hp
  show execLlmSwitchDone hub s = _
  rw [execLlmSwitchDone, hsw]

include hp hh in
theorem llmSwitchDone_ends {c : Bool} (hsw : (s.llm hub).switching = some c) :
    Answers (.llmSwitchDone hub) s (s.setLlm hub (fun m => { m with cache := c, switching := none, lines := [] })) := by
  refine answers_of_onUnit (ok := isHub hub) (what := "hub") ?_ hh hp
  show execLlmSwitchDone hub s = _
  rw [execLlmSwitchDone, hsw]

variable {part : Nat} (hpart : part < 16)

include hp hh hpart in
theorem llmFlush_answers : Answers (.llmFlush hub part) s (s.dropLines hub (fun l => l.part == part)) :=
  answers_of_onUnit rfl (by simp [hh, hpart]) hp

include hp hh hpart in
theorem llmReleaseKept_answers : Answers (.llmReleaseKept hub part) s (s.releaseKept hub (fun l => l.part == part)) :=
  answers_of_onUnit rfl (by simp [hh, hpart]) hp

end LastLevel
end Memory

/-- Settles O47: the grant goes through its check, MEM_APPLY through the sums of the rates, an access through its bucket (log entry 82), and a
patrol read by its result. -/
theorem memoryControlsRun : Obligations.MemoryControlsRun := by
  intro hub s hp hh
  refine ⟨fun v hv => prtGrantGo_answers hp hh (grantGo_of_no_go hv),
    fun v r hv hr => prtGrantGo_answers hp hh (grantGo_rejected hv hr),
    fun v hv hr => prtGrantGo_answers hp hh (grantGo_granted hv hr),
    fun hf => memApply_unfit hf ▸ memApply_answers hp hh, fun hf => ?_, ?_,
    fun part res hpart hres ht => accessAdmit_takes_token hp hh hpart hres ht,
    fun part res hpart hres _ hno hnew => accessAdmit_waits hp hh hpart hres hno hnew,
    fun ctrl space off hctrl hof hhours => ?_⟩
  · obtain ⟨hmem, hregs, -⟩ := memApply_fit hf
    exact ⟨_, memApply_answers hp hh, settle_sameMemory fun a => congrArg (memGet · a) hmem, hregs, fun p r hr => memApply_regulator hf hr⟩
  · refine ⟨_, regulatorRefill_answers hp hh, settle_sameMemory fun _ => rfl, ⟨rfl, rfl, rfl⟩, List.length_mapIdx, fun i n hn => ?_⟩
    rw [settle_tokens, List.getElem?_mapIdx, hn]
    rfl
  · have hread := patrolScrub_answers hp hh hctrl hof hhours
    exact ⟨hread .clean, fun how => hread (.corrected how), hread .uncorrectable⟩

/-- Settles O48: a mode other than the present one begins a switch (log entry 33), and lines are dropped or released without a byte of memory
changing. -/
theorem lastLevelMemoryRuns : Obligations.LastLevelMemoryRuns := by
  intro hub s hp hh
  refine ⟨fun hsw hc => llmCacheMode_answers hp hh (llmMode_switches hsw (by simp [hc])),
    fun hsw hc => llmScratchpadMode_answers hp hh (llmMode_switches hsw (by simp [hc])),
    fun _ hc => llmCacheMode_answers hp hh (llmMode_stays hc),
    fun c hsw => llmSwitchDone_ends hp hh hsw, fun hsw => llmSwitchDone_idle hp hh hsw,
    fun part hpart => ⟨_, llmFlush_answers hp hh hpart, settle_sameMemory fun _ => rfl, ⟨rfl, rfl, rfl⟩, fun hl => ?_⟩,
    fun part hpart => ⟨_, llmReleaseKept_answers hp hh hpart, settle_sameMemory fun _ => rfl, ⟨rfl, rfl, rfl⟩,
      fun hl => releaseKept_lines _ hl⟩⟩
  show ((s.dropLines hub (fun l => l.part == part)).llm hub).lines.all (fun l => l.part != part) = true
  rw [dropLines_lines _ hl, List.all_eq_true]
  exact fun l hmem => (List.mem_filter.mp hmem).2

end Sys2Proof.Machine
end

section
/-! SUPPORT. Proofs of the statements about Lintel links: frames (R341 to R343, R358), training and lanes (R352 to R354), heartbeats and the
settings of the links (R355, R359, R360). -/

namespace Sys2Proof.Machine

/-! ## Ports -/

section Ports
variable {s : State} {n : Nat}

/-- A command on one of the 30 ports names a unit that exists. -/
theorem answers_of_onPort {c : Instr} {t : State} (hp : s.power.rails = true) (hn : n < 30)
    (hc : exec c s = onUnit (decide (n < 30)) "port" s t) : Answers c s t :=
  answers_of_onUnit hc (decide_eq_true hn) hp

theorem setPort_ports (f : Port → Port) : (s.setPort n f).ports = s.ports.modify n f := modNth_eq_modify s.ports n f

@[simp] theorem setPort_ports_length (f : Port → Port) : (s.setPort n f).ports.length = s.ports.length := by
  rw [setPort_ports, List.length_modify]

/-- A port that exists reads as it was changed. -/
theorem setPort_port (h : n < s.ports.length) (f : Port → Port) : (s.setPort n f).port n = f (s.port n) := by
  simp [State.port, setPort_ports, List.getElem?_eq_getElem h]

@[simp] theorem settle_port (t : State) : (settle s t).port n = t.port n := rfl

/-- Only what a change makes of the port's present value matters. -/
theorem setPort_congr {f g : Port → Port} (h : f (s.port n) = g (s.port n)) : s.setPort n f = s.setPort n g := by
  have hports : modNth s.ports n f = modNth s.ports n g := by
    simp only [modNth_eq_modify]
    refine List.ext_getElem? fun i => ?_
    rw [List.getElem?_modify, List.getElem?_modify]
    split
    · next hi =>
      subst hi
      cases hx : s.ports[n]? with
      | none => rfl
      | some x =>
        have hport : s.port n = x := by rw [State.port, hx]; rfl
        exact congrArg some (hport ▸ h)
    · rfl
  exact congrArg (fun l => { s with ports := l }) hports

theorem setPort_setPort (f g : Port → Port) : (s.setPort n f).setPort n g = s.setPort n (g ∘ f) := by
  have hports : modNth (modNth s.ports n f) n g = modNth s.ports n (g ∘ f) := by
    simp only [modNth_eq_modify, List.modify_modify_eq]
  exact congrArg (fun l => { s with ports := l }) hports

end Ports

/-! ## LINK_FRAME (R341 to R343, R358) -/

section Frames
variable {s : State} {n : Nat} {f : Frame}

/-- The frame that the port expects is asked for again. -/
def State.askAgain (s : State) (n : Nat) : State := s.setPort n (fun p => { p with again := some (s.port n).rxFrame })

theorem askAgain_eq (s : State) (n : Nat) : s.setPort n (fun p => { p with again := some p.rxFrame }) = s.askAgain n :=
  setPort_congr rfl

/-- One bad seal more in a row, and the frame asked for again. -/
def State.badSeal (s : State) (n : Nat) : State :=
  (s.setPort n (fun p => { p with sealBad := p.sealBad + 1 })).setPort n (fun p => { p with again := some (s.port n).rxFrame })

theorem badSeal_eq (s : State) (n : Nat) : (s.setPort n (fun p => { p with sealBad := p.sealBad + 1 })).askAgain n = s.badSeal n := by
  rw [← askAgain_eq, State.badSeal, setPort_setPort, setPort_setPort]
  exact setPort_congr rfl

variable (hp : s.power.rails = true) (hn : n < 30)
include hp hn

/-- What a port does with a frame, in the order of its checks (R343). -/
theorem linkFrame_answers : Answers (.linkFrame n f) s
    (if (s.port n).carries = false then s
    else if frameIntact f = false then s.askAgain n
    else if f.tagOk = false then if 3 ≤ (s.port n).sealBad + 1 then (s.badSeal n).sealFail n else s.badSeal n
    else if f.number = (s.port n).rxFrame then s.acceptFrame n f
    else if f.number.toNat < (s.port n).rxFrame.toNat then s
    else s.askAgain n) := by
  refine answers_of_onPort hp hn (?_ : execLinkFrame n f s = _)
  simp only [execLinkFrame, askAgain_eq, badSeal_eq, Bool.not_eq_true', ge_iff_le]

theorem linkFrame_silent (hc : (s.port n).carries = false) : Answers (.linkFrame n f) s s := by
  simpa only [if_pos hc] using linkFrame_answers (f := f) hp hn

variable (hc : (s.port n).carries = true)
include hc

theorem linkFrame_broken (hi : frameIntact f = false) : Answers (.linkFrame n f) s (s.askAgain n) := by
  simpa [hc, hi] using linkFrame_answers (f := f) hp hn

variable (hi : frameIntact f = true)
include hi

theorem linkFrame_sealBad (ht : f.tagOk = false) : Answers (.linkFrame n f) s
    (if 3 ≤ (s.port n).sealBad + 1 then (s.badSeal n).sealFail n else s.badSeal n) := by
  simpa only [hc, hi, ht, Bool.true_eq_false, if_false, if_true] using linkFrame_answers (f := f) hp hn

variable (ht : f.tagOk = true)
include ht

/-- A whole and authentic frame is met by its number. -/
theorem linkFrame_numbered : Answers (.linkFrame n f) s
    (if f.number = (s.port n).rxFrame then s.acceptFrame n f
    else if f.number.toNat < (s.port n).rxFrame.toNat then s
    else s.askAgain n) := by
  simpa only [hc, hi, ht, Bool.true_eq_false, if_false] using linkFrame_answers (f := f) hp hn

end Frames

/-- Settles O38: the clauses are the branches of the port's checks, in their order. -/
theorem framesAreAcceptedWhole : Obligations.FramesAreAcceptedWhole := by
  refine fun n f s hp hn => ⟨linkFrame_silent hp hn, fun hc => ⟨fun hi ht hnext => ?_, fun hi ht hold => ?_,
    linkFrame_broken hp hn hc, fun hi ht hnew => ?_, fun hi ht hbad => ?_, fun hi ht hbad => ?_⟩⟩
  · have h := linkFrame_numbered hp hn hc hi ht
    rwa [if_pos hnext] at h
  · have h := linkFrame_numbered hp hn hc hi ht
    rwa [if_neg fun hnext => Nat.lt_irrefl _ (hnext ▸ hold), if_pos hold] at h
  · have h := linkFrame_numbered hp hn hc hi ht
    rwa [if_neg fun hnext => Nat.lt_irrefl _ (hnext ▸ hnew), if_neg (Nat.lt_asymm hnew)] at h
  · have h := linkFrame_sealBad hp hn hc hi ht
    rwa [if_neg (Nat.not_le.mpr hbad)] at h
  · have h := linkFrame_sealBad hp hn hc hi ht
    rwa [if_pos hbad] at h

/-! ## Event sources and registers beside them (R401) -/

section Sources
variable {s : State}

/-- A source that becomes pending changes stored registers alone. -/
theorem raise_eq (s : State) (hub k : Nat) : ∃ l, s.raise hub k = { s with regs := l } := by
  unfold State.raise
  split
  · exact ⟨_, rfl⟩
  · exact ⟨s.regs, rfl⟩

@[simp] theorem raise_ports (s : State) (hub k : Nat) : (s.raise hub k).ports = s.ports := by
  obtain ⟨l, h⟩ := raise_eq s hub k
  rw [h]

@[simp] theorem raise_routeWait (s : State) (hub k : Nat) : (s.raise hub k).routeWait = s.routeWait := by
  obtain ⟨l, h⟩ := raise_eq s hub k
  rw [h]

theorem isSource_lt {k : Nat} (h : isSource k = true) : k < 1024 := by
  simp only [isSource, Bool.or_eq_true, Bool.and_eq_true, decide_eq_true_eq] at h
  omega

/-- A register that is no word of EVT_PENDING stays. -/
theorem raise_reg {b : Nat} {r : Reg} (hr : ∀ hub w, w < 16 → regKey b r ≠ regKey (dieAt hub) (.evtPending w)) (hub k : Nat) :
    (s.raise hub k).reg b r = s.reg b r := by
  unfold State.raise
  split
  · next hk =>
    have hw : k / 64 < 16 := by have := isSource_lt hk; omega
    rw [setBits_eq, setReg_reg_other _ _ (hr hub _ hw)]
  · rfl

end Sources

/-! ## Waiting packets tried again (R346) -/

section Routes
variable {s : State}

/-- Where no packet waits there is none to try again. -/
theorem routeAgain_none (h : s.routeWait = []) : s.routeAgain = s := by
  have hs : ({ s with routeWait := [] } : State) = s := by rw [← h]
  unfold State.routeAgain
  simp only [h, List.foldl_nil, List.map_nil, List.eraseDups_nil]
  exact hs

section Kept
variable {b : Nat} {r : Reg} (hr : ∀ hub, regKey b r ≠ regKey (dieAt hub) .lnkFlows)

theorem count_reg (cls die idx c n : Nat) : (s.count cls die idx c n).reg b r = s.reg b r := by
  obtain ⟨l, h⟩ := count_eq s cls die idx c n
  rw [h]
  rfl

/-- The choice of a port draws a free value at most. -/
theorem choosePort_eq (s : State) (ports : List Nat) (p : Packet) : ∃ k, (s.choosePort ports p).2 = { s with fresh := k } := by
  unfold State.choosePort
  extract_lets ok
  split
  · exact ⟨s.fresh, rfl⟩
  · rcases ok with _ | ⟨n, _ | ⟨m, l⟩⟩
    · exact ⟨s.fresh, rfl⟩
    · exact ⟨s.fresh, rfl⟩
    · exact ⟨s.fresh + 1, rfl⟩

/-- An accumulate packet that leaves for the first time changes its record at the sender. -/
theorem stampSend_eq (s : State) (hub : Nat) (p : Packet) : ∃ l, (s.stampSend hub p).2 = { s with sends := l } := by
  unfold State.stampSend
  split
  · split
    · exact ⟨_, rfl⟩
    · exact ⟨s.sends, rfl⟩
  · exact ⟨s.sends, rfl⟩

theorem choosePort_reg (ports : List Nat) (p : Packet) : (s.choosePort ports p).2.reg b r = s.reg b r := by
  obtain ⟨k, h⟩ := choosePort_eq s ports p
  rw [h]
  rfl

theorem stampSend_reg (hub : Nat) (p : Packet) : (s.stampSend hub p).2.reg b r = s.reg b r := by
  obtain ⟨l, h⟩ := stampSend_eq s hub p
  rw [h]
  rfl

/-- Both branches of a choice keep the register. -/
theorem ite_reg {c : Prop} [Decidable c] {t u : State} (ht : t.reg b r = s.reg b r) (hu : u.reg b r = s.reg b r) :
    (if c then t else u).reg b r = s.reg b r := by
  split
  · exact ht
  · exact hu

include hr

/-- A meter sets the flag of a full pool at most. -/
theorem meter_reg (port remote : Nat) (job : BitVec 16) (cls sent received : Nat) :
    (s.meter port remote job cls sent received).reg b r = s.reg b r := by
  have hfull : (s.setBits (dieAt (portHub port)) .lnkFlows 0x10000).reg b r = s.reg b r := setReg_reg_other s _ (hr _)
  exact ite_reg rfl (ite_reg rfl (ite_reg hfull hfull))

theorem passOn_reg (port : Nat) (p : Packet) : (s.passOn port p).reg b r = s.reg b r := by
  show ((s.meter port p.dest p.job p.cls (payloadBytes p.body) 0).count 5 (portHub port) port 0 (payloadBytes p.body)).reg b r = _
  rw [count_reg, meter_reg hr]

theorem sendOn_reg (port : Nat) (p : Packet) : (s.sendOn port p).reg b r = s.reg b r :=
  (passOn_reg hr ..).trans (stampSend_reg ..)

theorem letGo_reg (port : Nat) (p : Packet) : (s.letGo port p).reg b r = s.reg b r :=
  ite_reg (sendOn_reg hr ..) (passOn_reg hr ..)

/-- The turns of a port let packets go or keep them waiting. -/
theorem arbitrate_reg (n fuel : Nat) (l : List RouteWait) (s : State) : (State.arbitrate n fuel l s).reg b r = s.reg b r := by
  induction fuel generalizing l s with
  | zero => rfl
  | succ fuel ih =>
    unfold State.arbitrate
    split
    · split
      · exact (ih ..).trans (letGo_reg hr ..)
      · rfl
    split
    · rfl
    split
    · rfl
    split
    · rfl
    extract_lets len s₁
    split
    · exact (ih ..).trans ((letGo_reg hr ..).trans rfl)
    · exact (ih ..).trans rfl

theorem routeAgain_reg (s : State) : s.routeAgain.reg b r = s.reg b r := by
  unfold State.routeAgain
  extract_lets x
  have hx : x.2.reg b r = s.reg b r := by
    refine List.foldlRecOn (motive := fun (y : List (Nat × RouteWait) × State) => y.2.reg b r = s.reg b r) _ _ rfl fun y hy w _ => ?_
    dsimp only
    split
    · next h => exact (congrArg (fun z => z.2.reg b r) h).symm.trans ((choosePort_reg ..).trans hy)
    · next h => exact (congrArg (fun z => z.2.reg b r) h).symm.trans ((choosePort_reg ..).trans hy)
  exact (foldl_keeps (State.reg · b r) (fun s n => arbitrate_reg hr n _ _ s) _ _).trans hx

end Kept
end Routes

/-! ## A port that changes its state (R352) -/

section Moves
variable {s : State} {n : Nat}

theorem portMove_reg {b : Nat} {r : Reg} (hflows : ∀ hub, regKey b r ≠ regKey (dieAt hub) .lnkFlows)
    (hpend : ∀ hub w, w < 16 → regKey b r ≠ regKey (dieAt hub) (.evtPending w)) (st : PortSt) :
    (s.portMove n st).reg b r = s.reg b r :=
  (routeAgain_reg hflows _).trans ((raise_reg hpend ..).trans rfl)

@[simp] theorem portEvent_port (m : Nat) : (s.portEvent n).port m = s.port m := by
  simp only [State.port, State.portEvent, raise_ports]

@[simp] theorem portEvent_routeWait : (s.portEvent n).routeWait = s.routeWait := raise_routeWait ..

/-- Where no packet waits, a port that moves is only in its new state from now on. -/
theorem portMove_port (hw : s.routeWait = []) (h : n < s.ports.length) (st : PortSt) :
    (s.portMove n st).port n = { s.port n with st := st, since := s.plumb.now } := by
  unfold State.portMove
  rw [routeAgain_none (by rw [portEvent_routeWait]; exact hw), portEvent_port, setPort_port h]

/-- A port without a session. -/
def Port.ended (p : Port) : Port :=
  { p with peer := none, session := Session.reset, txBytes := 0, txStarts := noStarts, txFrame := 0#64, rxFrame := 0#64, turns := [],
           held := [], again := none, sealBad := 0, missed := 0, lowering := false, rising := false }

theorem endSession_port (h : n < s.ports.length) : (s.endSession n).port n = (s.port n).ended := setPort_port h _

@[simp] theorem endSession_reg (b : Nat) (r : Reg) : (s.endSession n).reg b r = s.reg b r := rfl

/-- A message in control flits takes the next FSEQ numbers and lanes alone. -/
theorem control_port (h : n < s.ports.length) (data : Bytes) :
    ∃ q l, (s.control n data).port n = { s.port n with txSeq := q, txLane := l } :=
  ⟨_, _, setPort_port h _⟩

@[simp] theorem control_reg (data : Bytes) (b : Nat) (r : Reg) : (s.control n data).reg b r = s.reg b r := rfl

end Moves

/-! ## Training, lanes and retries (R352 to R354) -/

section Training
variable {s : State} {n : Nat}

/-- A port whose lanes are trained, with the path asymmetry measured (R39, R352). -/
def State.trained (s : State) (n : Nat) (lanes : BitVec 8) (rev : Bool) (inv : BitVec 8) (asym : BitVec 16) : State :=
  let b := dieAt (portHub n)
  let v := BitVec.ofNat 64 asym.toNat
  let key := regKey b (.plbPortAsym n)
  let s := s.setReg b (.plbPortAsym n) v
  let s : State := { s with live := if v = 0#64 then kvDel s.live key else kvSet s.live key v }
  s.setPort n (fun p => { p with active := lanes, dropped := 0#8, reversed := rev, inverted := inv })

/-- The port opens its session with a HELLO (R356). -/
def State.openSession (s : State) (n : Nat) : State :=
  ((s.endSession n).portMove n .session).control n (hello s.sec.pkg s.fuses.identityPk)

theorem trained_asym (lanes : BitVec 8) (rev : Bool) (inv : BitVec 8) (asym : BitVec 16) :
    (s.trained n lanes rev inv asym).reg (dieAt (portHub n)) (.plbPortAsym n) = BitVec.ofNat 64 asym.toNat :=
  setReg_reg_same s (dieAt (portHub n)) (.plbPortAsym n) _

theorem trained_port (h : n < s.ports.length) (lanes : BitVec 8) (rev : Bool) (inv : BitVec 8) (asym : BitVec 16) :
    (s.trained n lanes rev inv asym).port n = { s.port n with active := lanes, dropped := 0#8, reversed := rev, inverted := inv } :=
  setPort_port h _

/-- PLB_PORT_ASYM of an existing port is neither LNK_FLOWS nor a word of EVT_PENDING. -/
theorem asym_ne_flows (hn : n < 30) (die hub : Nat) : regKey (dieAt die) (.plbPortAsym n) ≠ regKey (dieAt hub) .lnkFlows := by
  simp only [regKey, dieAt, Reg.blk, Reg.offset]
  omega

theorem asym_ne_pending (hn : n < 30) (die hub w : Nat) (hw : w < 16) :
    regKey (dieAt die) (.plbPortAsym n) ≠ regKey (dieAt hub) (.evtPending w) := by
  simp only [regKey, dieAt, Reg.blk, Reg.offset]
  omega

theorem openSession_asym (hn : n < 30) (die : Nat) :
    (s.openSession n).reg (dieAt die) (.plbPortAsym n) = s.reg (dieAt die) (.plbPortAsym n) := by
  rw [State.openSession, control_reg, portMove_reg (asym_ne_flows hn die) (asym_ne_pending hn die), endSession_reg]

/-- Where no packet waits, the port is in SESSION with its lanes as they were. -/
theorem openSession_port (hw : s.routeWait = []) (h : n < s.ports.length) : ∃ q l, (s.openSession n).port n =
    { (s.port n).ended with st := .session, since := s.plumb.now, txSeq := q, txLane := l } := by
  have hlen : n < (s.endSession n).ports.length := by
    show n < (s.setPort n _).ports.length
    rwa [setPort_ports_length]
  have hmove : ((s.endSession n).portMove n .session).port n = { (s.port n).ended with st := .session, since := s.plumb.now } := by
    rw [portMove_port (s := s.endSession n) hw hlen, endSession_port h]
    rfl
  have hlen' : n < ((s.endSession n).portMove n .session).ports.length := by
    unfold State.portMove
    rw [routeAgain_none (by rw [portEvent_routeWait]; exact hw), State.portEvent, raise_ports, setPort_ports_length]
    exact hlen
  obtain ⟨q, l, hq⟩ := control_port hlen' (hello s.sec.pkg s.fuses.identityPk)
  exact ⟨q, l, by rw [State.openSession, hq, hmove]⟩

variable (hp : s.power.rails = true) (hn : n < 30)
include hp hn

theorem portTrainingDone_answers {lanes inv : BitVec 8} {rev : Bool} {asym : BitVec 16} (hst : (s.port n).st = .training)
    (hmin : s.minLanes n ≤ laneCount lanes) :
    Answers (.portTrainingDone n lanes rev inv asym) s ((s.trained n lanes rev inv asym).openSession n) :=
  answers_of_onPort hp hn (congrArg (onUnit _ _ s) (if_pos ⟨hst, hmin⟩))

theorem laneDrop_answers {lane : Nat} {why : LaneCause} {u : State} (hlane : lane < 8)
    (hst : (s.port n).st = .up ∨ (s.port n).st = .degraded ∨ (s.port n).st = .hairline)
    (hact : (s.port n).active.getLsbD lane = true) (hbad : s.laneBad n why = true)
    (hu : u = ((s.setPort n (fun p =>
        { p with active := p.active &&& ~~~(BitVec.ofNat 8 (2 ^ lane)), dropped := p.dropped ||| BitVec.ofNat 8 (2 ^ lane) })).count
          5 (portHub n) n 3 1).event (portHub n) kLaneDropped noCtx n 0#8 (leBytes 1 lane)) :
    Answers (.laneDrop n lane why) s (if laneCount (u.port n).active < u.minLanes n then u.portFail n else u.portMove n .retraining) := by
  refine answers_of_onUnit (ok := decide (n < 30) && decide (lane < 8)) (what := "lane") ?_ (by simp [hn, hlane]) hp
  show execLaneDrop n lane why s = _
  subst hu
  rcases hst with hst | hst | hst
  all_goals
    simp only [execLaneDrop, hst, hact, hbad]
    rfl

/-- The lanes that stay are trained: the held frames go again and the event is recorded (R353). -/
def State.retrained (s : State) (n : Nat) (lanes : BitVec 8) : State :=
  ((s.setPort n (fun p => { p with active := lanes, dropped := p.dropped ||| (p.active &&& ~~~lanes) })).setPort n
    (fun p => { p with hair := hairLane p })).event (portHub n) kRetrained noCtx n 0#8
      (leBytes 1 (laneCount lanes) ++ leBytes 4 (s.plumb.now - (s.port n).since).toNat)

theorem laneRetrainDone_answers {lanes : BitVec 8} (hst : (s.port n).st = .retraining) (hsub : lanes &&& ~~~(s.port n).active = 0#8) :
    Answers (.laneRetrainDone n lanes) s (if laneCount lanes < s.minLanes n then s.portFail n
      else ((s.retrained n lanes).portMove n (if (s.retrained n lanes).portMode n = 1 then .hairline else .degraded)).distanceTable) :=
  answers_of_onPort hp hn (congrArg (onUnit _ _ s) (if_neg (by simp [hst, hsub])))

theorem portFailedRetry_answers (hst : (s.port n).st = .failed) (hmode : s.portMode n ≠ 0)
    (ht : 4000000000 ≤ (s.plumb.now - (s.port n).since).toNat) : Answers (.portFailedRetry n) s (s.portMove n .training) :=
  answers_of_onPort hp hn (congrArg (onUnit _ _ s) (if_pos ⟨hst, hmode, ht⟩))

theorem portOff_answers (hcl : (s.port n).closing = true)
    (hdone : (s.port n).held = [] ∨ 4000000 ≤ (s.plumb.now - (s.port n).since).toNat) : Answers (.portOff n) s
      (((s.setPort n (fun p => { p with closing := false, active := 0#8 })).endSession n).portMove n .off) :=
  answers_of_onPort hp hn (congrArg (onUnit _ _ s) (if_pos (by simpa [hcl] using hdone)))

theorem fullModeRestored_answers {lanes : BitVec 8} (hst : (s.port n).st = .hairline) (hrise : (s.port n).rising = true)
    (hkept : lanes &&& (s.port n).dropped = 0#8) (hmin : s.minLanes n ≤ laneCount lanes) : Answers (.fullModeRestored n lanes) s
      ((s.setPort n (fun p => { p with active := lanes, rising := false })).portMove n (if laneCount lanes = 8 then .up else .degraded)) :=
  answers_of_onPort hp hn (congrArg (onUnit _ _ s) (if_pos ⟨hst, hrise, hkept, hmin⟩))

end Training

/-- Settles O39: each clause is one branch of its command; a packet that is tried again touches no PLB_PORT_ASYM, and where none waits a port that
moves is changed in its state alone. -/
theorem portsTrain : Obligations.PortsTrain := by
  refine fun n s hp hn => ⟨fun lanes rev inv asym hst hmin => ⟨_, portTrainingDone_answers hp hn hst hmin, fun hlen hw => ?_, ?_⟩,
    fun lane why u hlane hst hact hbad hu => laneDrop_answers hp hn hlane hst hact hbad hu,
    fun lanes hst hsub hmin => ?_, fun lanes u hst hsub hmin hu => ?_, portFailedRetry_answers hp hn, portOff_answers hp hn,
    fun lanes => fullModeRestored_answers hp hn⟩
  · obtain ⟨q, l, hport⟩ := openSession_port (s := s.trained n lanes rev inv asym) hw
      (Nat.lt_of_lt_of_eq hlen (setPort_ports_length _).symm)
    rw [trained_port hlen] at hport
    rw [settle_port, hport]
    exact ⟨rfl, rfl, rfl, rfl, rfl, rfl⟩
  · rw [settle_reg, openSession_asym hn, trained_asym]
  · have h := laneRetrainDone_answers hp hn hst hsub
    rwa [if_pos hmin] at h
  · have h := laneRetrainDone_answers hp hn hst hsub
    rw [if_neg (Nat.not_lt.mpr hmin)] at h
    exact hu ▸ h

/-! ## Heartbeats (R355) -/

section Heartbeats
variable {s : State} {n : Nat} (hp : s.power.rails = true) (hn : n < 30)
include hp hn

theorem heartbeatSend_answers (hc : (s.port n).carries = true) (ht : 4194304 ≤ (s.plumb.now - (s.port n).lastTx).toNat) :
    Answers (.heartbeatSend n) s ((s.setPort n (fun p => { p with lastTx := s.plumb.now })).sendOn n
      (s.packet ((s.port n).peer.getD 0) 6 0#16 (.heartbeat s.sec.pkg (s.port n).st.code))) :=
  answers_of_onPort hp hn (congrArg (onUnit _ _ s) (if_pos (by simpa [hc, heartTicks] using ht)))

theorem heartbeat_from_peer {pkg st : Nat} (hc : (s.port n).carries = true) (hpeer : (s.port n).peer = some pkg) :
    Answers (.heartbeat n pkg st) s (s.setPort n (fun p => { p with lastRx := s.plumb.now, missed := 0 })) :=
  answers_of_onPort hp hn (congrArg (onUnit _ _ s) (if_pos (by simp [hc, hpeer])))

theorem heartbeat_from_other {pkg st : Nat} (hpeer : (s.port n).peer ≠ some pkg) : Answers (.heartbeat n pkg st) s s :=
  answers_of_onPort hp hn (congrArg (onUnit _ _ s) (if_neg (by simp [hpeer])))

/-- One heartbeat more is missed. -/
def State.missedOne (s : State) (n : Nat) : State := s.setPort n (fun p => { p with missed := p.missed + 1 })

theorem heartbeatMissed_answers (hc : (s.port n).carries = true)
    (ht : 4194304 * ((s.port n).missed + 1) ≤ (s.plumb.now - (s.port n).lastRx).toNat) : Answers (.heartbeatMissed n) s
      (if 3 ≤ (s.port n).missed + 1 then (s.missedOne n).portFail n else s.missedOne n) :=
  answers_of_onPort hp hn (congrArg (onUnit _ _ s) (if_pos (by simpa [hc, heartTicks] using ht)))

end Heartbeats

/-! ## LNK_APPLY, LNK_FLOWS_RESET and D2D_LANE_REPAIR (R359, R360) -/

section LintelSettings
variable {s : State} (hp : s.power.rails = true)
include hp

theorem lnkApply_answers {hub : Nat} (hh : isHub hub = true) : Answers (.lnkApply hub) s (s.lnkApplyAt hub) :=
  answers_of_onUnit rfl hh hp

theorem lnkFlowsReset_answers {hub : Nat} (hh : isHub hub = true) : Answers (.lnkFlowsReset hub) s (s.flowsReset hub) :=
  answers_of_onUnit rfl hh hp

/-- A module of a die-to-die link leaves service unless its lane fault was repaired. -/
def State.laneRepaired (s : State) (key hi : Nat) (repaired : Bool) : State :=
  if repaired then s else { s with d2dLost := kvSet s.d2dLost key (min ((kvGet s.d2dLost key).getD 0 + 1) (d2dModules hi)) }

/-- Either outcome is recorded, in the ring of the lower die with free lanes and ticks (log entry 49). -/
theorem d2dLaneRepair_answers {a b key : Nat} {r : Bool} {u : State} (hlink : d2dPairs.contains (min a b, max a b) = true)
    (hkey : key = 16 * min a b + max a b) (hu : u = s.laneRepaired key (max a b) r) : Answers (.d2dLaneRepair a b r) s
      ((u.draw.2.event (min a b) kRetrained noCtx (0x100 + key) 0#8 (leBytes 1 u.draw.1 ++ leBytes 4 (u.draw.1 / 256 % 80001))).distanceTable) := by
  subst hkey hu
  exact answers_of_onUnit rfl hlink hp

end LintelSettings

/-- Settles O41: each clause is one branch of its command. That a heartbeat carries the code of its port's state is the model's choice (log entry
62), and so is the place of a die-to-die event (log entry 49). -/
theorem heartbeatsAndLintelSettings : Obligations.HeartbeatsAndLintelSettings := fun _ hp =>
  ⟨fun _ => heartbeatSend_answers hp, fun _ _ _ hn => heartbeat_from_peer hp hn, fun _ _ _ hn => heartbeat_from_other hp hn,
    fun _ => heartbeatMissed_answers hp, fun _ => lnkApply_answers hp, fun _ => lnkFlowsReset_answers hp,
    fun _ _ _ _ _ => d2dLaneRepair_answers hp⟩

end Sys2Proof.Machine
end

section
/-! SUPPORT. Proofs of the statements about Lintel packets: what a received packet does by its TYPE (R42, R345 to R347, R355), and the time
limits of routes, remote accesses and notices (R243, R346, R347, R387). -/

namespace Sys2Proof.Machine

/-! ## Send stamps (R42) -/

/-- A value of 64 bits within 2^39 of 0 is the sign extension of its low 40 bits. -/
theorem signExtend_low {d : BitVec 64} (hlo : -(2 ^ 39) < d.toInt) (hhi : d.toInt < 2 ^ 39) : (d.setWidth 40).signExtend 64 = d := by
  apply BitVec.eq_of_toInt_eq
  calc ((d.setWidth 40).signExtend 64).toInt
      = (d.setWidth 40).toInt := BitVec.toInt_signExtend_of_le (by decide)
    _ = (d.toNat : Int).bmod (2 ^ 40) := BitVec.toInt_setWidth d
    _ = d.toInt.bmod (2 ^ 40) := by rw [BitVec.toInt_eq_toNat_bmod, Int.bmod_bmod_of_dvd (by decide)]
    _ = d.toInt := Int.bmod_eq_of_le (by omega) (by omega)

/-- The extension of a send stamp is the value nearest to the receiver's time with its low 40 bits. -/
theorem extendStamp_eq {now V : BitVec 64} {f : BitVec 40} (hf : V.truncate 40 = f) (hlo : -(2 ^ 39) < (V - now).toInt)
    (hhi : (V - now).toInt < 2 ^ 39) : extendStamp now f = V := by
  have hlow : f - now.truncate 40 = (V - now).setWidth 40 := by
    subst hf
    bv_omega
  rw [extendStamp, hlow, signExtend_low hlo hhi, BitVec.add_comm, BitVec.sub_add_cancel]

/-! ## Arrival (R345 to R348) -/

section Arrival
variable {s : State} {n : Nat} {p : Packet}

/-- A packet received and counted (R348, R351), before it is delivered or goes on. -/
def State.counted (s : State) (n : Nat) (p : Packet) : State :=
  ((s.stampIn n p).meter n p.src p.job p.cls 0 (payloadBytes p.body)).count 5 (portHub n) n 1 (payloadBytes p.body)

theorem counted_aside : (s.counted n p).aside = s.aside := (count_aside ..).trans ((meter_aside ..).trans (setPort_aside ..))

theorem counted_sec : (s.counted n p).sec = s.sec :=
  show (s.counted n p).aside.sec = s.aside.sec from congrArg State.sec counted_aside

theorem receive_malformed (hh : headerOk p = false) :
    s.receive n p = ((s.stampIn n p).setBits (dieAt (portHub n)) .lnkFaults 4).portEvent n := if_pos (by simp [hh])

theorem receive_wellFormed (hh : headerOk p = true) :
    s.receive n p = if p.dest = s.sec.pkg then (s.counted n p).deliver n p else (s.counted n p).forward n p := by
  rw [← counted_sec (n := n) (p := p)]
  exact if_neg (by simp [hh])

/-- A packet for this package goes to the unit of its TYPE. -/
theorem receive_here (hh : headerOk p = true) (hd : p.dest = s.sec.pkg) : s.receive n p = (s.counted n p).deliver n p :=
  (receive_wellFormed hh).trans (if_pos hd)

theorem receive_elsewhere (hh : headerOk p = true) (hd : p.dest ≠ s.sec.pkg) : s.receive n p = (s.counted n p).forward n p :=
  (receive_wellFormed hh).trans (if_neg hd)

/-- PEER_FAULT and its source leave the reports and interrupts that wait as they were. -/
theorem faultIn_eq (data : Bytes) : s.faultIn n data =
    { (s.setBits (dieAt (portHub n)) (.lnkStatus n) 0x80000).portEvent n with faults := s.faults ++ [data], ibi := s.ibi ++ [0x01#8] } := by
  obtain ⟨l, h⟩ := raise_eq (s.setBits (dieAt (portHub n)) (.lnkStatus n) 0x80000) (portHub n) (192 + n % 15)
  simp only [State.faultIn, State.portEvent, h]
  rfl

variable (hp : s.power.rails = true) (hn : n < 30) (hc : (s.port n).carries = true)

section Carried
variable (hk : s.carriesClass n p.cls = true)

include hc hk in
theorem arrive_carried : s.arrive n p = s.receive n p := if_pos (by simp [hc, hk])

include hp hn hc hk in
/-- A command that is a lone arrival, at a port that carries the packet's class. -/
theorem answers_of_arrival {c : Instr} {t : State} (hx : exec c s = onUnit (decide (n < 30)) "port" s (s.arrive n p))
    (ht : s.receive n p = t) : Answers c s t :=
  answers_of_onPort hp hn (by rw [hx, arrive_carried hc hk, ht])

variable (hh : headerOk p = true)
include hp hn hc hk

theorem packetForward_answers {t : State} (hd : p.dest ≠ s.sec.pkg) (ht : s.receive n p = t) : Answers (.packetForward n p) s t :=
  answers_of_arrival hp hn hc hk (congrArg (onUnit _ _ s) (if_neg hd)) ht

variable (hd : p.dest = s.sec.pkg)
include hh hd

theorem readRequest_answers {a : BitVec 64} {tag len : Nat} (hb : p.body = .readRequest a tag len) :
    Answers (.readRequest n p) s ((s.counted n p).readIn n p a tag len) := by
  refine answers_of_arrival hp hn hc hk (?_ : execReadRequest n p s = _) ?_
  · simp only [execReadRequest, hb]
  · simp only [receive_here hh hd, State.deliver, hb]

theorem readCompletion_answers {tag st : Nat} {d : Bytes} {bad : List Nat} (hb : p.body = .readCompletion tag st d bad) :
    Answers (.readCompletion n p) s ((s.counted n p).completionIn p tag st d bad) := by
  refine answers_of_arrival hp hn hc hk (?_ : execReadCompletion n p s = _) ?_
  · simp only [execReadCompletion, hb]
  · simp only [receive_here hh hd, State.deliver, hb]

theorem write_answers {a : BitVec 64} {tag : Nat} {d : Bytes} (hb : p.body = .write a tag d) :
    Answers (.write n p) s ((s.counted n p).writeIn n p a tag d) := by
  refine answers_of_arrival hp hn hc hk (?_ : execWrite n p s = _) ?_
  · simp only [execWrite, hb]
  · simp only [receive_here hh hd, State.deliver, hb]

theorem writeReply_answers {tag st : Nat} (hb : p.body = .writeReply tag st) :
    Answers (.writeReply n p) s ((s.counted n p).writeReplyIn n p tag st) := by
  refine answers_of_arrival hp hn hc hk (?_ : execWriteReply n p s = _) ?_
  · simp only [execWriteReply, hb]
  · simp only [receive_here hh hd, State.deliver, hb]

end Carried

theorem stampIn_rxStamp {V : BitVec 64} (hV : V.truncate 40 = p.stamp) (hlo : -(2 ^ 39) < (V - s.dieNow (portHub n)).toInt)
    (hhi : (V - s.dieNow (portHub n)).toInt < 2 ^ 39) (h : n < s.ports.length) : ((s.stampIn n p).port n).rxStamp = V := by
  rw [State.stampIn, setPort_port h]
  exact extendStamp_eq hV hlo hhi

include hp hn hc

theorem wake_answers : Answers (.wake n) s ((s.raise 8 srcWake).wake 0) :=
  answers_of_onPort hp hn (congrArg (onUnit _ _ s) (if_pos hc))

theorem faultReport_answers (data : Bytes) : Answers (.faultReport n data) s
    { (s.setBits (dieAt (portHub n)) (.lnkStatus n) 0x80000).portEvent n with faults := s.faults ++ [data], ibi := s.ibi ++ [0x01#8] } := by
  rw [← faultIn_eq]
  exact answers_of_onPort hp hn (congrArg (onUnit _ _ s) (if_pos hc))

end Arrival

/-- Settles O42: every packet row is a lone arrival, which `receive` drops, delivers or lets go on; a stamp is extended to the nearest value. A WAKE
makes its source pending in any power state (log entry 50). -/
theorem packetsArrive : Obligations.PacketsArrive := fun _ _ _ hp hn hc =>
  ⟨fun _ _ _ hb hk hd hh => readRequest_answers hp hn hc hk hh hd hb, fun _ _ _ _ hb hk hd hh => readCompletion_answers hp hn hc hk hh hd hb,
    fun _ _ _ hb hk hd hh => write_answers hp hn hc hk hh hd hb, fun _ _ hb hk hd hh => writeReply_answers hp hn hc hk hh hd hb,
    fun hk hd hh => packetForward_answers hp hn hc hk hd (receive_elsewhere hh hd),
    fun hk hd hh => packetForward_answers hp hn hc hk hd (receive_malformed hh),
    fun _ hV hlo hhi h => stampIn_rxStamp hV hlo hhi h, wake_answers hp hn hc, faultReport_answers hp hn hc⟩

/-! ## Time limits (R243, R346, R347, R387) -/

section TimeLimits
variable {s : State}

/-- A packet for a package has waited too long: it waits no more, and the fault bit and the source of the first port of its list tell it (R346; for
a packet of the package's own log entry 46). -/
def State.routeDropped (s : State) (hub dest : Nat) (rest : List RouteWait) : State :=
  let u := ({ s with routeWait := rest } : State).setBits (dieAt hub) .lnkFaults 2
  match u.routePorts hub dest with
  | port :: _ => u.portEvent port
  | [] => u

/-- Besides the packet that waits no more, stored registers alone change. -/
theorem routeDropped_eq (hub dest : Nat) (rest : List RouteWait) :
    ∃ l, s.routeDropped hub dest rest = { s with routeWait := rest, regs := l } := by
  unfold State.routeDropped
  extract_lets u
  split
  · exact raise_eq u _ _
  · exact ⟨_, rfl⟩

theorem faults_ne_pending (die hub w : Nat) (hw : w < 16) : regKey (dieAt die) .lnkFaults ≠ regKey (dieAt hub) (.evtPending w) := by
  simp only [regKey, dieAt, Reg.blk, Reg.offset]
  omega

theorem routeDropped_fault (hub dest : Nat) (rest : List RouteWait) :
    ((s.routeDropped hub dest rest).reg (dieAt hub) .lnkFaults).getLsbD 1 = true := by
  unfold State.routeDropped
  extract_lets u
  have hu : (u.reg (dieAt hub) .lnkFaults).getLsbD 1 = true := by
    rw [show u.reg (dieAt hub) .lnkFaults = _ from setReg_reg_same _ _ _ _, BitVec.getLsbD_or]
    simp
  split
  · rw [State.portEvent, raise_reg (faults_ne_pending hub)]
    exact hu
  · exact hu

theorem routeDropped_leaseByTag (hub dest tag : Nat) (rest : List RouteWait) : (s.routeDropped hub dest rest).leaseByTag tag = s.leaseByTag tag := by
  obtain ⟨l, h⟩ := routeDropped_eq (s := s) hub dest rest
  rw [h]
  rfl

/-- A take that a dropped packet of this package carried fails its command, whose home cannot be reached (R243). -/
def State.takeLost (s : State) (p : Packet) : State :=
  match p.body with
  | .leaseRequest q =>
    match s.leaseByTag q.tag with
    | some (r, u) => if u.phase = .asked ∧ p.src = s.sec.pkg then s.failRun r stLink none else s
    | none => s
  | _ => s

theorem takeLost_other {p : Packet} (hb : ∀ q, p.body ≠ .leaseRequest q) : s.takeLost p = s := by
  unfold State.takeLost
  split
  · next q hq => exact absurd hq (hb q)
  · rfl

theorem takeLost_asked {p : Packet} {q : LeaseReq} {r : Run} {u : LeaseUse} (hb : p.body = .leaseRequest q)
    (hu : s.leaseByTag q.tag = some (r, u)) (hasked : u.phase = .asked) (hsrc : p.src = s.sec.pkg) :
    s.takeLost p = s.failRun r stLink none := by
  simp only [State.takeLost, hb, hu, if_pos (And.intro hasked hsrc)]

/-- A packet waits for this hub, and is none of a mirror range (R346, R460). -/
def State.waitsFor (s : State) (hub : Nat) (w : RouteWait) : Bool := w.hub == hub && !(w.packet.src == s.sec.pkg && isMirror w.packet.body)

variable (hp : s.power.rails = true)
include hp

theorem routeTimeout_answers {hub k : Nat} {w : RouteWait} {rest : List RouteWait} (hh : isHub hub = true)
    (hw : takeNth (s.waitsFor hub) k s.routeWait = (some w, rest)) (ht : s.elapsed w.since (s.linkTimeout hub) = true) :
    Answers (.routeTimeout hub k) s ((s.routeDropped hub w.packet.dest rest).takeLost w.packet) := by
  refine answers_of_onUnit (ok := isHub hub) (what := "hub") (?_ : execRouteTimeout hub k s = _) hh hp
  unfold State.waitsFor at hw
  simp only [execRouteTimeout, hw, ht]
  rfl

theorem remoteAccessTimeout_answers {tag lead : Nat} {x : Remote} {r : Run} (hx : s.remotes.find? (fun x => x.tag == tag) = some x)
    (hu : x.use = .command lead) (hr : s.runOf lead = some r)
    (ht : s.elapsed x.since (s.linkTimeout (servingHub (lead / 8))) = true) : Answers (.remoteAccessTimeout tag) s
      (({ s with remotes := s.remotes.filter (fun y => y.tag != tag) } : State).failRun r stLink none) := by
  refine answers_of_done (?_ : execRemoteAccessTimeout tag s = _) hp
  simp only [execRemoteAccessTimeout, hx, hu, hr, ht, if_true]

theorem noticeTimeout_answers {tag hub c q : Nat} {x : Remote} (hx : s.remotes.find? (fun x => x.tag == tag) = some x)
    (hu : x.use = .notice hub c q) (ht : s.elapsed x.since (s.linkTimeout hub) = true) : Answers (.noticeTimeout tag) s
      (({ s with remotes := s.remotes.filter (fun y => y.tag != tag) } : State).noticeLost c q) := by
  refine answers_of_done (?_ : execNoticeTimeout tag s = _) hp
  simp only [execNoticeTimeout, hx, hu, ht, if_true]

end TimeLimits

/-- Settles O43: a packet that has waited too long is dropped with its fault bit, which changes no running command, so the take that it carried is
found and fails; the other limits are one branch each. For a packet of the package's own the first port of its list is named (log entry 46). -/
theorem timeLimitsAct : Obligations.TimeLimitsAct := by
  refine fun s hp => ⟨fun hub k w rest hh hw ht hb => ⟨_, routeTimeout_answers hp hh hw ht, ?_⟩,
    fun hub k w rest q r x u hh hw ht hb hsrc hu hx hasked => ?_, fun _ _ _ _ => remoteAccessTimeout_answers hp,
    fun _ _ _ _ _ => noticeTimeout_answers hp⟩
  · rw [takeLost_other hb, settle_routeWait, settle_reg]
    obtain ⟨l, hdrop⟩ := routeDropped_eq (s := s) hub w.packet.dest rest
    have hmem : (s.routeDropped hub w.packet.dest rest).mem = s.mem := by rw [hdrop]
    exact ⟨by rw [hdrop], routeDropped_fault .., settle_sameMemory fun a => congrArg (memGet · a) hmem⟩
  · have hsec : (s.routeDropped hub w.packet.dest rest).sec = s.sec := by
      obtain ⟨l, hdrop⟩ := routeDropped_eq (s := s) hub w.packet.dest rest
      rw [hdrop]
    have h := routeTimeout_answers hp hh hw ht
    rw [takeLost_asked hb ((routeDropped_leaseByTag ..).trans hx) hasked (hsec ▸ hsrc)] at h
    exact hu ▸ h

end Sys2Proof.Machine
end

section
/-! SUPPORT. Proofs of the statements about boundary scan (R371, R430), the management port and the Data Object Exchange (R366, R368, R369, R421,
R424). -/

namespace Sys2Proof.Machine

/-! ## Boundary scan (R371, R430) -/

section Scan
variable {s : State}

theorem scanOpen_iff : s.scanOpen = true ↔ s.sec.watching = false ∨ s.sec.mode = .recovery := by
  simp [State.scanOpen]

/-- A restricted instruction takes effect while its time lasts. -/
theorem scanAs_open (i : Scan) (h : s.scanOpen = true) : s.scanAs true i = { s with scan := i } := by
  simp [State.scanAs, h]

/-- Outside it acts as BYPASS. -/
theorem scanAs_shut (i : Scan) (h : s.scanOpen = false) : s.scanAs true i = { s with scan := .bypass } := by
  simp [State.scanAs, h]

variable (hp : s.power.rails = true)
include hp

/-- A restricted instruction on the chain. -/
theorem restricted_answers {c : Instr} {i : Scan} {t : State} (hc : exec c s = done s (s.scanAs true i)) (ht : s.scanAs true i = t) :
    Answers c s t :=
  ht ▸ answers_of_done hc hp

theorem privateScan_locked {k : Nat} (h : s.sec.debug = false ∨ s.sec.scope.getLsbD 0 = false) :
    Answers (.privateScanInstruction k) s { s with scan := .bypass } := by
  refine answers_of_done (?_ : execPrivateScanInstruction k s = _) hp
  refine if_neg fun hopen => ?_
  simp only [Bool.and_eq_true] at hopen
  obtain ⟨⟨-, hdebug⟩, hscope⟩ := hopen
  rcases h with h | h
  · exact Bool.false_ne_true (h.symm.trans hdebug)
  · exact Bool.false_ne_true (h.symm.trans hscope)

end Scan

/-- Settles O45: the five restricted instructions go through one test of their time, the others always act; SCOPE bit 0 is that of R430. -/
theorem boundaryScanRuns : Obligations.BoundaryScanRuns := by
  refine fun s hp => ⟨answers_of_done rfl hp, answers_of_done rfl hp, answers_of_done rfl hp, fun htime => ?_, fun hwatch hmode c hc => ?_,
    fun k => privateScan_locked hp⟩
  · have hopen := scanOpen_iff.mpr htime
    exact ⟨restricted_answers hp rfl (scanAs_open _ hopen), restricted_answers hp rfl (scanAs_open _ hopen),
      restricted_answers hp rfl (scanAs_open _ hopen), restricted_answers hp rfl (scanAs_open _ hopen),
      restricted_answers hp rfl (scanAs_open _ hopen)⟩
  · have hshut : s.scanOpen = false := Bool.eq_false_iff.mpr fun h => (scanOpen_iff.mp h).elim (by simp [hwatch]) hmode
    simp only [List.mem_cons, List.not_mem_nil, or_false] at hc
    rcases hc with rfl | rfl | rfl | rfl | rfl
    · exact restricted_answers hp rfl (scanAs_shut .extest hshut)
    · exact restricted_answers hp rfl (scanAs_shut .extestPulse hshut)
    · exact restricted_answers hp rfl (scanAs_shut .extestTrain hshut)
    · exact restricted_answers hp rfl (scanAs_shut .clamp hshut)
    · exact restricted_answers hp rfl (scanAs_shut .highz hshut)

/-! ## Requests of the management port (R368, R369) -/

section Management
variable {s : State} {tag : BitVec 8}

theorem serve_of_served {role type : Nat} {inRec : Bool} (f : State → State) (h : s.asked.served role inRec = true) :
    s.serve role inRec type tag f = f s.asked := if_pos h

theorem serve_denied {role type : Nat} {inRec : Bool} (f : State → State) (h : s.asked.served role inRec = false) :
    s.serve role inRec type tag f = s.asked.reply type tag mDenied [] := if_neg (by simp [h])

/-- Every role may make a request that recovery allows of role NONE. -/
theorem served_always (s : State) : s.served 0 true = true := by
  unfold State.served
  split
  · rfl
  · exact decide_eq_true (Nat.zero_le _)

/-- Out of recovery a request is served by its role. -/
theorem served_iff {role : Nat} {inRec : Bool} (h : s.recovering = false) : s.served role inRec = decide (role ≤ s.sec.role) :=
  if_neg (by simp [h])

variable (hp : s.power.rails = true)
include hp

/-- A request that the role may make is answered by its meaning. -/
theorem request_answers {c : Instr} {role type : Nat} {inRec : Bool} {f : State → State} {t : State}
    (hc : exec c s = done s (s.serve role inRec type tag f)) (h : s.asked.served role inRec = true) (ht : f s.asked = t) : Answers c s t :=
  answers_of_done (by rw [hc, serve_of_served f h, ht]) hp

section Normal
variable (hr : s.asked.recovering = false)
include hr

theorem request_allowed {c : Instr} {role type : Nat} {inRec : Bool} {f : State → State} {t : State}
    (hc : exec c s = done s (s.serve role inRec type tag f)) (h : role ≤ s.asked.sec.role) (ht : f s.asked = t) : Answers c s t :=
  request_answers hp hc ((served_iff hr).trans (decide_eq_true h)) ht

theorem request_denied {c : Instr} {role type : Nat} {inRec : Bool} {f : State → State}
    (hc : exec c s = done s (s.serve role inRec type tag f)) (h : s.asked.sec.role < role) :
    Answers c s (s.asked.reply type tag mDenied []) :=
  answers_of_done (by rw [hc, serve_denied f ((served_iff hr).trans (decide_eq_false (Nat.not_le.mpr h)))]) hp

theorem regRead_answers {a : BitVec 64} (h : 2 ≤ s.asked.sec.role) (h2 : s.asked.power.st ≠ .s2) :
    Answers (.regRead tag a) s (s.asked.mgmtRead tag a) := request_allowed hp hr rfl h (if_neg fun hs2 => h2 hs2.1)

theorem regWrite_answers {a v : BitVec 64} (h : 2 ≤ s.asked.sec.role) (h2 : s.asked.power.st ≠ .s2) :
    Answers (.regWrite tag a v) s (s.asked.mgmtWrite tag a v) := request_allowed hp hr rfl h (if_neg fun hs2 => h2 hs2.1)

theorem regRead_denied {a : BitVec 64} (h : s.asked.sec.role < 2) : Answers (.regRead tag a) s (s.asked.reply 2 tag mDenied []) :=
  request_denied hp hr rfl h

theorem regWrite_denied {a v : BitVec 64} (h : s.asked.sec.role < 2) : Answers (.regWrite tag a v) s (s.asked.reply 3 tag mDenied []) :=
  request_denied hp hr rfl h

theorem telemetry_answers {n : Nat} (h : 2 ≤ s.asked.sec.role) (hn : n ≤ 64) : Answers (.telemetry tag n) s
    (({ s.asked with telem := s.asked.telem.drop n } : State).reply 4 tag mOk (s.asked.telem.take n).flatten) :=
  request_allowed hp hr rfl h (if_neg (Nat.not_lt.mpr hn))

theorem health_answers (h : 1 ≤ s.asked.sec.role) : Answers (.health tag) s (s.asked.reply 5 tag mOk s.asked.healthBytes) :=
  request_allowed hp hr rfl h rfl

theorem mgmtFaultReport_oldest {f : Bytes} {rest : List Bytes} (hf : s.asked.faults = f :: rest) : Answers (.mgmtFaultReport tag) s
    (({ s.asked with faults := rest } : State).reply 6 tag mOk f) :=
  request_allowed hp hr rfl (Nat.zero_le _) (by simp only [hf])

theorem mgmtFaultReport_empty (hf : s.asked.faults = []) : Answers (.mgmtFaultReport tag) s (s.asked.reply 6 tag mOk []) :=
  request_allowed hp hr rfl (Nat.zero_le _) (by simp only [hf])

theorem recoveryChunk_denied {ch : Chunk} : Answers (.recoveryChunk tag ch) s (s.asked.reply 8 tag mDenied []) :=
  answers_of_done (congrArg (done s) (if_pos (by simp [hr]))) hp

end Normal

theorem identify_answers : Answers (.identify tag) s (s.asked.reply 1 tag mOk s.asked.identifyBytes) :=
  request_answers hp rfl (served_always _) rfl

/-! ## Colophons and recovery chunks (R366, R421, R424) -/

theorem colophon_read {nonce b : Bytes} {off : Nat} {t : State} (h : s.asked.colophonAt nonce off = (some (some b), t)) :
    Answers (.colophon tag nonce off) s (t.reply 7 tag mOk ((b.drop off).take 4088)) :=
  request_answers hp rfl (served_always _) (by simp only [h])

theorem colophon_bad {nonce : Bytes} {off : Nat} {t : State} (h : s.asked.colophonAt nonce off = (none, t)) :
    Answers (.colophon tag nonce off) s (t.reply 7 tag mBad []) :=
  request_answers hp rfl (served_always _) (by simp only [h])

theorem recoveryChunk_taken {ch : Chunk} (hr : s.asked.recovering = true) : Answers (.recoveryChunk tag ch) s
    ((s.asked.takeChunk ch 4072).2.reply 8 tag mOk (leBytes 1 (s.asked.takeChunk ch 4072).1)) :=
  answers_of_done (congrArg (done s) (if_neg (by simp [hr]))) hp

/-- Out of S2 a Data Object Exchange request is answered at once, its source pending (R401). -/
theorem doe_answers {c d : Instr} {f : State → State} (h2 : s.power.st ≠ .s2) (hc : exec c s = done s (s.doe d f)) :
    Answers c s (f (s.raise 8 2)) := by
  refine answers_of_done (hc.trans (congrArg (done s) (if_neg ?_))) hp
  obtain ⟨l, h⟩ := raise_eq s 8 2
  rw [h]
  exact h2

end Management

/-- Settles O46: each request goes through one test of its role and is then answered by its TYPE; the payloads are the model's choice (log entry
55), a colophon read is that of R424. -/
theorem managementAnswers : Obligations.ManagementAnswers := fun _ _ hp =>
  ⟨fun _ => answers_of_done rfl hp, identify_answers hp,
    fun hr => ⟨fun _ => regRead_answers hp hr, fun _ _ => regWrite_answers hp hr, fun _ => regRead_denied hp hr,
      fun _ _ => regWrite_denied hp hr, fun _ => telemetry_answers hp hr, health_answers hp hr, fun _ _ => mgmtFaultReport_oldest hp hr,
      mgmtFaultReport_empty hp hr, fun _ => recoveryChunk_denied hp hr⟩,
    fun _ _ _ _ => colophon_read hp, fun _ _ _ => colophon_bad hp, fun _ => recoveryChunk_taken hp,
    fun nonce h2 => doe_answers (f := (State.colophonDoe · nonce)) hp h2 rfl, fun ch h2 => doe_answers (f := (State.chunkDoe · ch)) hp h2 rfl⟩

end Sys2Proof.Machine
end

section
/-! SUPPORT. Proofs of the statements about the step, the queue of waiting commands and a package without power, and about contexts, scheduling
and faults: how commands start, how contexts change their state, and the event controller (R220, R373 to R405, R441). -/

namespace Sys2Proof.Machine

/-! ## The step and its queue -/

/-- Settles O1: taking the command off the queue gives the state back. -/
theorem frontCommandRuns : Obligations.FrontCommandRuns := fun _ _ => rfl

/-- Settles O5: what a command answers is a settled state, and settling puts the queue back. -/
theorem commandsLeaveTheQueue : Obligations.CommandsLeaveTheQueue := by
  intro c s t h
  obtain ⟨u, rfl⟩ := exec_settles h
  exact settle_pending s u

/-! ## A package without power (R441) -/

section Dark
variable {s t u : State} (hr : s.power.rails = false)
include hr

theorem done_still (h : done s u = .next t) : t = settle s s :=
  (Host.Outcome.next.inj ((done_dark s u hr).symm.trans h)).symm

/-- The one instruction that can be refused is not refused there: it acts as BYPASS, and so does nothing. -/
theorem privateScan_still {n : Nat} (h : exec (.privateScanInstruction n) s = .next t) : t = settle s s := by
  have hbypass : exec (.privateScanInstruction n) s = done s (s.scanAs false .bypass) := if_neg (by simp [hr])
  exact done_still hr (hbypass.symm.trans h)

/-- The three kinds of a whole die's fault check their die or name none. -/
theorem wholeDieFault_still {f : WholeFault} (h : exec (.wholeDieFault f) s = .next t) : t = settle s s := by
  cases f with
  | hubDie hub => exact onUnit_dark hr h
  | computeDie die => exact onUnit_dark hr h
  | rowRoutes => exact done_still hr h

/-- Every command but the supply's ends in one of the two endings that ask for the rails. -/
theorem exec_still {c : Instr} (hc : Supply c = false) (h : exec c s = .next t) : t = settle s s := by
  cases c
  case inputRise | inputUndervoltage | inputOvervoltage | inputOvervoltageClear | enableLow | enableHigh | tripRailsOff => cases hc
  case privateScanInstruction n => exact privateScan_still hr h
  case wholeDieFault f => exact wholeDieFault_still hr h
  all_goals first
    | exact onUnit_dark hr h
    | exact done_still hr h

end Dark

/-- Settles O7: with the rails off a command settles the state it found; that nothing acts but the supply is the model's choice (log entry 7). -/
theorem nothingHappensWithTheRailsOff : Obligations.NothingHappensWithTheRailsOff := by
  intro c s t hr hc h
  obtain rfl := exec_still hr hc h
  exact ⟨rfl, settle_sameMemory fun _ => rfl⟩

/-! ## COMMAND_START, FILL_COMMAND_START and MARK (R220, R378, R382, R391) -/

section Starts
variable {s : State} {k c q : Nat} {x : Queue} {e : QEntry} (hp : s.power.rails = true)

include hp in
/-- A ready MARK entry commits at once (R378). -/
theorem mark_commits (hc : c < 64) (hr : s.ready c q = some (x, e, .mark)) (he : e.kind = 1) :
    Answers (.mark c q) s (s.commitEntry c q e stEmpty []) := by
  refine answers_of_onUnit (?_ : execMark c q s = onUnit (ctxOk c) "context" s _) (decide_eq_true hc) hp
  simp only [execMark, hr, he, if_true, State.dealEntry]

section Cluster
variable (hk : k < 64)
include hp hk

/-- A cluster with a primary command, or with no entry ready, starts nothing. -/
theorem commandStart_idle (h : s.primaryBusy k = true ∨ s.primaryNext k = none) : Answers (.commandStart k) s s := by
  refine answers_of_onCluster hp hk (?_ : execCommandStart k s = _)
  rcases h with hb | hn
  · simp only [execCommandStart, hb, if_true]
  · simp only [execCommandStart, hn, ite_self]

/-- An entry that runs nothing is dealt with on the cluster's turn. -/
theorem commandStart_deals {st : Begin} (hb : s.primaryBusy k = false) (hn : s.primaryNext k = some (c, q, x, e, st))
    (hst : ∀ p, st ≠ .run p) : Answers (.commandStart k) s ((s.dealEntry c q x e st).tookTurn [k] q x.prio false) := by
  refine answers_of_onCluster hp hk (?_ : execCommandStart k s = _)
  cases st with
  | run p => exact absurd rfl (hst p)
  | reject | badWait | mark | foreign | empty => simp only [execCommandStart, hb, hn, Bool.false_eq_true, if_false]

/-- A command whose clusters hold no other, and none of them reserved for another queue, starts at the least of them (R382). -/
theorem commandStart_runs {p : Program} (hb : s.primaryBusy k = false) (hn : s.primaryNext k = some (c, q, x, e, .run p))
    (hl : leastOf (s.startOn c e (.run p)) = k)
    (hfree : ∀ l ∈ s.startOn c e (.run p), s.runsOn l = [] ∧ s.freeFor l c q = true)
    (hfill : s.killFills (s.startOn c e (.run p)) = s) : Answers (.commandStart k) s (s.startRun c q x e p false) := by
  have hopen : (s.startOn c e (.run p)).any (fun l => s.primaryBusy l || !s.freeFor l c q) = false :=
    List.any_eq_false.mpr fun l hm => by
      obtain ⟨hruns, hres⟩ := hfree l hm
      simp [State.primaryBusy, hruns, hres]
  have hempty : (s.startOn c e (.run p)).any (fun l => !(s.runsOn l).isEmpty) = false :=
    List.any_eq_false.mpr fun l hm => by
      obtain ⟨hruns, -⟩ := hfree l hm
      simp [hruns]
  refine answers_of_onCluster hp hk (?_ : execCommandStart k s = _)
  simp only [execCommandStart, hb, hn, hl, hopen, hfill, hempty, ne_eq, not_true_eq_false, Bool.false_eq_true, if_false]

/-- A cluster without work starts a command of its fill context where it is the least of the command's clusters (R391). -/
theorem fillCommandStart_runs {p : Program} (hc : s.fillCtx k = some c) (hruns : s.runsOn k = [])
    (hn : s.pickEntry c k true (s.fillPass c) = some (q, x, e, .run p)) (hl : leastOf (s.startOn c e (.run p)) = k) :
    Answers (.fillCommandStart k) s (s.startRun c q x e p true) := by
  refine answers_of_onCluster hp hk (?_ : execFillCommandStart k s = _)
  simp only [execFillCommandStart, hc, hruns, hn, hl, List.isEmpty_nil, Bool.not_true, Bool.false_eq_true, if_false, if_true]

end Cluster
end Starts

/-- Settles O21: each clause is one outcome of the checks that the command makes in order. -/
theorem commandsStart : Obligations.CommandsStart := fun _ hp =>
  ⟨fun _ _ _ _ _ _ hk => commandStart_runs hp hk, fun _ _ _ _ _ _ hk => commandStart_deals hp hk, fun _ hk => commandStart_idle hp hk,
    fun _ _ _ _ _ _ hk => fillCommandStart_runs hp hk, fun _ _ _ _ hc => mark_commits hp hc⟩

/-! ## The states of a context (R376, R377) -/

section Contexts
variable {s : State} {c : Nat} (hp : s.power.rails = true) (hc : c < 64)

include hp hc in
/-- A command on one of the 64 contexts answers the state that its meaning gives. -/
theorem answers_of_onContext {x : Instr} {t : State} (hx : exec x s = onUnit (decide (c < 64)) "context" s t) : Answers x s t :=
  answers_of_onUnit hx (decide_eq_true hc) hp

section Run
variable (ha : s.actsOnRequests = true) (hh : s.power.halted = false) (hd : s.sec.debug = false) (ht : s.tableOk = true)
  (hq : s.request c = 1)
include hp hc ha hh hd ht hq

theorem contextRun_enters (hst : (s.ctx c).st = .absent) : Answers (.contextRun c) s (s.ctxEnter c) := by
  refine answers_of_onContext hp hc (?_ : execContextRun c s = _)
  simp [execContextRun, ha, hh, hd, ht, hq, hst]

theorem contextRun_resumes (hst : (s.ctx c).st = .suspended) : Answers (.contextRun c) s (s.ctxMove c .running 0#8) := by
  refine answers_of_onContext hp hc (?_ : execContextRun c s = _)
  simp [execContextRun, ha, hh, hd, ht, hq, hst]

end Run

include hp hc

/-- The commands of a context that becomes SUSPENDING are killed where they can be. -/
theorem contextSuspend_kills (ht : s.tableOk = true) (hq : s.request c = 2) (hst : (s.ctx c).st = .running) :
    Answers (.contextSuspend c) s (((s.ctxMove c .suspending 0#8).runs.filter
      (fun r => r.ctx == c && (s.ctxMove c .suspending 0#8).killable r)).foldl (fun s r => s.killRun r stPreempt true)
        (s.ctxMove c .suspending 0#8)) :=
  answers_of_onContext hp hc (congrArg (onUnit (ctxOk c) "context" s) (if_pos (by simp [ht, hq, hst])))

theorem suspendComplete_answers (hst : (s.ctx c).st = .suspending) (hr : s.runs.any (fun r => r.ctx == c) = false) :
    Answers (.suspendComplete c) s (s.ctxMove c .suspended 0#8) :=
  answers_of_onContext hp hc (congrArg (onUnit (ctxOk c) "context" s) (if_pos (by simp [hst, hr])))

theorem contextTeardown_begins (ht : s.tableOk = true) (hq : s.request c = 3) :
    Answers (.contextTeardown c) s ((s.beginTeardown c 0).tearDown c) :=
  answers_of_onContext hp hc (congrArg (fun t => onUnit (ctxOk c) "context" s (State.tearDown t c)) (if_pos (by simp [ht, hq])))

/-- A teardown that has begun goes on whatever the entry requests now. -/
theorem contextTeardown_goes_on (hq : s.request c ≠ 3) : Answers (.contextTeardown c) s (s.tearDown c) :=
  answers_of_onContext hp hc (congrArg (fun t => onUnit (ctxOk c) "context" s (State.tearDown t c)) (if_neg (by simp [hq])))

theorem contextAbsent_clears (ht : s.tableOk = true) (hq : s.request c = 0) (hst : (s.ctx c).st = .tornDown) :
    Answers (.contextAbsent c) s ((s.ctxMove c .absent 0#8).setCtx c (fun x => { x with queues := [] })) :=
  answers_of_onContext hp hc (congrArg (onUnit _ "context" s) (if_pos (by simp [ht, hq, hst])))

end Contexts

/-- Settles O23: each move is one branch of the meaning of its command. -/
theorem contextsMove : Obligations.ContextsMove := fun _ _ hp hc =>
  ⟨fun ha hh hd ht hq => ⟨contextRun_enters hp hc ha hh hd ht hq, contextRun_resumes hp hc ha hh hd ht hq⟩, contextSuspend_kills hp hc,
    suspendComplete_answers hp hc, contextTeardown_begins hp hc, fun _ => contextTeardown_goes_on hp hc, contextAbsent_clears hp hc⟩

/-! ## The event controller (R401 to R404) -/

section Events
variable {s : State} {hub k n : Nat}

/-- The best claimable source below a bound, as the search for it goes up (R403). -/
def State.bestBelow (s : State) (hub k m : Nat) : Nat :=
  (List.range m).foldl (fun best n =>
    if s.claimable hub k n && (best == 0 || decide (s.evtPrio hub n > s.evtPrio hub best)) then n else best) 0

theorem bestSource_eq (s : State) (hub k : Nat) : s.bestSource hub k = s.bestBelow hub k 1024 := rfl

theorem bestBelow_succ (s : State) (hub k m : Nat) : s.bestBelow hub k (m + 1) =
    if s.claimable hub k m && (s.bestBelow hub k m == 0 || decide (s.evtPrio hub m > s.evtPrio hub (s.bestBelow hub k m))) then m
    else s.bestBelow hub k m := by
  rw [State.bestBelow, List.range_succ, List.foldl_append]
  rfl

/-- What the search finds is 0 or a claimable source below the bound. -/
theorem bestBelow_claimable (s : State) (hub k m : Nat) :
    s.bestBelow hub k m = 0 ∨ (s.bestBelow hub k m < m ∧ s.claimable hub k (s.bestBelow hub k m) = true) := by
  induction m with
  | zero => exact .inl rfl
  | succ m ih =>
    rw [bestBelow_succ]
    split
    · next h => exact .inr ⟨Nat.lt_succ_self m, (Bool.and_eq_true_iff.mp h).1⟩
    · exact ih.imp_right fun ⟨hlt, hcl⟩ => ⟨Nat.lt_succ_of_lt hlt, hcl⟩

theorem bestSource_none (h : ∀ j, j < 1024 → s.claimable hub k j = false) : s.bestSource hub k = 0 := by
  rcases bestBelow_claimable s hub k 1024 with h0 | ⟨hlt, hcl⟩
  · exact h0
  · rw [h _ hlt] at hcl
    cases hcl

/-- Source `n` comes before every other claimable one: of the highest priority, and the lowest number among equals (R403). -/
def State.IsBest (s : State) (hub k n : Nat) : Prop :=
  ∀ j, j < 1024 → s.claimable hub k j = true → s.evtPrio hub j < s.evtPrio hub n ∨ (s.evtPrio hub j = s.evtPrio hub n ∧ n ≤ j)

/-- Once the search has passed the best source it stays there. -/
theorem bestBelow_best (h0 : 0 < n) (hcl : s.claimable hub k n = true) (hbest : s.IsBest hub k n) {m : Nat} (hn : n < m) (hm : m ≤ 1024) :
    s.bestBelow hub k m = n := by
  induction m with
  | zero => exact absurd hn (Nat.not_lt_zero n)
  | succ m ih =>
    rw [bestBelow_succ]
    rcases Nat.lt_succ_iff_lt_or_eq.mp hn with hlt | rfl
    · rw [ih hlt (Nat.le_of_succ_le hm), if_neg]
      simp only [Bool.and_eq_true, Bool.or_eq_true, beq_iff_eq, decide_eq_true_eq, not_and]
      intro hclm
      have := hbest m hm hclm
      omega
    · refine if_pos ?_
      simp only [hcl, Bool.true_and, Bool.or_eq_true, beq_iff_eq, decide_eq_true_eq]
      refine (bestBelow_claimable s hub k n).imp_right fun ⟨hlt, hclb⟩ => ?_
      have := hbest _ (Nat.lt_trans hlt hm) hclb
      omega

/-- A source claimed by a core: no longer pending, and active until the core completes it (R403). -/
def State.claimed (s : State) (hub k n : Nat) : State :=
  let t := s.setReg (dieAt hub) (.evtPending (n / 64))
    (s.reg (dieAt hub) (.evtPending (n / 64)) &&& ~~~(BitVec.ofNat 64 (2 ^ (n % 64))))
  { t with claims := t.claims ++ [{ hub := hub, source := n, core := k }] }

theorem claimAt_none (h : s.bestSource hub k = 0) : s.claimAt hub k = (0, s) := by
  simp only [State.claimAt, h, if_true]

theorem claimAt_best (h0 : 0 < n) (h : s.bestSource hub k = n) : s.claimAt hub k = (n, s.claimed hub k n) := by
  simp only [State.claimAt, h, if_neg (Nat.ne_of_gt h0)]
  rfl

theorem getLsbD_clear (w : BitVec 64) {i j : Nat} (hj : j < 64) :
    (w &&& ~~~(BitVec.ofNat 64 (2 ^ i))).getLsbD j = (w.getLsbD j && decide (i ≠ j)) := by
  rw [BitVec.getLsbD_and, BitVec.getLsbD_not, BitVec.getLsbD_ofNat, Nat.testBit_two_pow]
  simp [hj]

theorem evtPending_word_inj {hub v w : Nat} (h : regKey (dieAt hub) (.evtPending v) = regKey (dieAt hub) (.evtPending w)) : v = w := by
  simp only [regKey, Reg.blk, Reg.offset] at h
  omega

theorem claimed_isPending (j : Nat) :
    (s.claimed hub k n).evtIsPending hub j = (s.evtIsPending hub j && decide (n ≠ j)) := by
  have hreg (r : Reg) : (s.claimed hub k n).reg (dieAt hub) r = (s.setReg (dieAt hub) (.evtPending (n / 64))
      (s.reg (dieAt hub) (.evtPending (n / 64)) &&& ~~~(BitVec.ofNat 64 (2 ^ (n % 64))))).reg (dieAt hub) r := rfl
  rw [State.evtIsPending, State.evtIsPending, hreg]
  by_cases hw : j / 64 = n / 64
  · have hbit : n % 64 ≠ j % 64 ↔ n ≠ j := by omega
    rw [hw, setReg_reg_same, getLsbD_clear _ (Nat.mod_lt j (by decide)), decide_eq_decide.mpr hbit]
  · have hne : n ≠ j := fun h => hw (by rw [h])
    rw [setReg_reg_other _ _ fun h => hw (evtPending_word_inj h), decide_eq_true hne, Bool.and_true]

theorem claimed_isActive : (s.claimed hub k n).evtIsActive hub n = true := by
  simp [State.evtIsActive, State.claimed]

section Answers
variable (hp : s.power.rails = true) (hh : isHub hub = true)
include hp hh

section Claim
variable (hk : k < 4)
include hk

theorem evtClaim_answers {t : State} (h : s.claimAt hub k = (n, t)) :
    Answers (.evtClaim hub k) s { t with readData := BitVec.ofNat 64 n } := by
  refine answers_of_onUnit (?_ : execEvtClaim hub k s = onUnit (isHub hub && decide (k < 4)) "control core" s _) (by simp [hh, hk]) hp
  simp only [execEvtClaim, h]

theorem evtClaim_none (h : ∀ j, j < 1024 → s.claimable hub k j = false) : Answers (.evtClaim hub k) s { s with readData := 0#64 } :=
  evtClaim_answers hp hh hk (claimAt_none (bestSource_none h))

theorem evtClaim_best (h0 : 0 < n) (hn : n < 1024) (hcl : s.claimable hub k n = true) (hbest : s.IsBest hub k n) :
    Answers (.evtClaim hub k) s { s.claimed hub k n with readData := BitVec.ofNat 64 n } :=
  evtClaim_answers hp hh hk (claimAt_best h0 ((bestSource_eq ..).trans (bestBelow_best h0 hcl hbest hn (Nat.le_refl 1024))))

theorem evtComplete_answers : Answers (.evtComplete hub k n) s (s.completeAt hub k n) := answers_of_onUnit rfl (by simp [hh, hk]) hp

end Claim

/-- A software source becomes pending (R404). -/
theorem evtRaise_software (hlo : 768 ≤ n) (hhi : n ≤ 1023) : Answers (.evtRaise hub n) s (s.raise hub n) :=
  answers_of_onUnit (congrArg (onUnit (isHub hub) "hub" s) (if_pos ⟨hlo, hhi⟩)) hh hp

/-- Every other number is discarded (R402). -/
theorem evtRaise_other (h : n < 768 ∨ 1023 < n) : Answers (.evtRaise hub n) s s :=
  answers_of_onUnit (congrArg (onUnit (isHub hub) "hub" s) (if_neg (by omega))) hh hp

end Answers

@[simp] theorem raise_mem : (s.raise hub n).mem = s.mem := by
  obtain ⟨l, h⟩ := raise_eq s hub n
  rw [h]

@[simp] theorem raise_claims : (s.raise hub n).claims = s.claims := by
  obtain ⟨l, h⟩ := raise_eq s hub n
  rw [h]

theorem isSource_software (hlo : 768 ≤ n) (hhi : n ≤ 1023) : isSource n = true := by
  simp [isSource, hlo, hhi]

end Events

/-- Settles O55: the search for the source to claim ends at the best claimable one, whose pending bit alone is cleared. -/
theorem eventsRun : Obligations.EventsRun := by
  intro hub k s hp hh hk
  refine ⟨evtClaim_none hp hh hk, fun n h0 hn hcl _ hbest => ⟨_, evtClaim_best hp hh hk h0 hn hcl hbest, rfl, ?_, claimed_isActive, rfl,
    settle_sameMemory fun _ => rfl, fun j _ hj => ?_⟩, fun n => evtComplete_answers hp hh hk,
    fun n hlo hhi => ⟨_, evtRaise_software hp hh hlo hhi, raise_pending s (isSource_software hlo hhi),
      settle_sameMemory fun _ => by rw [raise_mem], raise_claims⟩, fun n => evtRaise_other hp hh⟩
  · exact (claimed_isPending (k := k) n).trans (by simp)
  · exact (claimed_isPending (k := k) j).trans (by simp [hj.symm])

end Sys2Proof.Machine
end

section
/-! SUPPORT. Proofs of the statements about secrecy, start-up and attestation: tokens and memory keys (R414 to R416, R425 to R431), POWER_GOOD,
SELF_TEST_DONE and NOR_WRITE_DONE (R413, R417 to R422). -/

namespace Sys2Proof.Machine

/-! ## Tokens (R414 to R416, R429) -/

section Tokens
variable {s : State} {k : Bytes}

/-- What a token that is accepted does, by its operation. -/
def State.actOn (s : State) (k : Bytes) : Nat → State
  | 0 => s.enrol k
  | 1 => s.ownerRelease
  | _ => s.debugUnlock (num k 72 8)

/-- A token that is refused leaves its result and nothing else. -/
theorem submitToken_refused (h : s.tokenResult k ≠ resOk) : s.submitToken k = s.secResult (s.tokenResult k) := if_pos h

/-- One that is accepted renews the challenge and acts. -/
theorem submitToken_accepted (h : s.tokenResult k = resOk) :
    s.submitToken k = (s.secResult resOk).newChallenge.actOn k (num k 4 1) := by
  simp only [State.submitToken, h, ne_eq, not_true_eq_false, if_false]
  rfl

/-- A command that carries a token of its own operation submits it. -/
theorem token_answers {c : Instr} {op : Nat} (hp : s.power.rails = true)
    (hc : exec c s = done s (if num k 4 1 = op then s.submitToken k else s)) (hop : num k 4 1 = op) :
    Answers c s (if s.tokenResult k = resOk then (s.secResult resOk).newChallenge.actOn k op else s.secResult (s.tokenResult k)) := by
  rw [if_pos hop] at hc
  split
  · next h => exact answers_of_done (hc.trans (by rw [submitToken_accepted h, hop])) hp
  · next h => exact answers_of_done (hc.trans (by rw [submitToken_refused h])) hp

end Tokens

/-! ## Memory keys (R335, R425 to R428) -/

section Keys
variable {s : State} {p : Nat}

@[simp] theorem zeroPage_aside (s : State) (hub space page : Nat) : (s.zeroPage hub space page).aside = s.aside :=
  ite_aside ((stampShards_aside ..).trans rfl) rfl

@[simp] theorem zeroOf_aside (s : State) (p : Nat) : (s.zeroOf p).aside = s.aside := by
  refine foldl_keeps State.aside (fun s page => ?_) _ s
  dsimp only
  split
  · exact ite_aside (zeroPage_aside ..) rfl
  · rfl

/-- Pages that read as zeros from here on leave the security block alone. -/
theorem zeroOf_sec (s : State) (p : Nat) : (s.zeroOf p).sec = s.sec :=
  show (s.zeroOf p).aside.sec = s.aside.sec from congrArg State.sec (zeroOf_aside s p)

theorem kvGet_eq_none_of_any {α : Type} {l : List (Nat × α)} {x : Nat} (h : l.any (fun e => e.1 == x) = false) : kvGet l x = none := by
  induction l with
  | nil => rfl
  | cons e t ih =>
    obtain ⟨he, ht⟩ := Bool.or_eq_false_iff.mp h
    exact (if_neg (beq_eq_false_iff_ne.mp he)).trans (ih ht)

/-- A slot without a key holds none. -/
theorem kvGet_of_not_keyed (h : s.keyed p = false) : kvGet s.sec.keys p = none := kvGet_eq_none_of_any h

/-- One slot's turn in a write to SEC_KEY_ERASE. -/
def State.eraseKey (v : BitVec 64) (s : State) (p : Nat) : State :=
  if v.getLsbD p && s.keyed p then { s.zeroOf p with sec := { s.sec with keys := kvDel s.sec.keys p } } else s

/-- An erased slot is empty, and a slot that is empty stays so. -/
theorem eraseKey_empty {v : BitVec 64} {q : Nat} (h : kvGet s.sec.keys p = none ∨ (q = p ∧ v.getLsbD p = true)) :
    kvGet (s.eraseKey v q).sec.keys p = none := by
  unfold State.eraseKey
  split
  · show kvGet (kvDel s.sec.keys q) p = none
    rw [kvGet_kvDel]
    split
    · rfl
    · next hne => exact h.resolve_right fun ⟨hq, _⟩ => hne hq.symm
  · next hno =>
    rcases h with h | ⟨rfl, hv⟩
    · exact h
    · exact kvGet_of_not_keyed (by simpa [hv] using hno)

/-- Once the turn of a named slot has come it is empty. -/
theorem foldl_eraseKey_empty {v : BitVec 64} (hv : v.getLsbD p = true) {l : List Nat} (h : kvGet s.sec.keys p = none ∨ p ∈ l) :
    kvGet (l.foldl (State.eraseKey v) s).sec.keys p = none := by
  induction l generalizing s with
  | nil => exact h.resolve_right List.not_mem_nil
  | cons q l ih =>
    rw [List.foldl_cons]
    refine ih ?_
    rcases h with h | h
    · exact .inl (eraseKey_empty (.inl h))
    · rcases List.mem_cons.mp h with rfl | h
      · exact .inl (eraseKey_empty (.inr ⟨rfl, hv⟩))
      · exact .inr h

theorem mem_range' {lo n x : Nat} (hlo : lo ≤ x) (hhi : x < lo + n) : x ∈ range' lo n :=
  List.mem_map.mpr ⟨x - lo, List.mem_range.mpr (by omega), by omega⟩

section Answers
variable (hp : s.power.rails = true)
include hp

/-- Without GO nothing is erased (R431). -/
theorem secKeyErase_no_go {v : BitVec 64} (hv : fld v 16 1 = 0) : Answers (.secKeyErase v) s s :=
  answers_of_done (congrArg (done s) (if_pos hv)) hp

/-- With GO the slots have their turns in ascending order. -/
theorem secKeyErase_go {v : BitVec 64} (hv : fld v 16 1 = 1) :
    Answers (.secKeyErase v) s (((range' 1 15).foldl (State.eraseKey v) s).secResult resOk) :=
  answers_of_done (congrArg (done s) (if_neg (by rw [hv]; decide))) hp

/-- A record whose page is not partition 0's is refused (R426, R431). -/
theorem keyLoadFresh_page (hop : num s.keyRecord 4 1 = 0) (hpage : s.ownerPage 0 s.keyOff = false) :
    Answers .keyLoadFresh s (s.secResult resPage) := by
  refine answers_of_done (?_ : execKeyLoadFresh s = _) hp
  simp [execKeyLoadFresh, State.keyGo, hop, hpage]

section Record
variable (hpage : s.ownerPage 0 s.keyOff = true) (hd : s.sec.debug = false) (hf : keyFormed s.keyRecord = true)
include hpage hd hf

theorem keyLoadFresh_loads (hop : num s.keyRecord 4 1 = 0) : Answers .keyLoadFresh s (s.keyFresh s.keyOff s.keyRecord) := by
  refine answers_of_done (?_ : execKeyLoadFresh s = _) hp
  simp [execKeyLoadFresh, State.keyGo, hop, hpage, hd, hf]

theorem keyLoadSealed_loads (hop : num s.keyRecord 4 1 = 1) : Answers .keyLoadSealed s (s.keySealed s.keyRecord) := by
  refine answers_of_done (?_ : execKeyLoadSealed s = _) hp
  simp [execKeyLoadSealed, State.keyGo, hop, hpage, hd, hf]

end Record
end Answers
end Keys

/-- Settles O49: a token is refused or acts by its operation, a key record takes one branch of its checks, and an erased slot stays empty
while the others have their turns. Whether a signature verifies is free (log entry 8). -/
theorem securityRuns : Obligations.SecurityRuns := fun _ _ hp =>
  ⟨token_answers hp rfl, token_answers hp rfl, token_answers hp rfl, fun hop hpage hd hf => keyLoadFresh_loads hp hpage hd hf hop,
    keyLoadFresh_page hp, fun hop hpage hd hf => keyLoadSealed_loads hp hpage hd hf hop, fun _ => secKeyErase_no_go hp,
    fun _ hv => ⟨_, secKeyErase_go hp hv, rfl, fun _ hlo hhi hb => foldl_eraseKey_empty hb (.inr (mem_range' hlo hhi))⟩⟩

/-! ## POWER_GOOD, SELF_TEST_DONE and NOR_WRITE_DONE (R413, R417 to R422) -/

section StartUp
variable {s : State} (hp : s.power.rails = true)
include hp

theorem powerGood_first {t : BootTests} (hb : s.sec.booted = false) : Answers (.powerGood t) s (s.startUp t) :=
  answers_of_done (congrArg (done s) (if_neg (by simp [hb]))) hp

theorem powerGood_again {t : BootTests} (hb : s.sec.booted = true) : Answers (.powerGood t) s s :=
  answers_of_done (congrArg (done s) (if_pos hb)) hp

section SelfTest
variable {t : DieTests} (hb : s.sec.booted = true) (hm : s.sec.mode = .starting)
include hb hm

/-- A failed port, or a die that has lost too many clusters, ends the start-up (R419). -/
theorem selfTestDone_fails
    (hf : (!t.portsOk || (List.range 8).any ((retiredBy t).foldl State.retireAtStart s).dieFails) = true) :
    Answers (.selfTestDone t) s (((retiredBy t).foldl State.retireAtStart s).recover 0x08) := by
  refine answers_of_done (?_ : execSelfTestDone t s = _) hp
  simp only [execSelfTestDone, hb, hm, hf, Bool.not_true, Bool.false_eq_true, ne_eq, not_true_eq_false, or_self, if_false, if_true]

/-- Ports in use, distances written and minimum SVNs raised, the package runs (R274, R417). -/
theorem selfTestDone_runs {u : State}
    (hf : (!t.portsOk || (List.range 8).any ((retiredBy t).foldl State.retireAtStart s).dieFails) = false)
    (hu : ((retiredBy t).foldl State.retireAtStart s).cfgApplyAll [7] = (u, true)) :
    Answers (.selfTestDone t) s u.distanceTable.raiseMin.running := by
  refine answers_of_done (?_ : execSelfTestDone t s = _) hp
  simp only [execSelfTestDone, hb, hm, hf, hu, Bool.not_true, Bool.false_eq_true, ne_eq, not_true_eq_false, or_self, if_false]

end SelfTest

theorem norWriteDone_firmware {b : Bytes} (hw : s.sec.writing = some (0, b)) :
    Answers .norWriteDone s ({ s with fuses := { s.fuses with norFw := b } } : State).reboot := by
  refine answers_of_done (?_ : execNorWriteDone s = _) hp
  simp only [execNorWriteDone, hw]

theorem norWriteDone_configuration {n : Nat} {b : Bytes} (hw : s.sec.writing = some (n + 1, b)) :
    Answers .norWriteDone s ({ s with fuses := { s.fuses with norCfg := b } } : State).reboot := by
  refine answers_of_done (?_ : execNorWriteDone s = _) hp
  simp only [execNorWriteDone, hw]

theorem norWriteDone_idle (hw : s.sec.writing = none) : Answers .norWriteDone s s := by
  refine answers_of_done (?_ : execNorWriteDone s = _) hp
  simp only [execNorWriteDone, hw]

end StartUp

/-- Settles O50: each clause is one branch of the meaning of its command; what the start-up after a NOR write keeps is the model's reading (log
entry 52). -/
theorem startUpRuns : Obligations.StartUpRuns := fun _ hp =>
  ⟨fun _ => powerGood_first hp, fun _ => powerGood_again hp, fun _ => selfTestDone_fails hp,
    fun _ _ hb hm => selfTestDone_runs hp hb hm,
    fun _ => norWriteDone_firmware hp, fun _ _ => norWriteDone_configuration hp, norWriteDone_idle hp⟩

end Sys2Proof.Machine
end

section
/-! SUPPORT. Proofs of the statements about carrier, power and energy: the supply (R438 to R441, R456), the power states (R449 to R453) and the
partner mirror of a twin carrier (R458 to R461). -/

namespace Sys2Proof.Machine

/-! ## The supply (R438 to R441, R456) -/

section SupplyRail
variable {s : State} {mv : Nat}

/-- A command of the supply answers the state that its meaning gives, with the rails on or off. -/
theorem answers_of_always {c : Instr} {t : State} (hc : exec c s = always s t) : Answers c s t := hc

/-- The input switch, the overvoltage mark and the measured input. -/
def State.inputSwitch (s : State) (mv : Nat) (on high : Bool) : State :=
  { s with power := { s.power with inputMv := mv, switchOn := on, overV := high } }

theorem railsOn_dark (h : s.power.rails = false) : s.railsOn =
    { State.reset with fuses := s.fuses, fresh := s.fresh,
                       power := { Power.reset with enable := true, switchOn := s.power.switchOn, overV := s.power.overV,
                                                   inputMv := s.power.inputMv } } :=
  if_neg (by simp [h])

@[simp] theorem railsOn_rails (s : State) : s.railsOn.power.rails = true := by
  unfold State.railsOn
  split
  · assumption
  · rfl

/-- Raised rails leave enable high. -/
theorem railsOn_enable (h : s.power.enable = true) : s.railsOn.power.enable = true := by
  unfold State.railsOn
  split
  · exact h
  · rfl

/-- A rise through 47.0 V that finds the package without power, enabled and not held by a trip raises the rails. -/
theorem inputRise_raises (hlow : s.power.inputMv < 47000) (hlo : 47000 ≤ mv) (hhi : mv ≤ 54500) (hen : s.power.enable = true)
    (hl : s.power.latched = false) : Answers (.inputRise mv) s (s.inputSwitch mv true s.power.overV).railsOn := by
  refine answers_of_always (congrArg (always s) ((if_pos ⟨hlow, hlo, hhi⟩).trans (if_pos ?_)))
  exact ⟨hen, by simpa [State.input] using hl⟩

theorem inputUndervoltage_below (h : mv < 44000) :
    Answers (.inputUndervoltage mv) s { (s.input mv).dark with power := { (s.input mv).dark.power with latched := false, switchOn := false } } :=
  answers_of_always (congrArg (always s) (if_pos h))

theorem inputUndervoltage_above (h : 44000 ≤ mv) : Answers (.inputUndervoltage mv) s s :=
  answers_of_always (congrArg (always s) (if_neg (Nat.not_lt.mpr h)))

theorem inputOvervoltage_opens (h : 54500 < mv) : Answers (.inputOvervoltage mv) s (s.inputSwitch mv false true) :=
  answers_of_always (congrArg (always s) (if_pos h))

theorem inputOvervoltageClear_closes (ho : s.power.overV = true) (h : mv < 54000) :
    Answers (.inputOvervoltageClear mv) s (s.inputSwitch mv true false) :=
  answers_of_always (congrArg (always s) (if_pos ⟨ho, h⟩))

theorem enableLow_answers : Answers .enableLow s { s.dark with power := { s.dark.power with enable := false, latched := false } } :=
  answers_of_always rfl

/-- Enable high with the switch closed, enough input and no trip held raises the rails. -/
theorem enableHigh_raises (hsw : s.power.switchOn = true) (hin : 47000 ≤ s.power.inputMv) (hl : s.power.latched = false) :
    Answers .enableHigh s ({ s with power := { s.power with enable := true } } : State).railsOn :=
  answers_of_always (congrArg (always s) (if_pos ⟨hsw, hin, by simp [hl]⟩))

/-- A millisecond after a trip the rails are off and the package stays off. -/
theorem tripRailsOff_latches {T : BitVec 64} (ht : s.power.tripped = some T) (hms : 4000000 ≤ (s.plumb.now - T).toNat) :
    Answers .tripRailsOff s ({ s with power := { s.power with latched := true } } : State).dark := by
  refine answers_of_always (?_ : execTripRailsOff s = _)
  simp only [execTripRailsOff, ht, if_pos hms]

theorem tripRailsOff_untripped (ht : s.power.tripped = none) : Answers .tripRailsOff s s := by
  refine answers_of_always (?_ : execTripRailsOff s = _)
  simp only [execTripRailsOff, ht]

end SupplyRail

/-- Settles O51: each command's outcome is a package reset with the rails raised or dark, or a switch moved; that a switch that closes again
raises no rail is the model's reading (log entry 50). -/
theorem supplyRuns : Obligations.SupplyRuns := by
  intro s
  refine ⟨fun mv hlow hlo hhi hen hl hr => ⟨_, inputRise_raises hlow hlo hhi hen hl, ?_⟩,
    fun mv h => ⟨_, inputUndervoltage_below h, rfl, rfl, rfl, rfl, rfl, rfl⟩, fun mv => inputUndervoltage_above,
    fun mv => inputOvervoltage_opens, fun mv => inputOvervoltageClear_closes,
    ⟨_, enableLow_answers, rfl, rfl, rfl, rfl, rfl⟩,
    fun hsw hin hl => ⟨_, enableHigh_raises hsw hin hl, railsOn_rails _, railsOn_enable rfl⟩,
    fun T ht hms => ⟨_, tripRailsOff_latches ht hms, rfl, rfl, rfl⟩, tripRailsOff_untripped⟩
  rw [railsOn_dark (show (s.inputSwitch mv true s.power.overV).power.rails = false from hr)]
  exact ⟨rfl, rfl, rfl, rfl, rfl, rfl, rfl⟩

/-! ## The power states (R449 to R453) -/

section PowerStates
variable {s : State}

/-- Whether a context is at work, which keeps the package out of S2 (R450). -/
def State.busyContext (s : State) : Bool := s.ctxs.any (fun x => x.st == .running || x.st == .suspending || x.st == .tearing)

/-! ### REQUEST (R449, R450) -/

section Request
variable (hp : s.power.rails = true)
include hp

theorem pwrApply_answers : Answers .pwrApply s (s.applyNow (dieAt 8) .pwr) := answers_of_done rfl hp

/-- A request for S2 with a context at work is discarded and marked. -/
theorem requestS2_refused (hb : s.busyContext = true) : Answers .requestS2 s (s.setBits (dieAt 8) .pwrState 0x80) :=
  answers_of_done (congrArg (done s) (if_pos hb)) hp

section Running
variable (h2 : s.power.st ≠ .s2) (hm : s.power.moving = none)
include h2 hm

omit hp in
/-- A package out of S2 and of a move is free to take the state requested. -/
theorem free_to_move : ¬(s.power.st = .s2 ∨ s.power.moving.isSome = true) := by simp [h2, hm]

theorem requestS0_answers : Answers .requestS0 s { s.setField (dieAt 8) .pwrState 0 2 0 with
    power := { s.power with st := .s0 }, keystones := s.keystones.map (fun k => { k with gated := false }) } :=
  answers_of_done (congrArg (done s) ((if_neg (free_to_move h2 hm)).trans (if_pos rfl))) hp

theorem requestS1_answers : Answers .requestS1 s { s.setField (dieAt 8) .pwrState 0 2 1 with power := { s.power with st := .s1 } } :=
  answers_of_done (congrArg (done s) ((if_neg (free_to_move h2 hm)).trans (if_neg (by decide)))) hp

theorem requestS2_begins (hb : s.busyContext = false) :
    Answers .requestS2 s { s.setField (dieAt 8) .pwrState 0 2 2 with power := { s.power with moving := some .s2 } } :=
  answers_of_done (congrArg (done s) ((if_neg (by simpa [State.busyContext] using hb)).trans (if_neg (free_to_move h2 hm)))) hp

end Running
end Request

/-! ### Into S2 and out of it (R450, R451) -/

/-- No packet waits for a route and no engine works. -/
def State.AtRest (s : State) : Prop := s.routeWait = [] ∧ s.engines = []

theorem routeAgain_atRest (h : s.AtRest) : s.routeAgain.AtRest := by
  rw [routeAgain_none h.1]
  exact h

theorem portEvent_atRest (h : s.AtRest) (n : Nat) : (s.portEvent n).AtRest := by
  obtain ⟨l, hl⟩ := raise_eq s (portHub n) (192 + n % 15)
  rw [State.portEvent, hl]
  exact h

theorem portMove_atRest (h : s.AtRest) (n : Nat) (st : PortSt) : (s.portMove n st).AtRest :=
  have hset : (s.setPort n (fun p => { p with st := st, since := s.plumb.now })).AtRest := h
  routeAgain_atRest (portEvent_atRest hset n)

theorem toHairline_atRest (h : s.AtRest) (n : Nat) : (s.toHairline n).AtRest := by
  have hport (f : Port → Port) : (s.setPort n f).AtRest := h
  have hlower (p : Port) : (if p.held.isEmpty then (s.setPort n (fun p => { p with lowering := false, hair := hairLane p })).portMove n .hairline
      else s.setPort n (fun p => { p with lowering := true })).AtRest := by
    split
    · exact portMove_atRest (hport _) n .hairline
    · exact hport _
  unfold State.toHairline
  extract_lets p
  split
  · exact hlower p
  · exact hlower p
  · exact h

/-- The package as it goes to S2, before its ports do: clusters gated, no engine at work, the last-level memory off. -/
def State.quieted (s : State) : State :=
  (({ s with
      keystones := s.keystones.map (fun k => { k with gated := true })
      engines := []
      llms := s.llms.map (fun m => { m with lines := [], off := true }) } : State).zeroArray 8).zeroArray 9

/-- Its ports in HAIRLINE too. -/
def State.lowered (s : State) : State := (List.range 30).foldl (fun s n => s.toHairline n) s.quieted

theorem lowered_atRest (hw : s.routeWait = []) : s.lowered.AtRest :=
  List.foldlRecOn (motive := State.AtRest) _ _ ⟨hw, rfl⟩ fun _ h n _ => toHairline_atRest h n

/-- The package in S2. -/
def State.inS2 (s : State) : State :=
  { s.lowered with power := { s.lowered.power with st := .s2, moving := none, waiting := [], granted := [] } }

theorem inS2_engines (hw : s.routeWait = []) : s.inS2.engines = [] := by
  obtain ⟨-, he⟩ := lowered_atRest hw
  rw [State.inS2, he]

theorem s2EntryDone_answers (hp : s.power.rails = true) (hm : s.power.moving = some .s2) : Answers .s2EntryDone s s.inS2 := by
  refine answers_of_done (?_ : execS2EntryDone s = _) hp
  simp only [execS2EntryDone, hm, ne_eq, not_true_eq_false, if_false, State.inS2, State.lowered, State.quieted]

/-- The exit from S2 performs the held accesses in order. -/
theorem s2ExitDone_answers (hp : s.power.rails = true) (h2 : s.power.st = .s2) (hm : s.power.moving = some .s1) :
    Answers .s2ExitDone s (s.leaveS2.held.foldl (fun s c => s.perform c) { s.leaveS2 with held := [] }) :=
  answers_of_done (congrArg (done s) (if_neg (by simp [h2, hm]))) hp

/-! ### Waking (R452) -/

/-- Woken by a source: its cause kept, source 19 of hub die 8 pending, and the exit from S2 begun. -/
def State.woken (s : State) (n : Nat) : State :=
  { ((s.setBits (dieAt 8) .pwrWakeCause (2 ^ n)).raise 8 srcWake).setField (dieAt 8) .pwrState 0 2 1 with
    power := { (((s.setBits (dieAt 8) .pwrWakeCause (2 ^ n)).raise 8 srcWake).setField (dieAt 8) .pwrState 0 2 1).power with
      moving := some .s1 } }

theorem wake_enabled {n : Nat} (h2 : s.power.st = .s2) (hm : s.power.moving = none)
    (he : (s.live' (dieAt 8) .pwrWakeEn).getLsbD n = true) : s.wake n = s.woken n := if_pos ⟨h2, hm, he⟩

theorem wake_elsewhere {n : Nat} (h2 : s.power.st ≠ .s2) : s.wake n = s := if_neg fun h => h2 h.1

theorem wakeCause_ne_pending (hub w : Nat) (hw : w < 16) : regKey (dieAt 8) .pwrWakeCause ≠ regKey (dieAt hub) (.evtPending w) := by
  simp only [regKey, dieAt, Reg.blk, Reg.offset]
  omega

theorem woken_cause {n : Nat} (hn : n < 64) : ((s.woken n).reg (dieAt 8) .pwrWakeCause).getLsbD n = true := by
  show ((((s.setBits (dieAt 8) .pwrWakeCause (2 ^ n)).raise 8 srcWake).setField (dieAt 8) .pwrState 0 2 1).reg (dieAt 8)
    .pwrWakeCause).getLsbD n = true
  rw [setField_eq, setReg_reg_other _ _ (by decide), raise_reg wakeCause_ne_pending, setBits_eq, setReg_reg_same, BitVec.getLsbD_or,
    BitVec.getLsbD_ofNat, Nat.testBit_two_pow_self, decide_eq_true hn, Bool.and_self, Bool.or_true]

/-- An enabled source wakes a package in S2 that is not already on its way. -/
theorem wake_wakes {n : Nat} (hn : n < 64) (h2 : s.power.st = .s2) (hm : s.power.moving = none)
    (he : (s.live' (dieAt 8) .pwrWakeEn).getLsbD n = true) :
    (s.wake n).power.moving = some .s1 ∧ ((s.wake n).reg (dieAt 8) .pwrWakeCause).getLsbD n = true := by
  rw [wake_enabled h2 hm he]
  exact ⟨rfl, woken_cause hn⟩

section Sources
variable (hp : s.power.rails = true)
include hp

theorem wakePin_answers : Answers .wakePin s (s.wake 3) := answers_of_done rfl hp

theorem wakeTimer_due (h0 : s.reg (dieAt 8) .pwrWakeAt ≠ 0#64) (ht : (s.reg (dieAt 8) .pwrWakeAt).toNat ≤ s.plumb.now.toNat) :
    Answers .wakeTimer s (s.wake 4) :=
  answers_of_done (congrArg (done s) (if_pos ⟨h0, ht⟩)) hp

/-- Out of S2 neither source does anything; the timer does not even when it is due. -/
theorem wake_out_of_s2 (h2 : s.power.st ≠ .s2) : Answers .wakePin s s ∧ Answers .wakeTimer s s := by
  refine ⟨answers_of_done (congrArg (done s) (wake_elsewhere h2)) hp, answers_of_done (?_ : execWakeTimer s = _) hp⟩
  simp only [execWakeTimer, wake_elsewhere h2, ite_self]

end Sources
end PowerStates

/-- Settles O52: a request, an entry and an exit take one branch each; ports that go to HAIRLINE start no engine where no packet waits. That a
wake during the entry into S2 is lost is the model's reading (log entry 50). -/
theorem powerStatesRun : Obligations.PowerStatesRun := by
  intro s hp
  exact ⟨pwrApply_answers hp, fun h2 hm => ⟨requestS0_answers hp h2 hm, requestS1_answers hp h2 hm⟩, requestS2_refused hp,
    fun hb h2 hm => requestS2_begins hp h2 hm hb, fun hm => ⟨_, s2EntryDone_answers hp hm, rfl, rfl, rfl, rfl,
      fun hw => (settle_engines ..).trans (inS2_engines hw)⟩,
    s2ExitDone_answers hp, fun h2 hm he => ⟨_, wakePin_answers hp, wake_wakes (by decide) h2 hm he⟩, wake_out_of_s2 hp,
    fun h2 hm he h0 ht => ⟨_, wakeTimer_due hp h0 ht, wake_wakes (by decide) h2 hm he⟩⟩

/-! ## The partner mirror (R458 to R461) -/

section Mirror
variable {s : State} {hub m : Nat} (hp : s.power.rails = true) (hh : isHub hub = true)
include hp hh

theorem mirApply_answers : Answers (.mirApply hub) s (s.mirApplyAt hub) := answers_of_onUnit rfl hh hp

theorem mirResync_answers {v : BitVec 64} : Answers (.mirResync hub v) s (s.mirResyncAt hub v) := answers_of_onUnit rfl hh hp

section Range
variable (hm : m < 8)
include hm

/-- A command on one of a hub's eight mirror ranges answers the state that its meaning gives. -/
theorem answers_of_onRange {c : Instr} {t : State} (hc : exec c s = onUnit (isHub hub && decide (m < 8)) "mirror range" s t) : Answers c s t :=
  answers_of_onUnit hc (by simp [hh, hm]) hp

/-- Once a mark behind the copy is acknowledged the range mirrors again (R460). -/
theorem resyncDone_acked (hst : s.mirSt hub m = 3)
    (ha : s.mirror.any (fun e => e.hub == hub && e.m == m && e.mark.isSome && e.acked) = true) : Answers (.resyncDone hub m) s
      (({ s with mirror := s.mirror.filter (fun e => !(e.hub == hub && e.m == m && e.acked)) } : State).setField (dieAt hub)
        (.mirOutState m) 0 2 1) :=
  answers_of_onRange hp hh hm (congrArg (onUnit _ "mirror range" s) (if_pos ⟨hst, ha⟩))

theorem resyncDone_not_copying (hst : s.mirSt hub m ≠ 3) : Answers (.resyncDone hub m) s s :=
  answers_of_onRange hp hh hm (congrArg (onUnit _ "mirror range" s) (if_neg fun h => hst h.1))

section Twin
variable (ht : s.twin = true)
include ht

/-- A mark that has come is kept, with the range's flags clear, and acknowledged to the partner (R459, R460). -/
theorem mirrorMark_acknowledged {tag : Nat} {T : BitVec 64} {u : State}
    (hu : u = (s.setReg (dieAt hub) (.mirInMark m) T).setReg (dieAt hub) (.mirInState m) 0#64) : Answers (.mirrorMark hub m tag T) s
      (u.sendBy hub (u.packet (u.peerPkg (if hub = 8 then 12 else 27)) 0 0#16 (.writeReply tag 0))) := by
  subst hu
  exact answers_of_onRange hp hh hm (congrArg (onUnit _ "mirror range" s) (if_neg (by simp [ht])))

theorem mirrorBreak_denied : Answers (.mirrorBreak hub m true) s (s.mirBreak hub m true) :=
  answers_of_onRange hp hh hm (congrArg (onUnit _ "mirror range" s) ((if_neg (by simp [ht])).trans (if_pos rfl)))

theorem mirrorBreak_idle (hidle : (partnerPorts hub).all s.portIdle = true) :
    Answers (.mirrorBreak hub m false) s ((s.mirBreak hub m false).mirrorStale hub m) :=
  answers_of_onRange hp hh hm (congrArg (onUnit _ "mirror range" s) ((if_neg (by simp [ht])).trans ((if_neg nofun).trans (if_pos hidle))))

end Twin

section Single
variable (ht : s.twin = false)
include ht

theorem mirrorMark_single {tag : Nat} {T : BitVec 64} : Answers (.mirrorMark hub m tag T) s s :=
  answers_of_onRange hp hh hm (congrArg (onUnit _ "mirror range" s) (if_pos (by simp [ht])))

theorem mirrorBreak_single {denied : Bool} : Answers (.mirrorBreak hub m denied) s s :=
  answers_of_onRange hp hh hm (congrArg (onUnit _ "mirror range" s) (if_pos (by simp [ht])))

end Single
end Range
end Mirror

/-- Settles O54: each clause is one branch of the meaning of its command; that every mark clears STALE is the model's choice (log entry 47). -/
theorem mirrorsRun : Obligations.MirrorsRun := fun _ _ hp hh =>
  ⟨mirApply_answers hp hh, fun _ => mirResync_answers hp hh, fun _ => resyncDone_acked hp hh, fun _ => resyncDone_not_copying hp hh,
    fun _ _ _ _ hm ht => mirrorMark_acknowledged hp hh hm ht, fun _ => mirrorBreak_denied hp hh, fun _ => mirrorBreak_idle hp hh,
    fun _ _ _ _ hm ht => ⟨mirrorMark_single hp hh hm ht, mirrorBreak_single hp hh hm ht⟩⟩

end Sys2Proof.Machine
end

section
/-! SUPPORT. Proofs of the statements about a beat of a tensor engine (R98), the settings of a cluster (R130, R190, R213, R389, R390, R430), and the
issue of the words of a command and its halo rows (R110, R111, R159, R217, R218). -/

namespace Sys2Proof.Machine

/-! ## A beat (R98) -/

/-- In a table written row after row, each row of `n` entries, entry j of row i stands at place n i + j. -/
theorem getElem?_rows {α β γ : Type} (f : α → β → γ) {cols : List β} {n i j : Nat} (hn : cols.length = n) (hj : j < n) (rows : List α) :
    (rows.flatMap (fun a => cols.map (f a)))[n * i + j]? = (rows[i]?).bind (fun a => (cols[j]?).map (f a)) := by
  induction rows generalizing i with
  | nil => rfl
  | cons a l ih =>
    rw [List.flatMap_cons]
    cases i with
    | zero =>
      rw [List.getElem?_append_left (by rw [List.length_map]; omega)]
      simp
    | succ i =>
      rw [List.getElem?_append_right (by rw [List.length_map, Nat.mul_succ]; omega), List.length_map, hn,
        show n * (i + 1) + j - n = n * i + j by rw [Nat.mul_succ]; omega, ih, List.getElem?_cons_succ]

section Beat
variable {b : Beat} {set : List Acc} {r c : List (BitVec 32)}

/-- A beat's vector supplies one value for each of its elements. -/
@[simp] theorem beatVals_length (f : BeatFormat) (v : List (BitVec 32)) (es : List Int) : (beatVals f v es).length = v.length := by
  cases f <;> simp [beatVals]

/-- A set that holds words takes the products of the beat, row after row. -/
theorem beatSet_eq (hr : b.rowVec = some r) (hc : b.colVec = some c) (hset : set ≠ []) :
    beatSet b set = set.zipWith Acc.add
      ((beatVals b.format r b.rowExp).flatMap (fun x => (beatVals b.format c b.colExp).map (fpMul x))) := by
  have hne : set.isEmpty = false := by simpa using hset
  simp only [beatSet, hr, hc, hne]
  rfl

theorem beatSet_getElem? (hr : b.rowVec = some r) (hc : b.colVec = some c) (hcl : c.length = 32) {i j : Nat} (hj : j < 32)
    {u : Acc} {x y : Fp} (hu : set[32 * i + j]? = some u) (hx : (beatVals b.format r b.rowExp)[i]? = some x)
    (hy : (beatVals b.format c b.colExp)[j]? = some y) : (beatSet b set)[32 * i + j]? = some (u.add (fpMul x y)) := by
  have hset : set ≠ [] := by rintro rfl; cases hu
  rw [beatSet_eq hr hc hset, List.getElem?_zipWith_eq_some]
  exact ⟨u, fpMul x y, hu, by rw [getElem?_rows fpMul (by simp [hcl]) hj, hx, hy]; rfl, rfl⟩

variable (x : Engine)

@[simp] theorem beat_beats : (x.beat b).beats = x.beats + 1 := by
  cases h : x.activeB <;> simp [Engine.beat, h]

/-- The active set takes the beat and stays the active one. -/
@[simp] theorem beat_active : (x.beat b).active = beatSet b x.active := by
  cases h : x.activeB <;> simp [Engine.beat, Engine.active, h]

theorem beat_setA (h : x.activeB = true) : (x.beat b).setA = x.setA := by simp [Engine.beat, h]
theorem beat_setB (h : x.activeB = false) : (x.beat b).setB = x.setB := by simp [Engine.beat, h]

end Beat

/-- Settles O19: the products of a beat stand row after row, so word 32 i + j takes that of row element i and column element j. -/
theorem beatAddsTheOuterProduct : Obligations.BeatAddsTheOuterProduct := by
  intro x b r c hr hc hrl hcl hset _ _
  refine ⟨beat_beats x, fun i j hi hj => ?_, beat_setA x, beat_setB x⟩
  have hu := List.getElem?_eq_getElem (l := x.active) (i := 32 * i + j) (by omega)
  have hx := List.getElem?_eq_getElem (l := beatVals b.format r b.rowExp) (i := i) (by simpa [hrl] using hi)
  have hy := List.getElem?_eq_getElem (l := beatVals b.format c b.colExp) (i := j) (by simpa [hcl] using hj)
  exact ⟨_, _, _, hu, hx, hy, by rw [beat_active, beatSet_getElem? hr hc hcl hj hu hx hy]⟩

/-! ## The settings of a cluster (R130, R190, R213, R389, R390, R430) -/

section Settings
variable {k : Nat} {s : State} (hp : s.power.rails = true) (hk : k < 64)
include hp hk

/-- An apply during a load is lost, and is recorded as lost (R130). -/
theorem keyApply_during_load (h : (s.keystone k).load = .waiting ∨ (s.keystone k).load = .loading) :
    Answers (.keyApply k) s (s.setBits (cluAt k) .keyLoadStatus 4) :=
  answers_of_onCluster hp hk (congrArg (onUnit _ "cluster" s) (if_pos h))

theorem keyApply_without_load (hw : (s.keystone k).load ≠ .waiting) (hl : (s.keystone k).load ≠ .loading) :
    Answers (.keyApply k) s (((s.stage (cluAt k) .keyLoad).setKeystone k (fun x => { x with loadAsk := true })).boundary k) :=
  answers_of_onCluster hp hk (congrArg (onUnit _ "cluster" s) (if_neg (not_or.mpr ⟨hw, hl⟩)))

/-- A strike is armed where debug is unlocked with SCOPE bit 1 and the write's bit 8 asks for one (R130, R430). -/
theorem keyInject_unlocked {v : BitVec 64} (hd : s.sec.debug = true) (hs : s.sec.scope.getLsbD 1 = true) (hv : fld v 8 1 = 1) :
    Answers (.keyInject k v) s (s.setKeystone k (fun x => { x with inject := x.inject ++ [(fld v 0 4, fld v 4 4)] })) :=
  answers_of_onCluster hp hk (congrArg (onUnit _ "cluster" s) (if_pos ⟨hd, hs, hv⟩))

theorem keyInject_locked {v : BitVec 64} (h : s.sec.debug = false ∨ s.sec.scope.getLsbD 1 = false) : Answers (.keyInject k v) s s := by
  refine answers_of_onCluster hp hk (congrArg (onUnit _ "cluster" s) (if_neg ?_))
  rintro ⟨hd, hs, -⟩
  rcases h with h | h
  · exact Bool.noConfusion (hd.symm.trans h)
  · exact Bool.noConfusion (hs.symm.trans h)

end Settings

/-- Settles O25: KEY_APPLY and KEY_INJECT take the branch that their check picks, and the other four have one meaning each (R190, R213, R389,
R390, R430). -/
theorem keystoneSettings : Obligations.KeystoneSettings := fun _ _ hp hk =>
  ⟨keyApply_during_load hp hk, keyApply_without_load hp hk, answers_of_onCluster hp hk rfl, answers_of_onCluster hp hk rfl,
    answers_of_onCluster hp hk rfl, answers_of_onCluster hp hk rfl, fun _ => keyInject_unlocked hp hk, fun _ => keyInject_locked hp hk⟩

/-! ## INSTRUCTION_ISSUE (R110, R111, R159) -/

/-- What the issue of word `k` of a command does: one that cannot be corrected kills the command (log entry 105), one that is no opcode is
skipped, and any other goes on the scoreboard with its regions. -/
def State.issueWord (s : State) (c : Nat) (r : Run) (k : Nat) : State :=
  if r.struck.code.contains k then s.killRun r 0 false
  else if knownOp (wordAt (s.image r) k).op = false then (logNamed (s.hereAt r k) cUnknown s).setRun c (fun r => r.passed k)
  else s.setRun c (fun x => { x.passed k with
    issued := x.issued ++ [{ index := k, regions := regionsOf (s.image r) (cmdAt (s.image r) r.cmd) (wordAt (s.image r) k) }] })

/-- The words of a running command that have not issued, by its program. -/
def State.waitingWords (s : State) (r : Run) : List Nat := r.unissued (cmdAt (s.image r) r.cmd)

/-- The first of them that the scoreboard lets issue. -/
def State.freeWord (s : State) (r : Run) : Option Nat := r.firstFree (s.image r) (cmdAt (s.image r) r.cmd) 0 (s.waitingWords r)

section Issue
variable {c : Nat} {s : State} {r : Run}

theorem issueNext_none (hr : s.runOf c = some r) (hk : s.freeWord r = none) : issueNext s c = s := by
  simp only [State.freeWord, State.waitingWords] at hk
  simp only [issueNext, hr, State.hereAt, hk, ite_self]

theorem issueNext_some (hr : s.runOf c = some r) (hf : r.failed = none) (hs : r.sending = false) {k : Nat} (hk : s.freeWord r = some k) :
    issueNext s c = s.issueWord c r k := by
  simp only [State.freeWord, State.waitingWords] at hk
  simp only [issueNext, hr, hf, hs, State.hereAt, hk, State.issueWord, Option.isSome_none, Bool.or_self, Bool.false_eq_true, if_false,
    Bool.not_eq_true']

/-- The next word of a command with nothing on the scoreboard waits for no region: it may issue where its own regions fit (R110, R111). -/
theorem freeWord_next (hi : r.issued = []) (hch : r.chain = none) (ha : r.ahead = [])
    (hn : r.next < (cmdAt (s.image r) r.cmd).first + (cmdAt (s.image r) r.cmd).count)
    (hfit : regionsFit [] (regionsOf (s.image r) (cmdAt (s.image r) r.cmd) (wordAt (s.image r) r.next)) = true) :
    s.freeWord r = some r.next := by
  obtain ⟨n, hcount⟩ : ∃ n, (cmdAt (s.image r) r.cmd).first + (cmdAt (s.image r) r.cmd).count - r.next = n + 1 :=
    ⟨_, (Nat.succ_pred (by omega)).symm⟩
  obtain ⟨l, hl⟩ : ∃ l, s.waitingWords r = r.next :: l := by
    simp [State.waitingWords, Run.unissued, ha, hcount, range', List.range_succ_eq_map]
  have hmay : r.mayIssue (s.image r) (cmdAt (s.image r) r.cmd) (wordAt (s.image r) r.next) = true := by
    simp [Run.mayIssue, Run.live, hi, hch, mustWait, hfit]
  rw [State.freeWord, hl, Run.firstFree, if_pos ⟨Nat.and_zero _, hmay⟩]

end Issue

/-! ## HALO_COPY (R217, R218) -/

section Halo
variable {c i l : Nat} {s t : State} {r : Run}

/-- The halo rows of a participating core are copied once the earlier writers of its regions have completed and while they are not full. -/
theorem doHaloCopy_copies (hr : s.runOf c = some r) (hfl : s.inFlight (fun w => (w.op / 64 == 2 || w.op / 64 == 3) && w.lc != 0) c i = true)
    (hbusy : haloBusy r (s.image r) (cmdAt (s.image r) r.cmd) i = false) (hempty : r.halos.any (fun f => f.core == l && f.full) = false)
    (ht : haloInto (s.hereAt r i) l s = .ok ((), t)) :
    doHaloCopy c i l s = t.setRun c (fun r => { r with halos := { index := i, core := l, full := true } :: r.halos }) := by
  have hbusy' : haloBusy r (s.hereAt r i).prog (s.hereAt r i).cmd i = false := hbusy
  simp only [doHaloCopy, hr, hfl, hbusy', hempty, ht]
  rfl

end Halo

/-- Settles O17: INSTRUCTION_ISSUE issues the first word that the scoreboard lets issue, and HALO_COPY copies once its checks pass. That a word
whose code fails kills its command without an event is the model's choice (log entry 105). -/
theorem issueAndHaloRun : Obligations.IssueAndHaloRun := by
  intro c s r hp hc hr hf
  refine ⟨fun p cmd hpr hcmd hs => ?_, fun i l t hfl hbusy hempty ht =>
    answers_of_onCluster hp hc (congrArg (onUnit _ "cluster" s) (doHaloCopy_copies hr hfl hbusy hempty ht))⟩
  subst hpr hcmd
  exact ⟨fun hk => answers_of_onCluster hp hc (congrArg (onUnit _ "cluster" s) (issueNext_none hr hk)),
    fun k hk => answers_of_onCluster hp hc (congrArg (onUnit _ "cluster" s) (issueNext_some hr hf hs hk)), freeWord_next⟩

end Sys2Proof.Machine
end

section
/-! SUPPORT. Proofs of the statement that a command reads what it wrote to memory and scratchpad (R108, R110, R117, R123). -/

namespace Sys2Proof.Machine

/-! ## Many keys set, many bytes stored -/

section Keys
variable {ι α : Type} {key : ι → Nat} {k : Nat}

/-- An entry with a key that no later one has is the first. -/
theorem key_eq_of_not_later {c : ι} {cs : List ι} (he : ∃ c' ∈ c :: cs, key c' = k) (hlater : ¬ ∃ c' ∈ cs, key c' = k) : key c = k := by
  obtain ⟨c', hc', hk⟩ := he
  rcases List.mem_cons.mp hc' with rfl | hc'
  · exact hk
  · exact absurd ⟨c', hc', hk⟩ hlater

/-- A key that none of the settings names reads as before. -/
theorem kvGet_foldl_kvSet_other {val : ι → α} {cells : List ι} (h : ∀ c ∈ cells, key c ≠ k) (l : List (Nat × α)) :
    kvGet (cells.foldl (fun l c => kvSet l (key c) (val c)) l) k = kvGet l k := by
  refine List.foldlRecOn (motive := fun m => kvGet m k = kvGet l k) cells _ rfl fun m hm c hc => ?_
  rw [kvGet_kvSet_other m _ (h c hc).symm, hm]

/-- A key that is set, and to no other value, reads that value. -/
theorem kvGet_foldl_kvSet_set {val : ι → α} {v : α} {cells : List ι} (he : ∃ c ∈ cells, key c = k)
    (hv : ∀ c ∈ cells, key c = k → val c = v) (l : List (Nat × α)) :
    kvGet (cells.foldl (fun l c => kvSet l (key c) (val c)) l) k = some v := by
  induction cells generalizing l with
  | nil => simp at he
  | cons c cs ih =>
    rw [List.foldl_cons]
    by_cases hlater : ∃ c' ∈ cs, key c' = k
    · exact ih hlater (fun c' hc' => hv c' (List.mem_cons_of_mem c hc')) _
    · have hc : key c = k := key_eq_of_not_later he hlater
      rw [kvGet_foldl_kvSet_other fun c' hc' hk => hlater ⟨c', hc', hk⟩, ← hc, kvGet_kvSet_same, hv c List.mem_cons_self hc]

variable {val : ι → Byte} {m : List Host.Cell}

/-- Storing bytes one after the other keeps the canonical form. -/
theorem foldl_memSet_wf (cells : List ι) (hm : Memory.wf m = true) :
    Memory.wf (cells.foldl (fun m c => memSet m (key c) (val c)) m) = true :=
  List.foldlRecOn (motive := fun m => Memory.wf m = true) cells _ hm fun _ h _ _ => memSet_wf _ _ h

/-- A byte that none of the stores names reads as before. -/
theorem memGet_foldl_memSet_other {cells : List ι} (hm : Memory.wf m = true) (h : ∀ c ∈ cells, key c ≠ k) :
    memGet (cells.foldl (fun m c => memSet m (key c) (val c)) m) k = memGet m k := by
  refine (List.foldlRecOn (motive := fun m' => Memory.wf m' = true ∧ memGet m' k = memGet m k) cells _ ⟨hm, rfl⟩ ?_).2
  rintro m' ⟨hw, hg⟩ c hc
  exact ⟨memSet_wf _ _ hw, by rw [memGet_memSet hw, if_neg (h c hc).symm, hg]⟩

/-- A byte that is stored, and with no other value, reads that value. -/
theorem memGet_foldl_memSet_set {v : Byte} {cells : List ι} (hm : Memory.wf m = true) (he : ∃ c ∈ cells, key c = k)
    (hv : ∀ c ∈ cells, key c = k → val c = v) : memGet (cells.foldl (fun m c => memSet m (key c) (val c)) m) k = v := by
  induction cells generalizing m with
  | nil => simp at he
  | cons c cs ih =>
    have hset : Memory.wf (memSet m (key c) (val c)) = true := memSet_wf _ _ hm
    rw [List.foldl_cons]
    by_cases hlater : ∃ c' ∈ cs, key c' = k
    · exact ih hset hlater fun c' hc' => hv c' (List.mem_cons_of_mem c hc')
    · have hc : key c = k := key_eq_of_not_later he hlater
      rw [memGet_foldl_memSet_other hset fun c' hc' hk => hlater ⟨c', hc', hk⟩, memGet_memSet hm, if_pos hc.symm,
        hv c List.mem_cons_self hc]

end Keys

/-- Of cells with distinct keys only one has a given key. -/
theorem eq_of_nodup_keys {cells : List (Nat × Nat × Nat)} (h : (cells.map (·.1)).Nodup) {c c' : Nat × Nat × Nat} (hc : c ∈ cells)
    (hc' : c' ∈ cells) (hk : c'.1 = c.1) : c' = c := by
  induction cells with
  | nil => exact absurd hc List.not_mem_nil
  | cons x xs ih =>
    obtain ⟨hx, hxs⟩ := List.nodup_cons.mp h
    rcases List.mem_cons.mp hc with hcx | hcs
    · rcases List.mem_cons.mp hc' with hcx' | hcs'
      · rw [hcx, hcx']
      · exact absurd (List.mem_map.mpr ⟨c', hcs', hk.trans (by rw [hcx])⟩) hx
    · rcases List.mem_cons.mp hc' with hcx' | hcs'
      · exact absurd (List.mem_map.mpr ⟨c, hcs, hk.symm.trans (by rw [hcx'])⟩) hx
      · exact ih hxs hcs hcs'

/-! ## Effects that go through -/

section Acts
variable {α β : Type} {s u : State}

/-- One effect after another goes through where both do. -/
theorem bind_ok {a : Act α} {f : α → Act β} {y : β} :
    (a >>= f) s = .ok (y, u) ↔ ∃ x t, a s = .ok (x, t) ∧ f x t = .ok (y, u) := by
  have hb : (a >>= f) s = (a s).bind (fun p => f p.1 p.2) := rfl
  rw [hb]
  cases a s with
  | ok p => exact ⟨fun h => ⟨p.1, p.2, rfl, h⟩, fun ⟨_, _, hp, h⟩ => by cases hp; exact h⟩
  | error e => exact ⟨fun h => (nomatch h), fun ⟨_, _, hp, _⟩ => (nomatch hp)⟩

theorem pure_ok {x y : α} : (pure x : Act α) s = .ok (y, u) ↔ x = y ∧ s = u := by
  show Except.ok (x, s) = .ok (y, u) ↔ _
  simp

theorem get_ok {t : State} : (get : Act State) s = .ok (t, u) ↔ s = t ∧ s = u := by
  show Except.ok (s, s) = .ok (t, u) ↔ _
  simp

theorem getRun_ok {h : Here} {r : Run} : getRun h s = .ok (r, u) ↔ (s.runOf h.lead).getD Run.blank = r ∧ s = u := by
  simp [getRun]

theorem halt_ok {e : Stop} {y : α} : ¬ (halt e : Act α) s = .ok (y, u) := by rintro ⟨⟩

end Acts

/-! ## Memory as its command reads it (R117) -/

section Overlay
variable {h : Here} {cells : List (Nat × Nat × Nat)} {s t : State}

/-- A command's record with bytes written to its outputs, and the tags of their granules. -/
def Run.written (r : Run) (cells : List (Nat × Nat × Nat)) (tags : List (Nat × BitVec 2)) : Run :=
  { r with overlay := cells.foldl (fun l c => kvSet l c.1 (BitVec.ofNat 8 c.2.1)) r.overlay, outTags := tags }

/-- A write to memory that is allowed changes the command's record alone. -/
theorem writeKeys_ok (hw : writeKeys h cells s = .ok ((), t)) : ∃ tags, t = s.setRun h.lead (fun r => r.written cells tags) := by
  obtain ⟨_, _, hg, hw⟩ := bind_ok.mp hw
  obtain ⟨rfl, rfl⟩ := get_ok.mp hg
  obtain ⟨r, _, hr, hw⟩ := bind_ok.mp hw
  obtain ⟨rfl, rfl⟩ := getRun_ok.mp hr
  generalize checkKeys _ _ _ _ = allowed at hw
  cases allowed with
  | error e => exact absurd hw halt_ok
  | ok _ => exact ⟨_, (Prod.mk.inj (Except.ok.inj hw)).2.symm⟩

variable (r : Run) (tags : List (Nat × BitVec 2)) {k : Nat}

theorem byteFor_written_cell (hnd : (cells.map (·.1)).Nodup) {c : Nat × Nat × Nat} (hc : c ∈ cells) :
    s.byteFor (r.written cells tags) c.1 = c.2.1 % 256 := by
  have hget : kvGet (r.written cells tags).overlay c.1 = some (BitVec.ofNat 8 c.2.1) :=
    kvGet_foldl_kvSet_set (ι := Nat × Nat × Nat) (key := fun c => c.1) ⟨c, hc, rfl⟩ (fun c' hc' hk => by rw [eq_of_nodup_keys hnd hc hc' hk]) r.overlay
  rw [State.byteFor, hget]
  exact BitVec.toNat_ofNat ..

theorem byteFor_written_other (hk : k ∉ cells.map (·.1)) : s.byteFor (r.written cells tags) k = s.byteFor r k := by
  have hget : kvGet (r.written cells tags).overlay k = kvGet r.overlay k :=
    kvGet_foldl_kvSet_other (ι := Nat × Nat × Nat) (key := fun c => c.1) (fun c hc e => hk (List.mem_map.mpr ⟨c, hc, e⟩)) r.overlay
  simp only [State.byteFor, hget]
  rfl

/-- What a command reads at a key does not depend on the records of running commands. -/
@[simp] theorem byteFor_setRun (lead : Nat) (f : Run → Run) (k : Nat) : (s.setRun lead f).byteFor r k = s.byteFor r k := rfl

end Overlay

/-! ## Scratchpad without strikes (R108, R124, R130) -/

section Calm
variable {s : State}

theorem calm_of_runs {t : State} (hs : Calm s) (hk : t.keystones = s.keystones) (hr : ∀ r ∈ t.runs, r.struck = Struck.none) : Calm t :=
  ⟨hk ▸ hs.1, hr⟩

/-- A change that meets no fault. -/
theorem calm_setRun (hs : Calm s) {lead : Nat} {f : Run → Run} (hf : ∀ r, r.struck = Struck.none → (f r).struck = Struck.none) :
    Calm (s.setRun lead f) := by
  refine calm_of_runs hs rfl fun r hr => ?_
  obtain ⟨r', hr', rfl⟩ := List.mem_map.mp hr
  split
  · exact hf r' (hs.2 r' hr')
  · exact hs.2 r' hr'

/-- No injection is armed on any keystone. -/
theorem calm_inject (hs : Calm s) (k : Nat) : ((s.keystones[k]?).getD Keystone.reset).inject = [] := by
  cases hk : s.keystones[k]? with
  | none => rfl
  | some x => exact hs.1 x (List.mem_of_getElem? hk)

/-- The command of a target meets no fault. -/
theorem calm_struck (hs : Calm s) (lead : Nat) : ((s.runOf lead).getD Run.blank).struck = Struck.none := by
  cases hr : s.runOf lead with
  | none => rfl
  | some r => exact hs.2 r (List.mem_of_find?_eq_some hr)

theorem strike_calm (hs : Calm s) (h : Here) (j l : Nat) (grans : List Nat) : strike h j l grans s = .ok ((), s) := by
  unfold strike
  split
  · rfl
  · simp [calm_inject hs]

theorem readScratch_calm (hs : Calm s) (h : Here) (j l : Nat) (offs : List Nat) :
    readScratch h j l offs s = .ok (offs.map (scratchByte h ((s.runOf h.lead).getD Run.blank) s j l), s) := by
  simp only [readScratch, bind, StateT.bind, strike_calm hs]
  rfl

end Calm

/-! ## Scratchpad written and read again (R108, R123) -/

section Scratch
variable {h : Here} {j l : Nat} {cells : List (Nat × Nat × Nat)} {s : State}

/-- The granules that cells lie in. -/
def granulesOf (cells : List (Nat × Nat × Nat)) : List Nat := (cells.map (fun c => c.1 / 32)).eraseDups

/-- The tag of a granule after a write (R123). -/
def granuleTag (h : Here) (j l : Nat) (cells : List (Nat × Nat × Nat)) (s : State) (g : Nat) : BitVec 2 :=
  let mine := cells.filter (fun c => c.1 / 32 == g)
  let t := tagAll (mine.map (fun c => c.2.2))
  let whole := ((mine.map (fun c => c.1)).eraseDups).length == 32
  BitVec.ofNat 2 (if whole then t else tagOr (scratchByte h ((s.runOf h.lead).getD Run.blank) s j l (32 * g)).2 t)

/-- The valid granules after a write, with their tags. -/
def scratchTags (h : Here) (j l : Nat) (cells : List (Nat × Nat × Nat)) (s : State) : List (Nat × BitVec 2) :=
  (granulesOf cells).foldl (fun m g => kvSet m (slotOf h.lead j l * 2 ^ 17 + g) (granuleTag h j l cells s g)) s.scratchG

/-- The bytes of the granules that a write makes valid: all of each as it read before. -/
def freshBytes (h : Here) (j l : Nat) (cells : List (Nat × Nat × Nat)) (s : State) : List Nat :=
  ((granulesOf cells).filter (fun g => (kvGet s.scratchG (slotOf h.lead j l * 2 ^ 17 + g)).isNone)).flatMap (fun g => range' (32 * g) 32)

/-- The scratchpads with those granules filled in, before the cells are stored. -/
def scratchFilled (h : Here) (j l : Nat) (cells : List (Nat × Nat × Nat)) (s : State) : List Host.Cell :=
  (freshBytes h j l cells s).foldl (fun m o =>
    memSet m (slotOf h.lead j l * 2 ^ 22 + o) (BitVec.ofNat 8 (scratchByte h ((s.runOf h.lead).getD Run.blank) s j l o).1)) s.scratch

/-- The scratchpads after a write. -/
def scratchCells (h : Here) (j l : Nat) (cells : List (Nat × Nat × Nat)) (s : State) : List Host.Cell :=
  cells.foldl (fun m c => memSet m (slotOf h.lead j l * 2 ^ 22 + c.1) (BitVec.ofNat 8 c.2.1)) (scratchFilled h j l cells s)

/-- A distributed tensor is whole no more once one of its bytes has been written. -/
def Virt.cut (cells : List (Nat × Nat × Nat)) (v : Virt) : Virt := if cells.any (fun c => v.covers c.1) then { v with live := false } else v

/-- The state after a write to scratchpad. -/
def scratchWritten (h : Here) (j l : Nat) (cells : List (Nat × Nat × Nat)) (s : State) : State :=
  ({ s with scratch := scratchCells h j l cells s, scratchG := scratchTags h j l cells s } : State).setRun h.lead
    (fun r => { r with virts := r.virts.map (Virt.cut cells) })

theorem writeScratch_eq : writeScratch h j l cells s = .ok ((), scratchWritten h j l cells s) := by
  simp only [scratchWritten, scratchCells, scratchFilled, freshBytes, List.foldl_flatMap]
  rfl

@[simp] theorem scratchWritten_byte (a : Nat) :
    memGet (scratchWritten h j l cells s).scratch a = memGet (scratchCells h j l cells s) a := rfl

theorem scratch_wf (h : s.wf = true) : Memory.wf s.scratch = true := ((Bool.and_eq_true ..).mp h).2

theorem scratchWritten_calm (hs : Calm s) : Calm (scratchWritten h j l cells s) :=
  calm_setRun (s := { s with scratch := _, scratchG := _ }) hs fun _ hr => hr

theorem mem_granulesOf {g : Nat} : g ∈ granulesOf cells ↔ ∃ c ∈ cells, c.1 / 32 = g := by
  simp [granulesOf]

theorem mem_freshBytes {o : Nat} : o ∈ freshBytes h j l cells s ↔
    (∃ c ∈ cells, c.1 / 32 = o / 32) ∧ kvGet s.scratchG (slotOf h.lead j l * 2 ^ 17 + o / 32) = none := by
  simp only [freshBytes, List.mem_flatMap, List.mem_filter, mem_granulesOf, Option.isNone_iff_eq_none, range', List.mem_map, List.mem_range]
  constructor
  · rintro ⟨g, hg, i, hi, rfl⟩
    rwa [show (32 * g + i) / 32 = g by omega]
  · intro ho
    exact ⟨o / 32, ho, o % 32, by omega, by omega⟩

/-- A granule that a write touches is valid from then on. -/
theorem scratchTags_touched {o : Nat} (ho : ∃ c ∈ cells, c.1 / 32 = o / 32) :
    kvGet (scratchTags h j l cells s) (slotOf h.lead j l * 2 ^ 17 + o / 32) = some (granuleTag h j l cells s (o / 32)) :=
  kvGet_foldl_kvSet_set ⟨o / 32, mem_granulesOf.mpr ho, rfl⟩ (fun _ _ hg => by rw [Nat.add_left_cancel hg]) _

theorem scratchTags_untouched {o : Nat} (ho : ∀ c ∈ cells, c.1 / 32 ≠ o / 32) :
    kvGet (scratchTags h j l cells s) (slotOf h.lead j l * 2 ^ 17 + o / 32) = kvGet s.scratchG (slotOf h.lead j l * 2 ^ 17 + o / 32) := by
  refine kvGet_foldl_kvSet_other (fun g hg e => ?_) _
  obtain ⟨c, hc, hcg⟩ := mem_granulesOf.mp hg
  exact ho c hc (hcg.trans (Nat.add_left_cancel e))

section Bytes
variable (hs : Memory.wf s.scratch = true)
include hs

theorem scratchFilled_wf : Memory.wf (scratchFilled h j l cells s) = true := foldl_memSet_wf _ hs

theorem scratchCells_cell (hnd : (cells.map (·.1)).Nodup) {c : Nat × Nat × Nat} (hc : c ∈ cells) :
    memGet (scratchCells h j l cells s) (slotOf h.lead j l * 2 ^ 22 + c.1) = BitVec.ofNat 8 c.2.1 :=
  memGet_foldl_memSet_set (scratchFilled_wf hs) ⟨c, hc, rfl⟩ fun _ hc' hk => by
    rw [eq_of_nodup_keys hnd hc hc' (Nat.add_left_cancel hk)]

theorem scratchCells_other {o : Nat} (ho : o ∉ cells.map (·.1)) :
    memGet (scratchCells h j l cells s) (slotOf h.lead j l * 2 ^ 22 + o) =
      memGet (scratchFilled h j l cells s) (slotOf h.lead j l * 2 ^ 22 + o) :=
  memGet_foldl_memSet_other (scratchFilled_wf hs) fun _ hc e => ho (Nat.add_left_cancel e ▸ List.mem_map_of_mem hc)

theorem scratchFilled_fresh {o : Nat} (ho : o ∈ freshBytes h j l cells s) :
    memGet (scratchFilled h j l cells s) (slotOf h.lead j l * 2 ^ 22 + o) =
      BitVec.ofNat 8 (scratchByte h ((s.runOf h.lead).getD Run.blank) s j l o).1 :=
  memGet_foldl_memSet_set hs ⟨o, ho, rfl⟩ fun _ _ hk => by rw [Nat.add_left_cancel hk]

theorem scratchFilled_other {o : Nat} (ho : o ∉ freshBytes h j l cells s) :
    memGet (scratchFilled h j l cells s) (slotOf h.lead j l * 2 ^ 22 + o) = memGet s.scratch (slotOf h.lead j l * 2 ^ 22 + o) :=
  memGet_foldl_memSet_other hs fun _ ho' e => ho (Nat.add_left_cancel e ▸ ho')

end Bytes

/-! ### What a core reads -/

/-- A byte of a valid granule. -/
theorem scratchByte_valid {r : Run} {o : Nat} {tag : BitVec 2} (hg : kvGet s.scratchG (slotOf h.lead j l * 2 ^ 17 + o / 32) = some tag) :
    scratchByte h r s j l o = ((memGet s.scratch (slotOf h.lead j l * 2 ^ 22 + o)).toNat, tag.toNat) := by
  simp only [scratchByte, hg]

/-- A byte of an invalid granule where no distributed instruction keeps a share. -/
theorem scratchByte_invalid {r : Run} {o : Nat} (hg : kvGet s.scratchG (slotOf h.lead j l * 2 ^ 17 + o / 32) = none)
    (hr : r.shareAt o = none) : scratchByte h r s j l o = (0, 0) := by
  simp only [scratchByte, hg, hr]

/-- No share of the command of a target, also where none runs. -/
theorem shareAt_getD_blank {lead o : Nat} (h : ∀ r, s.runOf lead = some r → r.shareAt o = none) :
    ((s.runOf lead).getD Run.blank).shareAt o = none := by
  cases hr : s.runOf lead with
  | none => rfl
  | some r => exact h r hr

/-- The share at an offset as a reader sees it: what is whole no more is read as before. -/
theorem shareAt_cut (r : Run) (o : Nat) : Run.shareAt { r with virts := r.virts.map (Virt.cut cells) } o = (r.shareAt o).map (Virt.cut cells) := by
  have hcov : ∀ v : Virt, (v.cut cells).covers o = v.covers o := fun v => by
    unfold Virt.cut
    split <;> rfl
  rw [Run.shareAt, Run.shareAt, List.find?_map]
  exact congrArg (fun p => (r.virts.find? p).map (Virt.cut cells)) (funext hcov)

theorem runOf_scratchWritten : (scratchWritten h j l cells s).runOf h.lead =
    (s.runOf h.lead).map (fun r => { r with virts := r.virts.map (Virt.cut cells) }) :=
  runOf_setRun fun _ => rfl

theorem shareAt_scratchWritten (o : Nat) : (((scratchWritten h j l cells s).runOf h.lead).getD Run.blank).shareAt o =
    (((s.runOf h.lead).getD Run.blank).shareAt o).map (Virt.cut cells) := by
  rw [runOf_scratchWritten]
  cases s.runOf h.lead with
  | none => rfl
  | some r => exact shareAt_cut r o

theorem scratchByte_untouched (hs : Memory.wf s.scratch = true) {o : Nat} (ho : ∀ c ∈ cells, c.1 / 32 ≠ o / 32) :
    scratchByte h (((scratchWritten h j l cells s).runOf h.lead).getD Run.blank) (scratchWritten h j l cells s) j l o =
      scratchByte h ((s.runOf h.lead).getD Run.blank) s j l o := by
  have hg := scratchTags_untouched (h := h) (j := j) (l := l) (s := s) ho
  have hb : memGet (scratchCells h j l cells s) (slotOf h.lead j l * 2 ^ 22 + o) = memGet s.scratch (slotOf h.lead j l * 2 ^ 22 + o) := by
    rw [scratchCells_other hs, scratchFilled_other hs]
    · exact fun hm => absurd (mem_freshBytes.mp hm).1 (by simpa using ho)
    · intro hm
      obtain ⟨c, hc, rfl⟩ := List.mem_map.mp hm
      exact ho c hc rfl
  show (match kvGet (scratchTags h j l cells s) (slotOf h.lead j l * 2 ^ 17 + o / 32) with
    | some t => ((memGet (scratchCells h j l cells s) (slotOf h.lead j l * 2 ^ 22 + o)).toNat, t.toNat)
    | none => match Run.shareAt _ o with
      | some v => ((Config.shareByte h.prog v.desc v.elems (16 * j + l) o).toNat, tagAll v.tags)
      | none => (0, 0)) = _
  rw [hg, hb, shareAt_scratchWritten, scratchByte]
  cases kvGet s.scratchG (slotOf h.lead j l * 2 ^ 17 + o / 32) with
  | some t => rfl
  | none =>
    cases ((s.runOf h.lead).getD Run.blank).shareAt o with
    | none => rfl
    | some v =>
      simp only [Option.map_some, Virt.cut]
      split <;> rfl

end Scratch

/-- Settles O13: what a command writes to memory stands in its overlay, and what it writes to scratchpad in granules that are valid from then
on; where no injection is armed and no fault is met, a read changes nothing. -/
theorem commandsReadWhatTheyWrote : Obligations.CommandsReadWhatTheyWrote := by
  refine ⟨fun h cells s t r hr hnd hw => ?_, fun h j l cells s hs hwf hnd => ⟨fun o hshare hg => ?_, _, writeScratch_eq, fun c hc => ?_,
    fun c hc o ho hoc hshare hg => ?_, fun o x ho hx => ?_⟩⟩
  · obtain ⟨tags, rfl⟩ := writeKeys_ok hw
    refine ⟨fun _ => rfl, r.written cells tags, ?_, fun c hc => ?_, fun k hk => ?_⟩
    · rw [runOf_setRun (f := fun r => r.written cells tags) fun _ => rfl, hr]
      rfl
    · exact byteFor_written_cell r tags hnd hc
    · exact byteFor_written_other r tags hk
  · rw [readScratch_calm hs, List.map_singleton, scratchByte_invalid hg (shareAt_getD_blank hshare)]
  · rw [readScratch_calm (scratchWritten_calm hs), List.map_singleton, scratchByte_valid (scratchTags_touched ⟨c, hc, rfl⟩)]
    exact ⟨_, by rw [scratchWritten_byte, scratchCells_cell (scratch_wf hwf) hnd hc, BitVec.toNat_ofNat]⟩
  · have hfresh : o ∈ freshBytes h j l cells s := mem_freshBytes.mpr ⟨⟨c, hc, ho.symm⟩, hg⟩
    rw [readScratch_calm (scratchWritten_calm hs), List.map_singleton, scratchByte_valid (scratchTags_touched ⟨c, hc, ho.symm⟩)]
    exact ⟨_, by rw [scratchWritten_byte, scratchCells_other (scratch_wf hwf) hoc, scratchFilled_fresh (scratch_wf hwf) hfresh,
      scratchByte_invalid hg (shareAt_getD_blank hshare)]; rfl⟩
  · rw [readScratch_calm hs] at hx
    rw [readScratch_calm (scratchWritten_calm hs), List.map_singleton, scratchByte_untouched (scratch_wf hwf) ho]
    rw [← (Prod.mk.inj (Except.ok.inj hx)).1, List.map_singleton]

end Sys2Proof.Machine
end

section
/-! SUPPORT. Proofs of the statement that 37 words change only what running commands hold (R117, R185, R253, R383): every effect in their meanings is
tame, that is, in a calm state it changes only records of running commands, scratchpad, packets held for the commit, counters and the place
in the free values. The shared effects are also shown blind to the halo flags of other targets, which the pooling words need (R218). -/

namespace Sys2Proof.Machine

/-! ## Halo flags left out (R217, R218) -/

/-- A command's record with the halo flags alone that a rule keeps. -/
def Run.kept (k : Nat → HaloFlag → Bool) (r : Run) : Run := { r with halos := r.halos.filter (k r.lead) }

/-- The state with the halo flags alone that a rule keeps. -/
def State.kept (k : Nat → HaloFlag → Bool) (s : State) : State := { s with runs := s.runs.map (Run.kept k) }

section Kept
variable {k : Nat → HaloFlag → Bool} {s : State}

theorem runOf_kept (c : Nat) : (s.kept k).runOf c = (s.runOf c).map (Run.kept k) := List.find?_map ..

theorem runOf_kept_getD (c : Nat) : ((s.kept k).runOf c).getD Run.blank = ((s.runOf c).getD Run.blank).kept k := by
  rw [runOf_kept]
  cases s.runOf c <;> rfl

theorem setRun_kept {f : Run → Run} (hf : ∀ r, f (r.kept k) = (f r).kept k) (c : Nat) : (s.kept k).setRun c f = (s.setRun c f).kept k := by
  simp only [State.setRun, State.kept, List.map_map]
  refine congrArg (fun l => { s with runs := l }) (List.map_congr_left fun r _ => ?_)
  show (if r.lead == c then f (r.kept k) else r.kept k) = (if r.lead == c then f r else r).kept k
  split
  · exact hf r
  · rfl

theorem calm_kept (hs : Calm s) : Calm (s.kept k) :=
  calm_of_runs hs rfl fun r hr => by
    obtain ⟨r', hr', rfl⟩ := List.mem_map.mp hr
    exact hs.2 r' hr'

end Kept

/-! ## Effects on the running commands alone -/

/-- Nothing changes but what the running commands hold, and the state stays calm. -/
def Outputs (s t : State) : Prop := OnlyCommands s t ∧ Calm t

/-- An effect goes through from a calm state. -/
structure Reaches {α : Type} (a : Act α) (s : State) (x : α) (t : State) : Prop where
  calm : Calm s
  goes : a s = .ok (x, t)

/-- In a calm state the effect changes only what the running commands hold; where a rule for halo flags is given, it goes through in the same
way when the flags that the rule does not keep are left out. -/
structure Tame {α : Type} (keep : Option (Nat → HaloFlag → Bool)) (a : Act α) (s : State) : Prop where
  ends : ∀ x t, Reaches a s x t → Outputs s t ∧ ∀ k ∈ keep, a (s.kept k) = .ok (x, t.kept k)

section Outputs
variable {s t u : State}

theorem OnlyCommands.refl (s : State) : OnlyCommands s s := ⟨fun _ => rfl, rfl⟩

theorem OnlyCommands.symm (h : OnlyCommands s t) : OnlyCommands t s := by
  obtain ⟨hm, he⟩ := h
  exact ⟨fun a => (hm a).symm, by rw [he]⟩

theorem OnlyCommands.trans (h : OnlyCommands s t) (h' : OnlyCommands t u) : OnlyCommands s u := by
  obtain ⟨hm, he⟩ := h
  obtain ⟨hm', he'⟩ := h'
  exact ⟨fun a => (hm' a).trans (hm a), by rw [he', he]⟩

theorem onlyCommands_setRun (c : Nat) (f : Run → Run) : OnlyCommands s (s.setRun c f) := ⟨fun _ => rfl, rfl⟩

theorem outputs_setRun (hs : Calm s) (c : Nat) {f : Run → Run} (hf : ∀ r, r.struck = Struck.none → (f r).struck = Struck.none) :
    Outputs s (s.setRun c f) :=
  ⟨onlyCommands_setRun c f, calm_setRun hs hf⟩

theorem Outputs.trans (h : Outputs s t) (h' : Outputs t u) : Outputs s u := ⟨h.1.trans h'.1, h'.2⟩

end Outputs

section Acts
variable {α β γ : Type} {keep : Option (Nat → HaloFlag → Bool)} {s : State}

@[simp] theorem tame_pure (x : α) : Tame keep (pure x : Act α) s := by
  refine ⟨fun _ _ ⟨hs, h⟩ => ?_⟩
  obtain ⟨rfl, rfl⟩ := pure_ok.mp h
  exact ⟨⟨.refl s, hs⟩, fun _ _ => rfl⟩

@[simp] theorem tame_halt (e : Stop) : Tame keep (halt e : Act α) s := ⟨fun _ _ h => absurd h.goes halt_ok⟩

@[simp] theorem tame_skip (c d : Nat) : Tame keep (skip c d : Act α) s := tame_halt _

@[simp] theorem tame_hold : Tame keep (hold : Act α) s := tame_halt _

@[simp] theorem tame_ite {c : Prop} [Decidable c] {a b : Act α} :
    Tame keep (if c then a else b) s ↔ (c → Tame keep a s) ∧ (¬ c → Tame keep b s) := by
  by_cases hc : c <;> simp [hc]

@[simp] theorem tame_need (b : Bool) (c d : Nat) : Tame keep (need b c d) s := by simp [need]

/-- One effect after another, where the first is tame. -/
@[simp] theorem tame_bind {a : Act α} {f : α → Act β} (ha : Tame keep a s) :
    Tame keep (a >>= f) s ↔ ∀ x t, Reaches a s x t → Tame keep (f x) t := by
  refine ⟨fun h x t hx => ⟨fun y u hy => ?_⟩, fun h => ⟨fun y u hy => ?_⟩⟩
  · obtain ⟨⟨hst, -⟩, hax⟩ := ha.ends x t hx
    obtain ⟨⟨hsu, hu⟩, hk⟩ := h.ends y u ⟨hx.calm, bind_ok.mpr ⟨x, t, hx.goes, hy.goes⟩⟩
    refine ⟨⟨hst.symm.trans hsu, hu⟩, fun k hkm => ?_⟩
    obtain ⟨x', t', hx', hy'⟩ := bind_ok.mp (hk k hkm)
    obtain ⟨rfl, rfl⟩ := Prod.mk.inj (Except.ok.inj ((hax k hkm).symm.trans hx'))
    exact hy'
  · obtain ⟨x, t, hx, hfx⟩ := bind_ok.mp hy.goes
    obtain ⟨⟨hst, ht⟩, hax⟩ := ha.ends x t ⟨hy.calm, hx⟩
    obtain ⟨⟨htu, hu⟩, hk⟩ := (h x t ⟨hy.calm, hx⟩).ends y u ⟨ht, hfx⟩
    exact ⟨⟨hst.trans htu, hu⟩, fun k hkm => bind_ok.mpr ⟨x, t.kept k, hax k hkm, hk k hkm⟩⟩

theorem Tame.seq {a : Act α} {f : α → Act β} (ha : Tame keep a s) (hf : ∀ x t, Tame keep (f x) t) : Tame keep (a >>= f) s :=
  (tame_bind ha).mpr fun x t _ => hf x t

@[simp] theorem tame_map {a : Act α} {f : α → β} (ha : Tame keep a s) : Tame keep (f <$> a) s := by
  rw [map_eq_pure_bind]
  exact ha.seq fun _ _ => tame_pure _

@[simp] theorem tame_get : Tame none get s := by
  refine ⟨fun _ _ ⟨hs, h⟩ => ?_⟩
  obtain ⟨rfl, rfl⟩ := get_ok.mp h
  exact ⟨⟨.refl _, hs⟩, by simp⟩

@[simp] theorem tame_getRun (h : Here) : Tame none (getRun h) s := by
  refine ⟨fun _ _ ⟨hs, h⟩ => ?_⟩
  obtain ⟨rfl, rfl⟩ := getRun_ok.mp h
  exact ⟨⟨.refl _, hs⟩, by simp⟩

/-- What a calm state changes to when a tame effect goes through. -/
theorem Tame.outputs {a : Act α} (ha : Tame keep a s) (hs : Calm s) {x : α} {t : State} (h : a s = .ok (x, t)) : Outputs s t :=
  (ha.ends x t ⟨hs, h⟩).1

/-- The command's record meets no fault. -/
theorem Reaches.struck {h : Here} {r : Run} {t : State} (hr : Reaches (getRun h) s r t) : r.struck = Struck.none := by
  obtain ⟨rfl, -⟩ := getRun_ok.mp hr.goes
  exact calm_struck hr.calm _

/-- A look at the state that does not see halo flags. -/
theorem tame_get_bind {f : State → Act α} (hf : ∀ k s, f (s.kept k) = f s) (h : ∀ u, Tame keep (f u) s) : Tame keep (get >>= f) s := by
  refine ⟨fun x t ⟨hs, hx⟩ => ?_⟩
  obtain ⟨_, _, hg, hx⟩ := bind_ok.mp hx
  obtain ⟨rfl, rfl⟩ := get_ok.mp hg
  obtain ⟨ho, hk⟩ := (h s).ends x t ⟨hs, hx⟩
  exact ⟨ho, fun k hkm => (congrFun (hf k s) _).trans (hk k hkm)⟩

/-- A look at the command's record that does not see halo flags. -/
theorem tame_getRun_bind {h : Here} {f : Run → Act α} (hf : ∀ k ∈ keep, ∀ r, f (r.kept k) = f r) (hr : ∀ r, Tame keep (f r) s) :
    Tame keep (getRun h >>= f) s := by
  refine ⟨fun x t ⟨hs, hx⟩ => ?_⟩
  obtain ⟨r, _, hg, hx⟩ := bind_ok.mp hx
  obtain ⟨rfl, rfl⟩ := getRun_ok.mp hg
  obtain ⟨ho, hk⟩ := (hr _).ends x t ⟨hs, hx⟩
  refine ⟨ho, fun k hkm => bind_ok.mpr ⟨_, _, getRun_ok.mpr ⟨rfl, rfl⟩, ?_⟩⟩
  rw [runOf_kept_getD, hf k hkm]
  exact hk k hkm

/-- A change of the command's record that meets no fault and, where a rule is given, does not touch halo flags. -/
theorem tame_putRun (h : Here) {f : Run → Run} (hf : ∀ r, r.struck = Struck.none → (f r).struck = Struck.none)
    (hk : ∀ k ∈ keep, ∀ r, f (r.kept k) = (f r).kept k) :
    Tame keep (putRun h f) s := by
  refine ⟨?_⟩
  rintro _ _ ⟨hs, ⟨⟩⟩
  exact ⟨outputs_setRun hs _ hf, fun k hkm => congrArg (fun t => Except.ok ((), t)) (setRun_kept (hk k hkm) _)⟩

@[simp] theorem tame_putRun_none (h : Here) {f : Run → Run} (hf : ∀ r, r.struck = Struck.none → (f r).struck = Struck.none) :
    Tame none (putRun h f) s :=
  tame_putRun h hf (by simp)

/-- An effect that in a calm state reads and changes nothing. -/
theorem tame_of_reads {a : Act α} (v : State → Except Halt α) (ha : ∀ s, Calm s → a s = (v s).map (fun x => (x, s)))
    (hv : ∀ k s x, v s = .ok x → v (s.kept k) = .ok x) : Tame keep a s := by
  refine ⟨fun x t ⟨hs, hx⟩ => ?_⟩
  rw [ha s hs] at hx
  cases hvs : v s with
  | error e => rw [hvs] at hx; cases hx
  | ok y =>
    rw [hvs] at hx
    cases hx
    exact ⟨⟨.refl _, hs⟩, fun k _ => by rw [ha _ (calm_kept hs), hv k s _ hvs]; rfl⟩

/-- A change of scratchpad, of the counters or of the place in the free values. -/
theorem tame_modify {f : State → State} (hf : ∀ s, Calm s → Outputs s (f s)) (hk : ∀ k s, f (s.kept k) = (f s).kept k) :
    Tame keep (modify f : Act Unit) s := by
  refine ⟨?_⟩
  rintro _ _ ⟨hs, ⟨⟩⟩
  exact ⟨hf s hs, fun k _ => congrArg (fun t => Except.ok ((), t)) (hk k s)⟩

@[simp] theorem tame_forIn {l : List γ} {b : β} {f : γ → β → Act (ForInStep β)} (hf : ∀ x b s, Tame keep (f x b) s) :
    Tame keep (forIn l b f) s := by
  induction l generalizing b s with
  | nil => simp
  | cons x xs ih =>
    rw [List.forIn_cons]
    refine .seq (hf ..) fun y t => ?_
    cases y with
    | done b => exact tame_pure b
    | yield b => exact ih

@[simp] theorem tame_foldlM {l : List γ} {b : β} {f : β → γ → Act β} (hf : ∀ b x s, Tame keep (f b x) s) : Tame keep (l.foldlM f b) s := by
  induction l generalizing b s with
  | nil => simp
  | cons x xs ih =>
    rw [List.foldlM_cons]
    exact .seq (hf ..) fun _ _ => ih

end Acts

/-! ## What does not see halo flags

The first of these lemmas are proved by `(rfl)`, so that `simp` rewrites with them instead of leaving the kernel to unfold both sides. -/

section Sight
variable {k : Nat → HaloFlag → Bool} {s : State} {h : Here} {r : Run}

@[simp] theorem kept_ctx : (r.kept k).ctx = r.ctx := (rfl)
@[simp] theorem kept_queue : (r.kept k).queue = r.queue := (rfl)
@[simp] theorem kept_virt (a : Area) : (r.kept k).virt a = r.virt a := (rfl)
@[simp] theorem kept_step : (r.kept k).step = r.step := (rfl)
@[simp] theorem kept_overlay : (r.kept k).overlay = r.overlay := (rfl)
@[simp] theorem kept_fetched : (r.kept k).fetched = r.fetched := (rfl)
@[simp] theorem kept_outTags : (r.kept k).outTags = r.outTags := (rfl)

@[simp] theorem kept_ctxPart (c : Nat) : (s.kept k).ctxPart c = s.ctxPart c := (rfl)
@[simp] theorem kept_pageOk (host : Bool) (p : Nat) (wr : Bool) (space off : Nat) :
    (s.kept k).pageOk host p wr space off = s.pageOk host p wr space off := (rfl)
@[simp] theorem kept_hubOf (space off : Nat) : (s.kept k).hubOf space off = s.hubOf space off := (rfl)
@[simp] theorem kept_granted (c x q lo hi : Nat) : (s.kept k).granted c x q lo hi = s.granted c x q lo hi := (rfl)

@[simp] theorem checkKeys_kept (wr : Bool) (keys : List Nat) : checkKeys (s.kept k) r wr keys = checkKeys s r wr keys := by
  simp only [checkKeys, kept_ctxPart, kept_pageOk, kept_hubOf, kept_granted]

@[simp] theorem checkKeys_record (wr : Bool) (keys : List Nat) : checkKeys s (r.kept k) wr keys = checkKeys s r wr keys := by
  simp only [checkKeys, kept_ctx, kept_queue]

@[simp] theorem byteFor_kept (key : Nat) : (s.kept k).byteFor r key = s.byteFor r key := rfl
@[simp] theorem byteFor_record (key : Nat) : s.byteFor (r.kept k) key = s.byteFor r key := rfl
@[simp] theorem tagFor_kept (key : Nat) : (s.kept k).tagFor r key = s.tagFor r key := rfl
@[simp] theorem tagFor_record (key : Nat) : s.tagFor (r.kept k) key = s.tagFor r key := rfl
@[simp] theorem scratchByte_kept (j l o : Nat) : scratchByte h r (s.kept k) j l o = scratchByte h r s j l o := rfl
@[simp] theorem scratchByte_record (j l o : Nat) : scratchByte h (r.kept k) s j l o = scratchByte h r s j l o := rfl
@[simp] theorem rangeContents_kept (a : Area) : rangeContents h r (s.kept k) a = rangeContents h r s a := rfl
@[simp] theorem rangeContents_record (a : Area) : rangeContents h (r.kept k) s a = rangeContents h r s a := rfl
@[simp] theorem rangeTags_kept (a : Area) : rangeTags h r (s.kept k) a = rangeTags h r s a := rfl
@[simp] theorem rangeTags_record (a : Area) : rangeTags h (r.kept k) s a = rangeTags h r s a := rfl

@[simp] theorem keyOf_kept (slot pkg space off : Nat) : keyOf (s.kept k) h slot pkg space off = keyOf s h slot pkg space off := by
  have hcl : ((s.kept k).runOf h.lead).map (fun r => r.clusters) = (s.runOf h.lead).map (fun r => r.clusters) := by
    rw [runOf_kept, Option.map_map]
    rfl
  simp only [keyOf, hcl]
  rfl

@[simp] theorem spanKeys_kept (slot base off n : Nat) : spanKeys (s.kept k) h slot base off n = spanKeys s h slot base off n := by
  simp [spanKeys]

@[simp] theorem tenKeys_kept (slot : Nat) (t : Ten) : tenKeys (s.kept k) h slot t = tenKeys s h slot t := by
  simp [tenKeys]

@[simp] theorem leaseBarAt_kept (a n : Nat) : leaseBarAt (s.kept k) h a n = leaseBarAt s h a n := by
  rw [leaseBarAt, leaseBarAt, runOf_kept]
  cases s.runOf h.lead <;> rfl

@[simp] theorem leaseBars_kept (t : Ten) : leaseBars (s.kept k) h t = leaseBars s h t := by
  simp [leaseBars]

end Sight

section Shared
variable {keep : Option (Nat → HaloFlag → Bool)} {s : State} {h : Here}

/-! ## Memory and scratchpad (R107 to R109, R117, R123) -/

theorem cluGranule_calm (hs : Calm s) (lead ctx g : Nat) : s.cluGranule lead ctx g = s := by
  simp [State.cluGranule, calm_struck hs, Struck.none]

theorem foldl_cluGranule_calm (hs : Calm s) (lead ctx : Nat) (gs : List Nat) : gs.foldl (fun t g => t.cluGranule lead ctx g) s = s := by
  induction gs with
  | nil => rfl
  | cons g gs ih => rw [List.foldl_cons, cluGranule_calm hs, ih]

/-- What a read of memory gives in a calm state. -/
def readValue (h : Here) (keys : List Nat) (s : State) : Except Halt (List (Nat × Nat)) :=
  let r := (s.runOf h.lead).getD Run.blank
  match checkKeys s r false keys with
  | .error e => .error { why := e, held := s }
  | .ok _ =>
    let miss := keys.filter (fun k => isRemote k && (kvGet r.overlay k).isNone && (kvGet r.fetched k).isNone)
    if !miss.isEmpty then .error { why := .wait (keyRuns (miss.foldl (fun l k => insertNat k l) [])), held := s }
    else .ok (keys.map (fun k => (s.byteFor r k, s.tagFor r k)))

theorem readKeys_calm (hs : Calm s) (keys : List Nat) : readKeys h keys s = (readValue h keys s).map (fun x => (x, s)) := by
  have hfold := foldl_cluGranule_calm hs h.lead
  have hstruck := calm_struck hs h.lead
  show (match checkKeys s ((s.runOf h.lead).getD Run.blank) false keys with | .error e => halt e | .ok _ => _ : Act _) s = _
  unfold readValue
  generalize hr : (s.runOf h.lead).getD Run.blank = r at hstruck ⊢
  cases hc : checkKeys s r false keys with
  | error e =>
    simp only [hc]
    rfl
  | ok _ =>
    simp only [hc, hfold, hstruck, Struck.none, List.filter_nil, List.foldl_nil]
    split
    · rfl
    · rw [← hr]
      rfl

@[simp] theorem tame_readKeys (keys : List Nat) : Tame keep (readKeys h keys) s :=
  tame_of_reads (readValue h keys) (fun s hs => readKeys_calm hs keys) fun k s x hx => by
    simp only [readValue, runOf_kept_getD, checkKeys_kept, checkKeys_record, byteFor_kept, byteFor_record, tagFor_kept, tagFor_record,
      kept_overlay, kept_fetched] at hx ⊢
    split at hx
    · cases hx
    · next hc =>
      split at hx
      · cases hx
      · next hm => simp only [hm]; exact hx

@[simp] theorem tame_writeKeys (cells : List (Nat × Nat × Nat)) : Tame keep (writeKeys h cells) s := by
  refine tame_get_bind (fun _ _ => by simp) fun u => tame_getRun_bind (fun _ _ _ => by simp) fun r => ?_
  split
  · simp
  · exact tame_putRun h (fun _ hr => hr) fun _ _ _ => rfl

@[simp] theorem tame_readTen (slot : Nat) (t : Ten) : Tame keep (readTen h slot t) s := by
  refine tame_get_bind (fun _ _ => by simp) fun u => ?_
  split
  · simp
  · simp only [tame_bind, tame_ite, tame_readKeys]
    intro bs t1 _
    refine ⟨fun _ => ?_, by simp⟩
    split <;> simp

@[simp] theorem tame_writeTen (slot : Nat) (t : Ten) (a : Arr) : Tame keep (writeTen h slot t a) s := by
  refine tame_get_bind (fun _ _ => by simp) fun u => ?_
  split
  · simp
  · simp only [tame_ite]
    refine ⟨fun _ => ?_, fun _ => by simp⟩
    split <;> simp

@[simp] theorem tame_strike (j l : Nat) (grans : List Nat) : Tame keep (strike h j l grans) s :=
  tame_of_reads (fun _ => .ok ()) (fun _ hs => strike_calm hs h j l grans) fun _ _ _ hx => hx

@[simp] theorem tame_readScratch (j l : Nat) (offs : List Nat) : Tame keep (readScratch h j l offs) s :=
  tame_of_reads (fun s => .ok (offs.map (scratchByte h ((s.runOf h.lead).getD Run.blank) s j l)))
    (fun _ hs => readScratch_calm hs h j l offs) fun k s x hx => by
      rw [runOf_kept_getD]
      exact hx

theorem scratchWritten_kept (k : Nat → HaloFlag → Bool) (j l : Nat) (cells : List (Nat × Nat × Nat)) :
    scratchWritten h j l cells (s.kept k) = (scratchWritten h j l cells s).kept k := by
  have hcells : scratchCells h j l cells (s.kept k) = scratchCells h j l cells s := by
    simp only [scratchCells, scratchFilled, freshBytes, runOf_kept_getD, scratchByte_kept, scratchByte_record]
    rfl
  have htags : scratchTags h j l cells (s.kept k) = scratchTags h j l cells s := by
    simp only [scratchTags, granuleTag, runOf_kept_getD, scratchByte_kept, scratchByte_record]
    rfl
  rw [scratchWritten, hcells, htags]
  exact setRun_kept (s := { s with scratch := _, scratchG := _ }) (f := fun r => { r with virts := r.virts.map (Virt.cut cells) }) (fun _ => rfl) _

@[simp] theorem tame_writeScratch (j l : Nat) (cells : List (Nat × Nat × Nat)) : Tame keep (writeScratch h j l cells) s := by
  refine ⟨fun x t ⟨hs, ht⟩ => ?_⟩
  rw [writeScratch_eq] at ht
  cases ht
  exact ⟨⟨⟨fun _ => rfl, rfl⟩, scratchWritten_calm hs⟩, fun k _ => by rw [writeScratch_eq, scratchWritten_kept]⟩

@[simp] theorem tame_readArea (j l : Nat) (a : Area) : Tame keep (readArea h j l a) s := by
  unfold readArea
  split <;> simp

@[simp] theorem tame_writeArea (j l : Nat) (a : Area) (v : Arr) : Tame keep (writeArea h j l a v) s := by
  unfold writeArea
  split <;> simp

/-! ## Operands (R133, R140, R142, R143) -/

@[simp] theorem tame_descOf (ix slot : Nat) : Tame keep (descOf h ix slot) s := by simp [descOf]

@[simp] theorem tame_opndAt (ix slot : Nat) (wr : Bool) : Tame keep (opndAt h ix slot wr) s := by
  unfold opndAt
  refine .seq (tame_descOf ..) fun d t => ?_
  split
  · refine .seq (tame_need ..) fun _ _ => ?_
    split
    · simp
    · exact tame_get_bind (fun _ _ => by simp) fun _ => by simp
  · split
    · split <;> simp
    · simp

@[simp] theorem tame_opnd (slot : Nat) (wr : Bool) : Tame keep (opnd h slot wr) s := tame_opndAt ..

@[simp] theorem tame_opndOpt (slot : Nat) : Tame keep (opndOpt h slot) s := by simp [opndOpt]

@[simp] theorem tame_fetchSpread (ix : Nat) (a : Area) : Tame keep (fetchSpread h ix a) s := by
  refine .seq (tame_forIn fun _ _ _ => by simp) fun _ _ => ?_
  refine tame_get_bind (fun _ _ => by simp) fun u => tame_getRun_bind (fun _ _ _ => by simp) fun r => ?_
  split
  · simp
  · split <;> simp

@[simp] theorem tame_keepSpread (ix : Nat) (a : Area) (v : Arr) : Tame keep (keepSpread h ix a v) s :=
  tame_putRun h (fun _ hr => hr) fun _ _ _ => rfl

@[simp] theorem tame_storeSpread (ix : Nat) (a : Area) (v : Arr) : Tame keep (storeSpread h ix a v) s := by
  refine .seq (tame_need ..) fun _ _ => .seq (tame_modify (fun s hs => ⟨⟨fun _ => rfl, rfl⟩, hs⟩) fun _ _ => rfl) fun _ _ => by simp

@[simp] theorem tame_dimsOf (o : Opnd) : Tame keep (dimsOf h o) s := by
  unfold dimsOf
  split
  · simp
  · split
    · simp
    · exact tame_getRun_bind (fun _ _ _ => by simp) fun _ => by simp

@[simp] theorem tame_fetch (o : Opnd) : Tame keep (fetch h o) s := by
  unfold fetch
  split
  · simp
  · split <;> simp

@[simp] theorem tame_store (o : Opnd) (a : Arr) : Tame keep (store h o a) s := by
  unfold store
  split
  · simp
  · split <;> simp

/-! ## Counts, fields and keys (R94, R137, R145) -/

@[simp] theorem tame_bumpAt (ix : Nat) (f : Counts → Counts) : Tame keep (bumpAt h ix f) s := by
  refine tame_putRun h (fun r hr => ?_) fun k _ r => ?_
  · split <;> exact hr
  · show (if r.counts.any _ then _ else _) = (if r.counts.any _ then _ else _ : Run).kept k
    split <;> rfl

@[simp] theorem tame_bump (o : Opnd) (f : Counts → Counts) : Tame keep (bump h o f) s := tame_bumpAt ..

@[simp] theorem tame_bumpElements (ix n : Nat) : Tame keep (bumpElements h ix n) s := tame_bumpAt ..

@[simp] theorem tame_bumpRes (o : Opnd) (rs : List Res) : Tame keep (bumpRes h o rs) s := tame_bump ..

@[simp] theorem tame_storeRes (o : Opnd) (dims : List Nat) (rs : List Res) (tags : List Nat) : Tame keep (storeRes h o dims rs tags) s := by
  simp [storeRes]

@[simp] theorem tame_needFields (modMask immMask : Nat) : Tame keep (needFields h modMask immMask) s := tame_need ..

@[simp] theorem tame_needNone (slot : Nat) : Tame keep (needNone h slot) s := tame_need ..

@[simp] theorem tame_needShape (a b : List Nat) : Tame keep (needShape a b) s := tame_need ..

@[simp] theorem tame_keyAt (ix slot : Nat) : Tame keep (keyAt h ix slot) s := by
  unfold keyAt
  simp only [tame_ite, tame_skip, implies_true, true_and]
  intros
  split <;> simp

@[simp] theorem tame_draws (key : Quad) (purpose : Nat) (o : Opnd) (n : Nat) : Tame keep (draws h key purpose o n) s := by
  refine tame_getRun_bind (fun _ _ _ => by simp) fun r => ?_
  split <;> simp

/-! ## Maps and pooling (R192 to R196, R208 to R211, R217, R218) -/

@[simp] theorem tame_geometry (smax : Nat) (win : Bool) (kmax : Nat) (fac sfp excl : Bool) :
    Tame keep (geometry h smax win kmax fac sfp excl) s := by
  unfold geometry
  exact .seq (tame_need ..) fun _ _ => .seq (tame_need ..) fun _ _ => .seq (tame_need ..) fun _ _ => tame_pure _

@[simp] theorem tame_needDims (rank : Nat) (ok : Nat → Nat → Bool) (dims : List Nat) : Tame keep (needDims rank ok dims) s := by
  unfold needDims
  split <;> simp

@[simp] theorem tame_mapOf (layout : Nat) (isRegion : Bool) (dims : List Nat) (c : Option Nat) : Tame keep (mapOf layout isRegion dims c) s := by
  unfold mapOf
  split
  · simp
  · split <;> simp

@[simp] theorem tame_haloRows (g : Geo) (rows : Nat) : Tame keep (haloRows h g rows) s := by
  unfold haloRows
  split <;> simp

/-- The flags of the target's own core stay. -/
def Spares (keep : Option (Nat → HaloFlag → Bool)) (h : Here) : Prop :=
  ∀ k ∈ keep, ∀ p j l, h.pin = some (p, j, l) → ∀ lead f, f.index = h.w.ix → f.core = p → k lead f = true

@[simp] theorem spares_none : Spares none h := by simp [Spares]

/-- Leaving out flags of other cores does not change whether a core's own halo rows are full. -/
theorem any_full_kept {k : Nat → HaloFlag → Bool} {p i : Nat} (hk : ∀ lead f, f.index = i → f.core = p → k lead f = true) (r : Run) :
    (r.kept k).halos.any (fun f => f.index == i && f.core == p && f.full) = r.halos.any (fun f => f.index == i && f.core == p && f.full) := by
  refine List.any_filter.trans (congrArg r.halos.any (funext fun f => ?_))
  by_cases hf : f.index = i ∧ f.core = p
  · simp [hk r.lead f hf.1 hf.2]
  · grind

theorem tame_haloReady (hk : Spares keep h) (g : Geo) : Tame keep (haloReady h g) s := by
  unfold haloReady
  split
  · simp
  · cases hp : h.pin with
    | none => exact tame_getRun_bind (fun _ _ _ => rfl) fun _ => tame_pure _
    | some q => exact tame_getRun_bind (fun k hkm r => by simp only [any_full_kept (hk k hkm _ _ _ hp)]) fun _ => by simp

section Halos
variable (hk : Spares keep h)
include hk

theorem tame_readMap (slot layout fmt : Nat) (c : Option Nat) (pad : Factor) (halo : Option Geo) :
    Tame keep (readMap h slot layout fmt c pad halo) s := by
  unfold readMap
  cases halo with
  | none => simp
  | some g => simp [tame_haloReady hk]

theorem tame_poolMap (g : Geo) (layout : Nat) (pad : Factor) : Tame keep (poolMap h g layout pad) s := by
  unfold poolMap
  simp [tame_readMap hk]

end Halos

@[simp] theorem tame_poolGeo (excl : Bool) : Tame keep (poolGeo h excl) s := by
  simp [poolGeo]

@[simp] theorem tame_argMap (slot layout : Nat) : Tame keep (argMap h slot layout) s := by
  simp [argMap]

@[simp] theorem tame_storeMap (o : Opnd) (layout c w y n : Nat) (rs : List (Res × Nat)) : Tame keep (storeMap h o layout c w y n rs) s := by
  simp [storeMap]

@[simp] theorem tame_poolBack (g : Geo) (d : MapData) (part : Nat → Nat → Nat → Nat → Nat → Option Fp × Nat) :
    Tame keep (poolBack h g d part) s := by
  simp [poolBack]

section Pools
variable (hk : Spares keep h)
include hk

theorem tame_doPoolMax : Tame keep (doPoolMax h) s := by
  simp [doPoolMax, tame_poolMap hk]

theorem tame_doPoolAvg : Tame keep (doPoolAvg h) s := by
  simp [doPoolAvg, tame_poolMap hk]

theorem tame_doPoolMaxBwd : Tame keep (doPoolMaxBwd h) s := by
  simp [doPoolMaxBwd, tame_poolMap hk]

theorem tame_doPoolAvgBwd : Tame keep (doPoolAvgBwd h) s := by
  simp [doPoolAvgBwd, tame_poolMap hk]

end Pools

end Shared

section Words
variable {s : State} {h : Here}

/-! ## What a skip leaves (R125) -/

@[simp] theorem tame_readBytes (slot base n : Nat) : Tame none (readBytes h slot base n) s := by
  refine .seq tame_get fun u _ => .seq (tame_need ..) fun _ _ => ?_
  split <;> simp

@[simp] theorem tame_fillOpnd (o : Opnd) (coming : List Nat) : Tame none (fillOpnd h o coming) s := by
  unfold fillOpnd
  split
  · exact tame_store ..
  · split
    · exact tame_store ..
    · exact tame_writeScratch ..

@[simp] theorem tame_fillAt (ix slot : Nat) (coming : List Nat) : Tame none (fillAt h ix slot coming) s := by
  refine ⟨fun x t ⟨hs, ht⟩ => ⟨?_, by simp⟩⟩
  unfold fillAt at ht
  split at ht
  · next o u ho =>
    have hu := (tame_opndAt (keep := none) ix slot true).outputs hs ho
    split at ht
    · next hf =>
      cases ht
      exact hu.trans ((tame_fillOpnd ..).outputs hu.2 hf)
    · cases ht
      exact ⟨.refl _, hs⟩
  · cases ht
    exact ⟨.refl _, hs⟩

@[simp] theorem tame_drainFill : Tame none (drainFill h) s := by
  simp [drainFill]

/-! ## MOVE and RAND (R84, R116, R146, R147) -/

/-- A source hint of 0 or 1 leaves no trace. -/
theorem tame_hintRead (o : Opnd) {hint : Nat} (hh : hint < 2) : Tame none (hintRead h o hint) s := by
  refine ⟨fun x t ⟨hs, ht⟩ => ⟨?_, by simp⟩⟩
  have hn : (decide (hint = 0) || decide (hint = 1)) = true := by
    simp
    omega
  unfold hintRead at ht
  split at ht
  · rw [if_pos hn] at ht
    cases ht
    exact ⟨.refl _, hs⟩
  · cases ht
    exact ⟨.refl _, hs⟩

@[simp] theorem tame_hintWrite (o : Opnd) (hint : Nat) : Tame none (hintWrite h o hint) s := by
  refine ⟨fun x t ⟨hs, ht⟩ => ⟨?_, by simp⟩⟩
  unfold hintWrite at ht
  split at ht
  · cases ht
    exact outputs_setRun hs _ fun _ hr => hr
  · cases ht
    exact ⟨.refl _, hs⟩

theorem tame_moveCopy (hw : h.w.mod % 4 < 2) : Tame none (moveCopy h) s := by
  simp [moveCopy, tame_hintRead _ hw]

@[simp] theorem tame_castArea (a : Area) (v : Arr) (l : List (Nat × Nat)) : Tame none (castArea h a v l) s := by
  induction l generalizing s with
  | nil => exact tame_pure _
  | cons x xs ih => exact .seq (tame_writeArea ..) fun _ _ => ih

@[simp] theorem tame_regionOf (slot : Nat) : Tame none (regionOf h slot) s := by
  refine .seq (tame_opnd ..) fun o _ => ?_
  split <;> simp

theorem tame_moveCast (hw : h.w.mod % 4 < 2) : Tame none (moveCast h) s := by
  simp [moveCast, tame_hintRead _ hw]

@[simp] theorem tame_moveFill : Tame none (moveFill h) s := by
  refine .seq (tame_needFields ..) fun _ _ => .seq (tame_needNone ..) fun _ _ => .seq (tame_needNone ..) fun _ _ =>
    .seq (tame_opnd ..) fun dst _ => .seq (tame_dimsOf ..) fun dims _ => ?_
  split <;> simp

@[simp] theorem tame_doRand : Tame none (doRand h) s := by
  simp [doRand]

/-! ## SYNC, CHAIN and STAT (R113, R148 to R150) -/

@[simp] theorem tame_doSync : Tame none (doSync h) s := by
  simp [doSync]

@[simp] theorem tame_doChainBegin : Tame none (doChainBegin h) s := by
  simp [doChainBegin]

@[simp] theorem stageEnd_struck (r : Run) : (stageEnd r).struck = r.struck := by
  unfold stageEnd
  split
  · rfl
  · split <;> rfl

@[simp] theorem tame_doChainStage : Tame none (doChainStage h) s := by
  refine (tame_bind (tame_getRun h)).mpr fun r t hr => ?_
  split
  · simp
  · simp [hr.struck]

@[simp] theorem tame_doChainEnd : Tame none (doChainEnd h) s := by
  simp [doChainEnd]

@[simp] theorem tame_statWrite (v : Nat) : Tame none (statWrite h v) s := by
  refine .seq (tame_need ..) fun _ _ => .seq (tame_needFields ..) fun _ _ => .seq (tame_needNone ..) fun _ _ =>
    .seq (tame_needNone ..) fun _ _ => .seq (tame_regionOf ..) fun o _ => .seq (tame_need ..) fun _ _ => ?_
  split <;> simp

@[simp] theorem tame_doStatTime : Tame none (doStatTime h) s := by
  simp [doStatTime]

@[simp] theorem tame_doStatStep : Tame none (doStatStep h) s := by
  simp [doStatStep]

@[simp] theorem tame_doStatCores : Tame none (doStatCores h) s := by
  simp [doStatCores]

/-! ## VEC (R85 to R94, R232, R465) -/

@[simp] theorem tame_likeOut (o : Opnd) (dims : List Nat) : Tame none (likeOut h o dims) s := by
  simp [likeOut]

@[simp] theorem tame_doVecBinary : Tame none (doVecBinary h) s := by
  simp [doVecBinary]

@[simp] theorem tame_doVecFma : Tame none (doVecFma h) s := by
  simp [doVecFma]

@[simp] theorem tame_doVecUnary : Tame none (doVecUnary h) s := by
  simp [doVecUnary]

@[simp] theorem tame_storeWords (o : Opnd) (dims : List Nat) (ws : List (Exa × Nat)) : Tame none (storeWords h o dims ws) s := by
  simp [storeWords]

@[simp] theorem tame_doVecReduce : Tame none (doVecReduce h) s := by
  simp [doVecReduce]

@[simp] theorem tame_doVecConvert : Tame none (doVecConvert h) s := by
  simp [doVecConvert]

@[simp] theorem tame_doVecImac : Tame none (doVecImac h) s := by
  simp [doVecImac]

@[simp] theorem tame_doVecNarrow : Tame none (doVecNarrow h) s := by
  simp [doVecNarrow]

@[simp] theorem tame_doVecCompare : Tame none (doVecCompare h) s := by
  simp [doVecCompare]

/-! ## MATMUL and CONV (R144, R194 to R206) -/

@[simp] theorem tame_putProduct (p : Product) : Tame none (putProduct h p) s := by
  simp [putProduct]

@[simp] theorem tame_haloDone : Tame none (haloDone h) s := by
  unfold haloDone
  split <;> simp

@[simp] theorem tame_spillWords (n : Nat) : Tame none (spillWords h n) s := by
  refine .seq (tame_opndOpt ..) fun o _ => ?_
  cases o <;> simp

@[simp] theorem tame_doMatmul : Tame none (doMatmul h) s := by
  unfold doMatmul
  split
  · exact tame_skip ..
  · refine .seq (tame_needFields ..) fun _ _ => .seq (tame_opnd ..) fun ao _ => .seq (tame_opnd ..) fun bo _ => .seq (tame_need ..) fun _ _ =>
      .seq (tame_fetch ..) fun a _ => .seq (tame_fetch ..) fun b _ => ?_
    split
    · exact .seq (tame_need ..) fun _ _ => .seq (tame_need ..) fun _ _ => .seq (tame_spillWords _) fun _ _ => tame_putProduct _
    · exact tame_skip ..

@[simp] theorem tame_filterOpnd : Tame none (filterOpnd h) s := by
  simp [filterOpnd]

@[simp] theorem tame_readFilter (fmt : Nat) : Tame none (readFilter h fmt) s := by
  simp [readFilter]

@[simp] theorem tame_mapChannels (slot layout : Nat) (want : Option Nat) : Tame none (mapChannels h slot layout want) s := by
  simp [mapChannels]

@[simp] theorem tame_emptyProduct : Tame none (emptyProduct h) s := by
  simp [emptyProduct]

@[simp] theorem tame_needContraction (n : Nat) : Tame none (needContraction n) s := by
  simp [needContraction]

@[simp] theorem tame_convDone {f : Here → Act Unit} (hf : Tame none (f h) s) : Tame none (convDone f h) s := by
  simp [convDone, hf]

@[simp] theorem tame_readMap_none (slot layout fmt : Nat) (c : Option Nat) (pad : Factor) (halo : Option Geo) :
    Tame none (readMap h slot layout fmt c pad halo) s := tame_readMap spares_none ..

@[simp] theorem tame_doConv (s2c c2s : Bool) : Tame none (doConv s2c c2s h) s := by
  unfold doConv
  split
  · exact tame_skip ..
  · refine .seq (tame_needFields ..) fun _ _ => .seq (tame_need ..) fun _ _ => .seq (tame_geometry ..) fun g _ => ?_
    split <;> simp

@[simp] theorem tame_doMin (m4 : Bool) : Tame none (doMin m4 h) s := by
  simp [doMin]

/-! ## DRAIN (R71 to R78, R145) -/

@[simp] theorem tame_productOf : Tame none (productOf h) s := by
  refine .seq (tame_getRun h) fun r _ => ?_
  split <;> simp

@[simp] theorem tame_drainAuxOpnd (bias deriv : Bool) : Tame none (drainAuxOpnd h bias deriv) s := by
  simp [drainAuxOpnd]

@[simp] theorem tame_drainAux (o : Option Opnd) (deriv : Bool) (dims : List Nat) (chans : Nat) :
    Tame none (drainAux h o deriv dims chans) s := by
  cases o <;> simp [drainAux]

@[simp] theorem tame_drained (o : Opnd) (p : Product) : Tame none (drained h o p) s := by
  unfold drained
  split <;> simp

@[simp] theorem tame_drainScales : Tame none (drainScales h) s := by
  simp [drainScales]

/-- Where no accumulator is struck, none is tagged. -/
theorem accParity_calm (hs : Calm s) (p : Product) : accParity h p s = .ok (p, s) := by
  simp [accParity, bind, StateT.bind, getRun, Except.bind, calm_struck hs, Struck.none]
  rfl

@[simp] theorem tame_accParity (p : Product) : Tame none (accParity h p) s := by
  refine ⟨fun x t ⟨hs, ht⟩ => ⟨?_, by simp⟩⟩
  rw [accParity_calm hs] at ht
  cases ht
  exact ⟨.refl _, hs⟩

@[simp] theorem tame_doDrain : Tame none (doDrain h) s := by
  refine .seq (tame_need ..) fun _ _ => .seq (tame_needFields ..) fun _ _ => .seq (tame_need ..) fun _ _ => .seq (tame_need ..) fun _ _ =>
    .seq tame_productOf fun p _ => .seq (tame_opnd ..) fun o _ => .seq (tame_need ..) fun _ _ => .seq (tame_need ..) fun _ _ =>
    .seq tame_drainScales fun so _ => .seq (tame_drainAuxOpnd ..) fun ao _ => ?_
  extract_lets -underBinder rest
  have hrest : ∀ key t, Tame none (rest key) t := fun key t => by
    refine .seq (tame_need ..) fun _ _ => ?_
    split
    · exact tame_drainFill
    split
    · exact tame_pure _
    refine .seq (tame_drained ..) fun p' _ => .seq (tame_accParity _) fun p _ => .seq (tame_needShape ..) fun _ _ =>
      .seq (tame_drainAux ..) fun aux _ => ?_
    extract_lets -underBinder write
    have hwrite : ∀ us t, Tame none (write us) t := fun us t => by
      unfold write
      cases so <;> simp
    cases key <;> simp [hwrite]
  simp [hrest]

/-! ## The walk of the page table and its side tensors (R163 to R175) -/

@[simp] theorem tame_tableAt (slot : Nat) (mixed : Bool) : Tame none (tableAt h slot mixed) s := by
  refine .seq (tame_descOf ..) fun d _ => .seq (tame_need ..) fun _ _ => ?_
  split <;> simp

@[simp] theorem tame_sideTen (ix fmt slot : Nat) : Tame none (sideTen h ix fmt slot) s := by
  unfold sideTen
  split
  · exact tame_skip ..
  · extract_lets d
    split <;> simp

@[simp] theorem tame_readFirst (slot : Nat) (t : Ten) (n : Nat) : Tame none (readFirst h slot t n) s := by
  refine .seq tame_get fun u _ => ?_
  split <;> simp

@[simp] theorem tame_walkBytes (wr : Bool) (space off n : Nat) : Tame none (walkBytes h wr space off n) s := by
  simp [walkBytes]

@[simp] theorem tame_walkWord (ent : Bool) (off : Nat) : Tame none (walkWord h ent off) s := by
  refine .seq (tame_walkBytes ..) fun b _ => .seq (tame_getRun h) fun r _ => ?_
  extract_lets key w
  split <;> simp

@[simp] theorem tame_rootOf (root slot : Nat) : Tame none (rootOf h root slot) s := by
  simp [rootOf]

@[simp] theorem tame_entryOf (t : Table) (root : Nat × Nat) (g head kind : Nat) : Tame none (entryOf h t root g head kind) s := by
  simp [entryOf]

@[simp] theorem tame_pageOf (t : Table) (root : Nat × Nat) (slot g head kind : Nat) : Tame none (pageOf h t root slot g head kind) s := by
  refine .seq (tame_entryOf ..) fun e _ => ?_
  split <;> simp

@[simp] theorem tame_pagesOf (t : Table) (root : Nat × Nat) (slot head : Nat) (gs : List Nat) : Tame none (pagesOf h t root slot head gs) s := by
  induction gs generalizing s with
  | nil => exact tame_pure _
  | cons g gs ih => simp [pagesOf, ih]

@[simp] theorem tame_sideTens (t : Table) (P slot : Nat) : Tame none (sideTens h t P slot) s := by
  simp [sideTens]

@[simp] theorem tame_segsOf (t : Table) (P slot : Nat) : Tame none (segsOf h t P slot) s := by
  refine .seq (tame_sideTens ..) fun side _ => ?_
  obtain ⟨marks, globs⟩ := side
  cases marks <;> cases globs <;> simp

/-! ## ATTEND (R176 to R189) -/

@[simp] theorem tame_needRows (o : Opnd) (dims want : List Nat) : Tame none (needRows h o dims want) s := by
  simp [needRows]

@[simp] theorem tame_queryRows (o : Opnd) (dims : List Nat) (d heads : Nat) : Tame none (queryRows h o dims d heads) s := by
  simp [queryRows]

@[simp] theorem tame_rowOut (ix slot : Nat) (fmts want : List Nat) : Tame none (rowOut h ix slot fmts want) s := by
  simp [rowOut]

/-- A step in the free values. -/
@[simp] theorem tame_nextFresh (n : Nat) : Tame none (modify fun s => { s with fresh := s.fresh + n } : Act Unit) s :=
  tame_modify (fun _ hs => ⟨⟨fun _ => rfl, rfl⟩, hs⟩) fun _ _ => rfl

@[simp] theorem tame_attendRows (t : Table) (sg : Segs) (slot : Nat) (q : Arr) (rows : List (Nat × Nat)) :
    Tame none (attendRows h t sg slot q rows) s := by
  refine .seq (tame_rootOf ..) fun root _ => .seq (tame_forIn fun k heads _ => ?_) fun heads _ => .seq (tame_nextFresh 1) fun _ _ => tame_pure _
  exact .seq (tame_pagesOf ..) fun _ _ => tame_pure _

@[simp] theorem tame_fetchSome (o : Opnd) (dims : List Nat) (sel : List Bool) : Tame none (fetchSome h o dims sel) s := by
  unfold fetchSome
  split
  · simp
  · extract_lets es pick rest
    have hrest : ∀ bs t, Tame none (rest bs) t := fun _ _ => tame_pure _
    split
    · refine .seq tame_get fun u _ => ?_
      split <;> simp [hrest]
    · split <;> simp [hrest]
    · simp [hrest]

@[simp] theorem tame_storeSome (o : Opnd) (sel : List Bool) (a : Arr) : Tame none (storeSome h o sel a) s := by
  unfold storeSome
  split
  · simp
  · split
    · refine .seq tame_get fun _ _ => ?_
      split <;> simp
    · split <;> simp
    · simp

@[simp] theorem tame_writeRows (t : Table) (rows : Nat) (out : Opnd × List Nat) (lse : Option (Opnd × List Nat))
    (rs : List (Nat × RowOut × Nat)) : Tame none (writeRows h t rows out lse rs) s := by
  cases lse <;> simp [writeRows]

@[simp] theorem tame_lseOut (heads rows : Nat) : Tame none (lseOut h heads rows) s := by
  simp [lseOut]

@[simp] theorem tame_partOf (slot : Nat) (ws : List Nat) : Tame none (partOf slot ws) s := by
  simp [partOf]

@[simp] theorem tame_partsOf (slot : Nat) (l : List (List Nat)) : Tame none (partsOf slot l) s := by
  induction l generalizing s with
  | nil => exact tame_pure _
  | cons w t ih => simp [partsOf, ih]

@[simp] theorem tame_partDims (o : Opnd) (dims : List Nat) (outCols : Option Nat) : Tame none (partDims o dims outCols) s := by
  refine .seq (tame_need ..) fun _ _ => ?_
  extract_lets c
  split
  · simp
  · refine .seq (tame_need ..) fun _ _ => ?_
    split <;> simp

@[simp] theorem tame_attendDone (src tags : List Nat) : Tame none (attendDone h src tags) s := tame_putProduct _

@[simp] theorem tame_attendWalk : Tame none (attendWalk h) s := by
  simp [attendWalk]

@[simp] theorem tame_attendMerge : Tame none (attendMerge h) s := by
  simp [attendMerge]

@[simp] theorem tame_doAttendFwd : Tame none (doAttendFwd h) s := by
  simp [doAttendFwd]

@[simp] theorem tame_batchOf (t : Table) : Tame none (batchOf h t) s := by
  simp [batchOf]

@[simp] theorem tame_mixedRows (t : Table) (q : Arr) (w : Bool) (l : List Batch) : Tame none (mixedRows h t q w l) s := by
  induction l generalizing s with
  | nil => exact tame_pure _
  | cons b l ih => simp [mixedRows, ih]

@[simp] theorem tame_doAttendMixed : Tame none (doAttendMixed h) s := by
  simp [doAttendMixed]

@[simp] theorem tame_gradOut (ix slot : Nat) (want : List Nat) : Tame none (gradOut h ix slot want) s := by
  simp [gradOut]

@[simp] theorem tame_doAttendBwd : Tame none (doAttendBwd h) s := by
  refine .seq (tame_need ..) fun _ _ => .seq (tame_need ..) fun _ _ => .seq (tame_tableAt ..) fun t _ => .seq (tame_opnd ..) fun qo _ =>
    .seq (tame_dimsOf ..) fun qd _ => .seq (tame_queryRows ..) fun rows _ => .seq (tame_need ..) fun _ _ => .seq (tame_gradOut ..) fun dq _ =>
    .seq (tame_opndAt ..) fun go _ => .seq (tame_need ..) fun _ _ => .seq (tame_dimsOf ..) fun gd _ => .seq (tame_needRows ..) fun _ _ =>
    .seq (tame_opndAt ..) fun so _ => .seq (tame_need ..) fun _ _ => .seq (tame_dimsOf ..) fun sd _ => .seq (tame_needRows ..) fun _ _ =>
    .seq (tame_gradOut ..) fun kv _ => .seq (tame_fetch ..) fun q _ => .seq (tame_fetch ..) fun g _ => .seq (tame_fetch ..) fun st _ =>
    .seq (tame_segsOf ..) fun sg _ => .seq (tame_rootOf ..) fun root _ => .seq (tame_forIn fun k _ _ => ?_) fun heads _ =>
    .seq (tame_nextFresh 1) fun _ _ => .seq (tame_storeWords ..) fun _ _ => .seq (tame_storeWords ..) fun _ _ => tame_attendDone ..
  exact .seq (tame_pagesOf ..) fun _ _ => tame_pure _

/-! ## SCATTER_KV (R183 to R185) -/

@[simp] theorem tame_slotsOf : Tame none (slotsOf h) s := by
  refine .seq (tame_descOf ..) fun d _ => .seq (tame_need ..) fun _ _ => ?_
  split <;> simp

@[simp] theorem tame_placeOf (t : Table) (root : Nat × Nat) (p row head kind : Nat) : Tame none (placeOf h t root p row head kind) s := by
  refine .seq (tame_entryOf ..) fun e _ => ?_
  split <;> simp

@[simp] theorem tame_placesOf (t : Table) (root : Nat × Nat) (pos : List Int) : Tame none (placesOf h t root pos) s := by
  refine .seq (tame_forIn fun x _ _ => .seq (tame_forIn fun hd _ _ => .seq (tame_forIn fun k _ _ => ?_) fun _ _ => tame_pure _)
    fun _ _ => tame_pure _) fun _ _ => tame_pure _
  exact .seq (tame_placeOf ..) fun _ _ => tame_pure _

@[simp] theorem tame_scatterTable : Tame none (scatterTable h) s := by
  simp [scatterTable]

@[simp] theorem tame_holdScatter (cells tags : List (Nat × Nat)) : Tame none (holdScatter h cells tags) s := by
  simp [holdScatter]

@[simp] theorem tame_doScatter : Tame none (doScatter h) s := by
  simp [doScatter]

/-! ## REDUCE (R249 to R253, R265, R268, R271) -/

@[simp] theorem tame_redOf : Tame none (redOf h) s := by
  refine .seq (tame_descOf ..) fun d _ => .seq (tame_need ..) fun _ _ => ?_
  split <;> simp

@[simp] theorem tame_slotGroups (a : Arr) : Tame none (slotGroups a) s := by
  simp [slotGroups]

@[simp] theorem tame_ownKeys (a n : Nat) : Tame none (ownKeys h a n) s := by
  simp [ownKeys]

@[simp] theorem tame_addSend (d : RedArgs) (p : AccPacket) : Tame none (addSend h d p) s := by
  refine ⟨?_⟩
  rintro _ _ ⟨hs, ⟨⟩⟩
  exact ⟨⟨⟨fun _ => rfl, rfl⟩, hs⟩, by simp⟩

@[simp] theorem tame_holdSends (d : RedArgs) (ps : List (AccPacket × Nat)) : Tame none (holdSends h d ps) s := by
  simp [holdSends]

@[simp] theorem tame_localOut (d : RedArgs) : Tame none (localOut h d) s := by
  unfold localOut
  extract_lets found
  clear_value found
  cases found <;> simp

@[simp] theorem tame_localAdd (d : RedArgs) (a : Arr) : Tame none (localAdd h d a) s := by
  simp [localAdd]

@[simp] theorem tame_doReduceSend : Tame none (doReduceSend h) s := by
  refine .seq (tame_need ..) fun _ _ => .seq (tame_needFields ..) fun _ _ => .seq (tame_needNone ..) fun _ _ => .seq tame_redOf fun d _ =>
    .seq (tame_need ..) fun _ _ => .seq (tame_opnd ..) fun o _ => .seq (tame_need ..) fun _ _ => .seq (tame_need ..) fun _ _ =>
    .seq tame_get fun u _ => .seq (tame_getRun h) fun r _ => .seq (tame_fetch ..) fun a _ => ?_
  split
  · simp
  · refine .seq (tame_localAdd ..) fun g _ => ?_
    cases g <;> simp

@[simp] theorem tame_readOut : Tame none (readOut h) s := by
  refine .seq (tame_opnd ..) fun o _ => ?_
  split <;> simp

@[simp] theorem tame_drainSlots (o : Opnd) (dims : List Nat) (form : Nat) (ws : List Exa) (us : List (Option Nat)) :
    Tame none (drainSlots h o dims form ws us) s := by
  simp [drainSlots]

@[simp] theorem tame_doReduceRead : Tame none (doReduceRead h) s := by
  simp [doReduceRead]

@[simp] theorem tame_doReduceStats : Tame none (doReduceStats h) s := by
  refine .seq (tame_need ..) fun _ _ => .seq (tame_needFields ..) fun _ _ => .seq (tame_needNone ..) fun _ _ => .seq tame_redOf fun d _ =>
    .seq tame_readOut fun o _ => .seq (tame_need ..) fun _ _ => .seq (tame_need ..) fun _ _ => .seq tame_get fun u _ =>
    .seq (tame_getRun h) fun r _ => ?_
  extract_lets x w
  split
  · simp
  · split <;> simp

end Words

section Frames
variable {s t u : State} {h : Here} {body : Here → Act Unit} {hs : List Here}

/-! ## From the effect on every target to the answer -/

/-- Tame effects one target after the other. -/
theorem effectAll_outputs (hb : ∀ x ∈ hs, ∀ s, Tame none (body x) s) (hs' : Calm s) (he : effectAll body hs s = some t) : Outputs s t := by
  induction hs generalizing s with
  | nil =>
    cases he
    exact ⟨.refl _, hs'⟩
  | cons x xs ih =>
    rw [effectAll] at he
    split at he
    · next hx =>
      have hu := (hb x (by simp) s).outputs hs' hx
      exact hu.trans (ih (fun y hy => hb y (by simp [hy])) hu.2 he)
    · cases he

/-- The canonical list of an answer's memory and scratchpad does not matter. -/
theorem onlyCommands_settle (hst : OnlyCommands s t) : OnlyCommands s (settle s t) := by
  obtain ⟨hm, he⟩ := hst
  refine ⟨settle_sameMemory hm, ?_⟩
  rw [settle, he]

/-- The targets of a word are places of that word. -/
theorem word_of_mem_aims {pl : Placing} {x : Here} (hx : x ∈ aims pl h) : x.w = h.w := by
  unfold aims targets at hx
  split at hx
  · rw [List.mem_singleton.mp hx]
  · split at hx
    · rw [List.mem_singleton.mp hx]
    · obtain ⟨_, _, rfl⟩ := List.mem_map.mp hx
      rfl

variable {x : Instr} {is is' : Word128 → Bool} {pl : Placing} {c i : Nat}

/-- What a ready word whose effect is tame leads to. -/
theorem Ready.outputs (h : Ready is pl body c i s t) (hs : Calm s) (hb : ∀ x s, is x.w = true → Tame none (body x) s) : Outputs s t := by
  obtain ⟨-, -, hf, r, hr, -, -, he⟩ := h
  have his : is (s.hereAt r i).w = true := by
    simp only [State.inFlight, hr, Bool.and_eq_true] at hf
    exact hf.1.2
  exact effectAll_outputs (fun x hx s => hb x s (by rwa [word_of_mem_aims hx])) hs he

/-- A word of a kind is one of a wider kind. -/
theorem Ready.widen (h : Ready is pl body c i s t) (hw : ∀ w, is w = true → is' w = true) : Ready is' pl body c i s t := by
  obtain ⟨hp, hc, hf, r, hr, hrest⟩ := h
  refine ⟨hp, hc, ?_, r, hr, hrest⟩
  simp only [State.inFlight, hr, Bool.and_eq_true] at hf ⊢
  exact ⟨⟨hf.1.1, hw _ hf.1.2⟩, hf.2⟩

/-- A word that answers what its tame effect leads to, with its command's record changed, changes only what running commands hold. -/
theorem quiet_of_answers {f : Run → Run} (hx : ∀ s t, Ready is pl body c i s t → Answers x s ((t.finish c i).setRun c f))
    (hb : ∀ x s, Tame none (body x) s) : Quiet x is pl body c i := fun s t hs h =>
  ⟨_, hx s t h, onlyCommands_settle (((h.outputs hs fun x s _ => hb x s).1.trans (onlyCommands_setRun ..)).trans (onlyCommands_setRun ..))⟩

/-- A word of a narrower kind that runs its tame effect and leaves the scoreboard changes only what running commands hold. -/
theorem quiet_of_widen (hx : Runs x is' pl body c i) (hw : ∀ w, is w = true → is' w = true)
    (hb : ∀ x s, is x.w = true → Tame none (body x) s) : Quiet x is pl body c i := fun s t hs h =>
  ⟨_, hx s t (h.widen hw), onlyCommands_settle ((h.outputs hs hb).1.trans (onlyCommands_setRun ..))⟩

/-- A word that runs its tame effect and leaves the scoreboard changes only what running commands hold. -/
theorem quiet_of_runWord {fill : Here → Act Unit} (hx : ∀ s, exec x s = onUnit (clusterOk c) "cluster" s (runWord is pl body fill c i s))
    (hb : ∀ x s, Tame none (body x) s) : Quiet x is pl body c i :=
  quiet_of_widen (runs_of_runWord hx) (fun _ h => h) fun x s _ => hb x s

/-! ## POOL: the halo flags of the targets that are done (R218) -/

/-- The rule of a target that is done: every flag stays but its own. -/
def doneRule (h : Here) : Nat → HaloFlag → Bool :=
  match h.pin with
  | none => fun _ _ => true
  | some (p, _, _) => fun lead f => !(lead == h.lead && (f.index == h.w.ix && f.core == p))

/-- A rule that keeps all flags of a record leaves it. -/
theorem kept_of_all {k : Nat → HaloFlag → Bool} {r : Run} (hk : ∀ f, k r.lead f = true) : r.kept k = r := by
  rw [Run.kept, List.filter_eq_self.mpr fun f _ => hk f]

theorem haloDone_eq : haloDone h s = .ok ((), s.kept (doneRule h)) := by
  unfold haloDone doneRule
  cases h.pin with
  | none =>
    have hs : s.runs.map (Run.kept fun _ _ => true) = s.runs :=
      (List.map_congr_left fun r _ => kept_of_all fun _ => rfl).trans (List.map_id _)
    rw [State.kept, hs]
    rfl
  | some q =>
    refine congrArg (fun l => Except.ok ((), { s with runs := l })) (List.map_congr_left fun r _ => ?_)
    by_cases hr : r.lead = h.lead
    · simp [Run.kept, hr]
    · simp [kept_of_all, hr]

/-- Distinct targets of a word spare each other's flags. -/
theorem targets_spare (h : Here) : (targets h).Pairwise (fun x y => Spares (some (doneRule x)) y) := by
  unfold targets pins
  split
  · exact List.pairwise_singleton ..
  · refine List.pairwise_map.mpr (List.pairwise_iff_getElem.mpr fun a b ha hb hab => ?_)
    rintro _ ⟨⟩ p j l hp lead f - hf
    simp only [List.getElem_mapIdx, Option.some.injEq, Prod.mk.injEq] at hp
    have hne : f.core ≠ a := by omega
    simp [doneRule, hne]

theorem effectAll_kept {k : Nat → HaloFlag → Bool} (hb : ∀ x s, Spares (some k) x → Tame (some k) (body x) s)
    (hk : ∀ x ∈ hs, Spares (some k) x) (hs' : Calm s) (he : effectAll body hs s = some t) : effectAll body hs (s.kept k) = some (t.kept k) := by
  induction hs generalizing s with
  | nil =>
    cases he
    rfl
  | cons x xs ih =>
    rw [effectAll] at he ⊢
    split at he
    · next hx =>
      obtain ⟨hu, hxk⟩ := (hb x s (hk x (by simp))).ends _ _ ⟨hs', hx⟩
      rw [hxk k rfl]
      exact ih (fun y hy => hk y (by simp [hy])) hu.2 he
    · cases he

/-- Where the effect goes through on every target, it does so as well when each target empties its halo rows as it ends. -/
theorem effectAll_convDone (hb : ∀ keep x s, Spares keep x → Tame keep (body x) s) (hp : hs.Pairwise (fun x y => Spares (some (doneRule x)) y))
    (hs' : Calm s) (he : effectAll body hs s = some t) : ∃ u, effectAll (convDone body) hs s = some u := by
  induction hs generalizing s t with
  | nil => exact ⟨s, rfl⟩
  | cons x xs ih =>
    obtain ⟨hx, hxs⟩ := List.pairwise_cons.mp hp
    rw [effectAll] at he
    split at he
    · next u hxu =>
      have hu := (hb none x s spares_none).outputs hs' hxu
      obtain ⟨v, hv⟩ := ih hxs (calm_kept hu.2) (effectAll_kept (fun y s => hb _ y s) hx hu.2 he)
      have hd : convDone body x s = .ok ((), u.kept (doneRule x)) := bind_ok.mpr ⟨_, _, hxu, haloDone_eq⟩
      exact ⟨v, by rw [effectAll, hd]; exact hv⟩
    · cases he

/-- A pooling word: it also empties the halo rows of its targets, which is part of its command's record. -/
theorem quiet_of_convDone {fill : Here → Act Unit}
    (hx : ∀ s, exec x s = onUnit (clusterOk c) "cluster" s (runWord is .either (convDone body) fill c i s))
    (hb : ∀ keep x s, Spares keep x → Tame keep (body x) s) : Quiet x is .either body c i := by
  rintro s t hs ⟨hp, hc, hf, r, hr, hpl, hu, he⟩
  obtain ⟨u, hd⟩ := effectAll_convDone hb (targets_spare _) hs he
  exact quiet_of_runWord hx (fun x s => tame_convDone (hb none x s spares_none)) s u hs ⟨hp, hc, hf, r, hr, hpl, hu, hd⟩

end Frames

/-- Settles O12: no effect of the 37 words reaches beyond the records of running commands, scratchpad, the packets held for the commit, the
counters and the place in the free values, and what a word leaves on the scoreboard is its command's record. -/
theorem wordsHoldTheirOutputs : Obligations.WordsHoldTheirOutputs := fun c i => by
  obtain ⟨hcopy, hcast, -, -⟩ := moveAndRandomWordsRun c i
  obtain ⟨-, -, -, -, -, -, -, -, hread, hstats⟩ := sequencingWordsRun c i
  exact ⟨quiet_of_widen hcopy (by simp +contextual) fun x s hx => tame_moveCopy (by simp at hx; omega),
    quiet_of_widen hcast (by simp +contextual) fun x s hx => tame_moveCast (by simp at hx; omega),
    quiet_of_runWord (fun _ => rfl) fun _ _ => tame_moveFill,
    quiet_of_runWord (fun _ => rfl) fun _ _ => tame_doRand,
    quiet_of_runWord (fun _ => rfl) fun _ _ => tame_doMatmul,
    quiet_of_runWord (fun _ => rfl) fun _ _ => tame_convDone (tame_doConv ..),
    quiet_of_runWord (fun _ => rfl) fun _ _ => tame_convDone (tame_doMin ..),
    quiet_of_runWord (fun _ => rfl) fun _ _ => tame_convDone (tame_doMin ..),
    quiet_of_runWord (fun _ => rfl) fun _ _ => tame_convDone (tame_doConv ..),
    quiet_of_runWord (fun _ => rfl) fun _ _ => tame_convDone (tame_doConv ..),
    quiet_of_runWord (fun _ => rfl) fun _ _ => tame_doDrain,
    quiet_of_convDone (fun _ => rfl) fun _ _ _ hk => tame_doPoolMax hk,
    quiet_of_convDone (fun _ => rfl) fun _ _ _ hk => tame_doPoolAvg hk,
    quiet_of_convDone (fun _ => rfl) fun _ _ _ hk => tame_doPoolMaxBwd hk,
    quiet_of_convDone (fun _ => rfl) fun _ _ _ hk => tame_doPoolAvgBwd hk,
    quiet_of_runWord (fun _ => rfl) fun _ _ => tame_doAttendFwd,
    quiet_of_runWord (fun _ => rfl) fun _ _ => tame_doAttendBwd,
    quiet_of_runWord (fun _ => rfl) fun _ _ => tame_doAttendMixed,
    quiet_of_runWord (fun _ => rfl) fun _ _ => tame_doScatter,
    quiet_of_runWord (fun _ => rfl) fun _ _ => tame_doVecBinary,
    quiet_of_runWord (fun _ => rfl) fun _ _ => tame_doVecFma,
    quiet_of_runWord (fun _ => rfl) fun _ _ => tame_doVecUnary,
    quiet_of_runWord (fun _ => rfl) fun _ _ => tame_doVecReduce,
    quiet_of_runWord (fun _ => rfl) fun _ _ => tame_doVecConvert,
    quiet_of_runWord (fun _ => rfl) fun _ _ => tame_doVecImac,
    quiet_of_runWord (fun _ => rfl) fun _ _ => tame_doVecNarrow,
    quiet_of_runWord (fun _ => rfl) fun _ _ => tame_doVecCompare,
    quiet_of_runWord (fun _ => rfl) fun _ _ => tame_doSync,
    quiet_of_runWord (fun _ => rfl) fun _ _ => tame_doChainBegin,
    quiet_of_runWord (fun _ => rfl) fun _ _ => tame_doChainStage,
    quiet_of_runWord (fun _ => rfl) fun _ _ => tame_doChainEnd,
    quiet_of_runWord (fun _ => rfl) fun _ _ => tame_doStatTime,
    quiet_of_runWord (fun _ => rfl) fun _ _ => tame_doStatStep,
    quiet_of_runWord (fun _ => rfl) fun _ _ => tame_doStatCores,
    quiet_of_runWord (fun _ => rfl) fun _ _ => tame_doReduceSend,
    quiet_of_answers hread fun _ _ => tame_doReduceRead,
    quiet_of_answers hstats fun _ _ => tame_doReduceStats⟩

end Sys2Proof.Machine
end
